-- ==== Sys2Proof/Word.lean ====
section
/-!
DEFINITION. The words of the machine: bytes, 64-bit words, lane masks, and the sparse table in which State
keeps every collection with a key (spec/02_programming_model.md R22, R23).
-/

namespace Sys2Proof

/-- One byte. -/
abbrev Byte := BitVec 8

/-- A 64-bit word: a vector register's value in one thread, a pointer, an instruction word (R22, R28, R39). -/
abbrev Word := BitVec 64

/-- One bit for each of a wave's 32 lanes (R10). -/
abbrev Lanes := BitVec 32

/-- A sparse table: keys strictly rising, no entry equal to what an unlisted key reads as. -/
abbrev Table (α : Type) := List (Nat × α)

end Sys2Proof
end

