-- ==== Sys2Proof/Config.lean ====
section
/-!
DEFINITION. What is fixed for the machine, and the free values: constants without a value, one for each number at
which State's free-value counter stands when a step needs a value that the spec leaves open (notes/assumptions/10.md).
-/

namespace Sys2Proof.Config

/-- Lanterns (R5). -/
def lanterns : Nat := 16
/-- Active cores of a lantern (R5). -/
def coresPerLantern : Nat := 24
/-- Threads of a wave (R10). -/
def lanes : Nat := 32
/-- Waves of a quadrant (R10). -/
def wavesPerQuadrant : Nat := 16
/-- General-register slots of a quadrant (R30). -/
def slotsPerQuadrant : Nat := 512
/-- Accumulator rows of a quadrant (R30). -/
def rowsPerQuadrant : Nat := 128
/-- Queue entries of a quadrant (R30). -/
def queueEntriesPerQuadrant : Nat := 256
/-- Scratchpad granules of a core (R30). -/
def granulesPerCore : Nat := 3072
/-- Sconce lines of a lantern: 4 MiB of 64-byte lines (R6). -/
def sconceLines : Nat := 65536
/-- HBM4E bytes of a die (R350). -/
def dieBytes : Nat := 192 * 2 ^ 30
/-- The first physical address of the CXL tier and its length (R350). -/
def cxlBase : Nat := 0x8000000000000
def cxlBytes : Nat := 8 * 2 ^ 40
/-- Task slots, timer entries, counters and watches of a lantern (R284, R287, R289, R297). -/
def taskSlots : Nat := 16384
def timerEntries : Nat := 4096
def counters : Nat := 4096
def watches : Nat := 1024
/-- Ticks of sys.clk in 50 µs, 400 µs, 1 µs and 600 ns at 1.2 GHz (R233, R236, R246, R245, R364). -/
def ticks50us : Nat := 60000
def ticks400us : Nat := 480000
def ticks1us : Nat := 1200
def ticks600ns : Nat := 720
/-- The silence of a partner that loses it, 50 µs, in ticks of sys.clk (R406). -/
def silenceTicks : Nat := 60000

/-- A free value: the word that the spec leaves open at the n-th choice (DESIGN CHOICE, log 10). -/
opaque freeWord : Nat → Word

/-- The SHA-384 hash of the firmware signing key that provisioning fuses (R362): each part has its own (DESIGN CHOICE, log 6). -/
opaque fusedKeyHash : List Byte

/-- The life-cycle management node that the fused record names (R435). -/
opaque fusedMgmtNode : BitVec 12

/-- A fabric node is an S9 whose memory side recognises tags (R388): what the other nodes are is not in the spec. -/
opaque nodeIsS9 : Nat → Bool
/-- The port by which a node is reached: the routing is not in the spec (DESIGN CHOICE, log 40). -/
opaque portOf : Nat → Nat

/-- The event code in an interrupt message for a kind of telemetry event (R434, R441): the spec gives no codes. -/
opaque eventCode : Nat → BitVec 32

/-- The range of the CXL tier behind a port, as (offset, length): the HDM decoders that firmware programs (R439). -/
opaque cxlRange : Nat → Nat × Nat

end Sys2Proof.Config
end

