-- ==== Sys2Proof/Syntax.lean ====
section
/-!
DEFINITION. The instruction set of encoding generation SN3 (spec/03_assembly_and_encodings.md) and the part's
own steps: one constructor of Instr per row of spec/opcode_table.json. A program instruction carries the fields
of its format (R43) that it can use; an event carries the name of the unit it acts on and whatever the outside
world supplies with it (spec/95_what_each_step_holds.md). Events have no encoding.
-/

namespace Sys2Proof

/-- The common header's fields but OPC: STALL, RATE and Y (R41, R42). -/
structure Hdr where
  stall : BitVec 4
  rate  : BitVec 3
  y     : Bool
deriving DecidableEq, Repr

/-- A 9-bit source field (R45). -/
inductive Src where
  /-- register vN -/
  | reg (r : BitVec 8)
  /-- constant table entry (R47) -/
  | const (c : BitVec 6)
  /-- pop the queue (R46) -/
  | pop (q : BitVec 3)
  /-- read the queue's head without removing it (R46) -/
  | peek (q : BitVec 3)
  /-- lane index -/
  | lane
  /-- thread index in workgroup -/
  | tid
  /-- wave index -/
  | wave
  /-- element index at the instruction's rate -/
  | elem
deriving DecidableEq, Repr

/-- GUARD (R50): no guard, or condition register cN, negated when `neg`. -/
inductive Guard where
  | always
  | cond (neg : Bool) (c : BitVec 2)
deriving DecidableEq, Repr

/-- TYPE (R48), in code order. -/
inductive Ty where
  | i64 | n64 | i32x2 | n32x2 | i16x4 | n16x4 | i8x8 | n8x8 | f64 | f32x2 | f16x4 | bf16x4 | f19x2
  | e5m2x8 | e4m3x8 | e3m4x8 | e3m2x8 | e2m3x8 | e2m1x16 | i4x16 | n4x16 | t2x32 | b1x64 | vq2x4 | x16x4 | x32x2
deriving DecidableEq, Repr

/-- SIZE of format M (R43); 111 is reserved. -/
inductive Size where
  | b8 | b16 | b32 | b64 | b64x2 | b64x4 | tile
deriving DecidableEq, Repr

/-- ORD of format M (R43). -/
inductive Ord where
  | relaxed | acquire | release | acqRel
deriving DecidableEq, Repr

/-- SCOPE of format M (R43, R172); 6 and 7 are reserved. -/
inductive Scope where
  | thread | wave | workgroup | gang | device | system
deriving DecidableEq, Repr

/-- Format A (R43): three sources, type, modifiers, guard. -/
structure OpA where
  h   : Hdr
  d   : BitVec 8
  sa  : Src
  sb  : Src
  sc  : Src
  ty  : Ty
  mod : BitVec 4
  g   : Guard
deriving DecidableEq, Repr

/-- Format I (R43): one source and a signed 27-bit immediate. -/
structure OpI where
  h   : Hdr
  d   : BitVec 8
  sa  : Src
  imm : BitVec 27
  g   : Guard
deriving DecidableEq, Repr

/-- Format L (R43): a destination and the 64-bit literal of word 1. -/
structure OpL where
  h   : Hdr
  d   : BitVec 8
  lit : Word
  g   : Guard
deriving DecidableEq, Repr

/-- Format M (R43): a memory instruction. In atomics `off` holds the operation in its high four bits. -/
structure OpM where
  h     : Hdr
  d     : BitVec 8
  sa    : Src
  sb    : Src
  off   : BitVec 10
  size  : Size
  ord   : Ord
  scope : Scope
  g     : Guard
deriving DecidableEq, Repr

/-- Format C (R43): control, with a signed offset in instruction words. -/
structure OpC where
  h   : Hdr
  d   : BitVec 8
  sa  : Src
  tgt : BitVec 27
  g   : Guard
deriving DecidableEq, Repr

/-- Format X (R43): word 0 is format A and word 1 an extension that each instruction defines. -/
structure OpX where
  a  : OpA
  w1 : Word
deriving DecidableEq, Repr

/-- CVT and CVTI: format A whose SB field holds PART and TO in place of a source (R127). EF is the constructor. -/
structure OpCvt where
  h    : Hdr
  d    : BitVec 8
  sa   : Src
  part : BitVec 3
  dst  : Ty
  sc   : Src
  ty   : Ty
  mod  : BitVec 4
  g    : Guard
deriving DecidableEq, Repr

/-- CLOG: two condition registers, a destination and a truth table (R117). -/
structure OpClog where
  h  : Hdr
  d  : BitVec 2
  ca : BitVec 2
  cb : BitVec 2
  tt : BitVec 4
  g  : Guard
deriving DecidableEq, Repr

/-- The kinds of access that a fabric node makes through an inbound window (R433, R444). -/
inductive FabricKind where
  | read
  | write
  /-- an atomic with the operation code of R197; `compare` carries an ATOMC's comparand -/
  | atomic (op : BitVec 4)
  | compareSwap (compare : Word)
deriving DecidableEq, Repr

/-- A fabric access that reaches a partition endpoint of this S9 (R433, R444). -/
structure FabricReq where
  endpoint : Nat
  source   : Nat
  naddr    : Nat
  kind     : FabricKind
  size     : Nat
  data     : List Byte
deriving DecidableEq, Repr

/-- A journal record flit that reaches a partition endpoint of this S9 (R405). -/
structure JournalFlit where
  endpoint : Nat
  source   : Nat
  naddr    : Nat
  record   : List Byte
deriving DecidableEq, Repr

/-- An inbound RoCE WRITE: the connection's node, the window's remote key, the offset and the data (R437). -/
structure RdmaReq where
  node   : Nat
  rkey   : Nat
  offset : Nat
  data   : List Byte
deriving DecidableEq, Repr

/-- The endpoint that a management request names and the node that sends it (R435). `sideband` marks the I3C port (R441). -/
structure MgmtReq where
  endpoint : Nat
  source   : Nat
  sideband : Bool
deriving DecidableEq, Repr

/-- CREATE's arguments (R436). `grant` lists (lantern, first counter, last counter). -/
structure CreateArgs where
  ctx     : Nat
  priv    : Bool
  root    : Word
  level   : Nat
  grant   : List (Nat × Nat × Nat)
  nodes   : List Nat
  parea   : Nat
  code    : Word
  entry   : Word
  threads : Nat
deriving DecidableEq, Repr

/-- START's arguments (R436). -/
structure StartArgs where
  ctx     : Nat
  code    : Word
  entry   : Word
  threads : Nat
deriving DecidableEq, Repr

/-- JOURNAL's arguments (R400, R436). -/
structure JournalArgs where
  ctx       : Nat
  partner   : Nat
  pbase     : Nat
  log2slots : Nat
  shadow    : Nat
  standby   : Option (Nat × Nat)
deriving DecidableEq, Repr

/-- ALLOC's arguments: the range, its permissions, and the 64 KiB frames, or none for frames that firmware
chooses (R436, R445). -/
structure AllocArgs where
  ctx    : Nat
  va     : Nat
  size   : Nat
  r      : Bool
  w      : Bool
  x      : Bool
  frames : List Nat
deriving DecidableEq, Repr

/-- WINDOW's arguments: open or close, the ranges, the nodes and kinds allowed (R436, R444), and for a window
that an Ethernet sender uses its remote key and doorbell (R437). -/
structure WindowArgs where
  ctx      : Nat
  close    : Bool
  nbase    : Nat
  len      : Nat
  vbase    : Nat
  nodes    : List Nat
  reads    : Bool
  writes   : Bool
  atomics  : Bool
  rkey     : Option Nat
  doorbell : Option Word
deriving DecidableEq, Repr

/-- DIVISION's arguments: dies of each partition in order, node numbers, management nodes, and the CXL ranges
(partition, base, length) (R353, R433, R436). -/
structure DivisionArgs where
  dies  : List Nat
  nodes : List Nat
  mgmt  : List Nat
  cxl   : List (Nat × Nat × Nat)
deriving DecidableEq, Repr

/-- A firmware image as FIRMWARE stages it: the bytes that are hashed and loaded, the key and the signature of its
header, and the entry's offset and thread count (R362). -/
structure FirmwareImage where
  bytes     : List Byte
  key       : List Byte
  signature : List Byte
  entry     : Nat
  threads   : Nat
deriving DecidableEq, Repr

/-- One constructor per row of spec/opcode_table.json, in the table's order, but that the events which come from
outside the part stand last. -/
inductive Instr where
  /-- opcode 0x00, R110: Does nothing; a guard is allowed and changes nothing. -/
  | nop (o : OpA)
  /-- opcode 0x01, R110: Copies all 64 bits of the source, together with its shape tag, into vD. -/
  | mov (o : OpA)
  /-- opcode 0x02, R110: Loads the sign-extended 27-bit immediate into vD. -/
  | li (o : OpI)
  /-- opcode 0x03, R110: Loads the 64-bit literal held in word 1 into vD. -/
  | liw (o : OpL)
  /-- opcode 0x04, R111: Integer add per sub-element, wrapped or saturated. -/
  | iadd (o : OpA)
  /-- opcode 0x05, R111: Integer subtract per sub-element, wrapped or saturated. -/
  | isub (o : OpA)
  /-- opcode 0x06, R111: Integer multiply per sub-element, low result, wrapped or saturated. -/
  | imul (o : OpA)
  /-- opcode 0x07, R111: High half of the integer product per sub-element. -/
  | imulh (o : OpA)
  /-- opcode 0x08, R111: Exact integer multiply-add per sub-element, then wrapped or clamped. -/
  | imad (o : OpA)
  /-- opcode 0x09, R110: Adds the sign-extended immediate to SA modulo 2^64. -/
  | iaddi (o : OpI)
  /-- opcode 0x0A, R111: Integer minimum per sub-element. -/
  | imin (o : OpA)
  /-- opcode 0x0B, R111: Integer maximum per sub-element. -/
  | imax (o : OpA)
  /-- opcode 0x0C, R111: Integer absolute value per sub-element. -/
  | iabs (o : OpA)
  /-- opcode 0x0D, R111: Integer negation per sub-element. -/
  | ineg (o : OpA)
  /-- opcode 0x0E, R113: Bitwise AND of all 64 bits. -/
  | and (o : OpA)
  /-- opcode 0x0F, R113: Bitwise OR of all 64 bits. -/
  | or (o : OpA)
  /-- opcode 0x10, R113: Bitwise exclusive OR of all 64 bits. -/
  | xor (o : OpA)
  /-- opcode 0x11, R113: SA AND NOT SB over all 64 bits. -/
  | andn (o : OpA)
  /-- opcode 0x12, R113: Left shift per sub-element. -/
  | shl (o : OpA)
  /-- opcode 0x13, R113: Logical or arithmetic right shift per sub-element. -/
  | shr (o : OpA)
  /-- opcode 0x14, R114: Extracts a bit field per sub-element, sign-extending it for signed types. -/
  | bfe (o : OpA)
  /-- opcode 0x15, R114: Inserts a bit field of SA into vD per sub-element. -/
  | bfi (o : OpA)
  /-- opcode 0x16, R113: Counts the one bits of each sub-element. -/
  | popc (o : OpA)
  /-- opcode 0x17, R113: Counts the leading zeros of each sub-element. -/
  | clz (o : OpA)
  /-- opcode 0x18, R113: Reverses the bit order of each sub-element. -/
  | brev (o : OpA)
  /-- opcode 0x19, R115: Integer compare that writes a condition register, testing any or all sub-elements. -/
  | icmp (o : OpA)
  /-- opcode 0x1A, R116: Selects SA or SB per thread by a condition register. -/
  | sel (o : OpA)
  /-- opcode 0x1B, R118: Adds a shifted offset within the address field of SA's space. -/
  | lea (o : OpA)
  /-- opcode 0x1C, R119: Builds a pointer with a new space and policy. -/
  | pspace (o : OpA)
  /-- opcode 0x1D, R120: Gives each thread base plus thread index times stride, tagged affine where possible. -/
  | mkaff (o : OpA)
  /-- opcode 0x1E, R112: Four-way byte dot product accumulated into 32-bit sub-elements. -/
  | idot4 (o : OpA)
  /-- opcode 0x1F, R117: Combines two condition registers through a 4-bit truth table. -/
  | clog (o : OpClog)
  /-- opcode 0x20, R121: Floating add, rounded once. -/
  | fadd (o : OpA)
  /-- opcode 0x21, R121: Floating subtract, rounded once. -/
  | fsub (o : OpA)
  /-- opcode 0x22, R121: Floating multiply, rounded once. -/
  | fmul (o : OpA)
  /-- opcode 0x23, R121: Fused floating multiply-add, rounded once. -/
  | ffma (o : OpA)
  /-- opcode 0x24, R122: Floating minimum, with -0 below +0 and fixed NaN handling. -/
  | fmin (o : OpA)
  /-- opcode 0x25, R122: Floating maximum, with fixed NaN handling. -/
  | fmax (o : OpA)
  /-- opcode 0x26, R123: Floating compare that writes a condition register. -/
  | fcmp (o : OpA)
  /-- opcode 0x27, R125: Correctly rounded floating division. -/
  | fdiv (o : OpA)
  /-- opcode 0x28, R125: Correctly rounded square root. -/
  | fsqrt (o : OpA)
  /-- opcode 0x29, R125: Correctly rounded reciprocal. -/
  | frcp (o : OpA)
  /-- opcode 0x2A, R125: Correctly rounded reciprocal square root. -/
  | frsq (o : OpA)
  /-- opcode 0x2B, R125: Correctly rounded power of two. -/
  | fexp2 (o : OpA)
  /-- opcode 0x2C, R125: Correctly rounded base-2 logarithm. -/
  | flog2 (o : OpA)
  /-- opcode 0x2D, R125: Correctly rounded sine, with exact argument reduction. -/
  | fsin (o : OpA)
  /-- opcode 0x2E, R125: Correctly rounded cosine. -/
  | fcos (o : OpA)
  /-- opcode 0x2F, R126: Writes the sine into vD and the cosine into vD+1. -/
  | fscs (o : OpA)
  /-- opcode 0x30, R125: Correctly rounded hyperbolic tangent. -/
  | ftanh (o : OpA)
  /-- opcode 0x31, R121: Rounds to an integral value in the selected mode. -/
  | frnd (o : OpA)
  /-- opcode 0x32, R121: Two-term 16-bit dot product accumulated into f32. -/
  | fdot2 (o : OpA)
  /-- opcode 0x33, R122: Clamps a value between a low bound and a high bound. -/
  | fclamp (o : OpA)
  /-- opcode 0x34, R124: Writes a one-hot class of each floating sub-element. -/
  | fclass (o : OpA)
  /-- opcode 0x35, R121: Multiplies by 2^n, rounded once. -/
  | fscale (o : OpA)
  /-- opcode 0x36, R141: Floating sum over the wave positions of the sources, by a fixed tree. -/
  | fsum (o : OpA)
  /-- opcode 0x37, R121: Linear interpolation a + c(b - a), rounded once. -/
  | flerp (o : OpA)
  /-- opcode 0x40, R128: Converts between float types, selecting a part. -/
  | cvt (o : OpCvt)
  /-- opcode 0x40, R129: Converts with error-feedback rounding, updating a residue register. -/
  | cvtEf (o : OpCvt)
  /-- opcode 0x41, R128: Converts between integer types, or between integer and float types. -/
  | cvti (o : OpCvt)
  /-- opcode 0x42, R130: Packs 6-bit slots into the three-byte memory layout. -/
  | pack (o : OpA)
  /-- opcode 0x43, R130: Unpacks the three-byte memory layout into 6-bit slots. -/
  | unpk (o : OpA)
  /-- opcode 0x44, R131: Permutes sub-elements of SA and SC by selectors in SB. -/
  | swz (o : OpA)
  /-- opcode 0x45, R132: Decodes block elements by their block tag into f16 or bf16. -/
  | decb (o : OpA)
  /-- opcode 0x46, R133: Decodes vq2 indices through a codebook page. -/
  | vqdec (o : OpA)
  /-- opcode 0x47, R134: Quantises eight weights to a vq2 index by exact search. -/
  | qnt (o : OpA)
  /-- opcode 0x48, R136: Computes a stateless counter-based random value. -/
  | rand (o : OpA)
  /-- opcode 0x49, R143: Largest magnitude among the source positions. -/
  | amax (o : OpA)
  /-- opcode 0x4A, R138: Moves whole 64-bit registers between lanes. -/
  | shfl (o : OpA)
  /-- opcode 0x4B, R139: Moves sub-elements between wave positions. -/
  | shflx (o : OpA)
  /-- opcode 0x4C, R140: Ballot, any or all of a condition register over the sources. -/
  | vote (o : OpA)
  /-- opcode 0x4D, R140: Writes the mask of sources whose value equals the reader's own. -/
  | peers (o : OpA)
  /-- opcode 0x4E, R141: Reduces over the wave positions of the sources. -/
  | wred (o : OpA)
  /-- opcode 0x4F, R142: Inclusive or exclusive scan over the wave positions of the sources. -/
  | wscan (o : OpA)
  /-- event, R137: Threads waiting at a cross-lane instruction issue together once every member has arrived or exited. -/
  | exchangeGroupIssue (w lane : Nat)
  /-- opcode 0x60, R193: Loads memory into a register group, checking addresses precisely. -/
  | ld (o : OpM)
  /-- opcode 0x61, R193: Stores a register group through the wave's FIFO. -/
  | st (o : OpM)
  /-- opcode 0x62, R194: Access-slice load that pushes one entry into a queue of the paired compute wave. -/
  | ldq (o : OpM)
  /-- opcode 0x63, R195: Prefetches a line toward the core; never faults. -/
  | pref (o : OpM)
  /-- opcode 0x64, R198: Atomic read-modify-write at the memory side. -/
  | atom (o : OpM)
  /-- opcode 0x65, R198: Atomic compare and swap. -/
  | atomc (o : OpM)
  /-- opcode 0x66, R198: Atomic reduction that returns nothing. -/
  | red (o : OpM)
  /-- opcode 0x67, R199: Sends a floating add into the memory channel's ordered queue under its key. -/
  | faddo (o : OpM)
  /-- event, R99: The memory channel applies the next FADDO contribution in key order, once the earlier keys are applied or absent. -/
  | faddoApply (u : Nat) (at_ : Nat)
  /-- opcode 0x68, R200: Takes the workgroup's ticket in a launch-wide ordered exclusive prefix. -/
  | chain (o : OpM)
  /-- event, R200: A waiting ticket is performed once every lower workgroup has performed its ticket or retired. -/
  | chainTicketPerformed (u : Nat) (at_ : Nat)
  /-- opcode 0x69, R201: Waits for acknowledgements or REDB application, then acquires or releases. -/
  | fence (o : OpM)
  /-- opcode 0x6A, R202: Waits until a memory word meets a condition. -/
  | waitm (o : OpM)
  /-- event, R202: A waiting WAITM rereads its word after a write to the line, and the group goes on once every thread passes. -/
  | waitmPass (w lane : Nat)
  /-- opcode 0x6B, R203: Sends a reduction to the owning base die. -/
  | redb (o : OpM)
  /-- event, R183: The base die applies a REDB exactly once, at a place in coherence. -/
  | redbApply (w seq lane : Nat)
  /-- opcode 0x6C, R204: Stores a whole tile and its version word as one unit. -/
  | stt (o : OpM)
  /-- opcode 0x6D, R204: Loads a whole tile and its version word from one point in the tile's order. -/
  | ldt (o : OpM)
  /-- opcode 0x6E, R205: Raises a tile's version and re-fires its watches. -/
  | pubv (o : OpM)
  /-- opcode 0x6F, R206: Sets the snuffed bit of a tile's version word. -/
  | snuff (o : OpM)
  /-- opcode 0x70, R207: Waits for a tile version, or for a settle group to reach zero. -/
  | vwait (o : OpM)
  /-- opcode 0x71, R196: Evicts, pins or unpins a cache line. -/
  | cctl (o : OpM)
  /-- opcode 0x72, R208: Drops instruction-cache lines over a range. -/
  | icinv (o : OpM)
  /-- opcode 0xAA, R213: Copies bytes with a copy engine and writes a promise. -/
  | cpy (o : OpX)
  /-- opcode 0xAB, R213: Multicasts bytes into the scratchpads of gang members. -/
  | cpym (o : OpX)
  /-- opcode 0xAC, R214: Gathers indexed elements with a copy engine. -/
  | cpyg (o : OpX)
  /-- opcode 0xAD, R220: Compresses or expands 4 KiB blocks. -/
  | cpyz (o : OpX)
  /-- opcode 0xAE, R215: Commits accepted key-value entries into a paged cache, resuming from its cursor. -/
  | kvcmt (o : OpX)
  /-- event, R182: A copy engine finishes a copy and frees its Mitten entry. -/
  | copyComplete (w seq : Nat)
  /-- opcode 0xA0, R155: Adds the tile product A×B into accumulator cells. -/
  | mma (o : OpX)
  /-- opcode 0xA1, R156: Matrix product with A rows gathered by index. -/
  | mmag (o : OpX)
  /-- opcode 0xA2, R157: Matrix product over up to 16 row groups, each with its own B. -/
  | mmar (o : OpX)
  /-- opcode 0xA3, R158: Moves bit patterns into the accumulator store by index. -/
  | mperm (o : OpX)
  /-- opcode 0xA4, R166: Loads accumulator cells from registers. -/
  | acld (o : OpX)
  /-- opcode 0xA5, R166: Stores accumulator cells into registers, rounded. -/
  | acst (o : OpX)
  /-- opcode 0xA6, R166: Zeroes a tile of accumulator cells. -/
  | acz (o : OpX)
  /-- opcode 0xA9, R167: Writes a token-tree mask into accumulator scores. -/
  | maskt (o : OpX)
  /-- opcode 0xA7, R162: Makes earlier results and stores visible to the matrix engines and invalidates the latches. -/
  | opfence (o : OpX)
  /-- opcode 0xA8, R163: Waits until at most N engine operations remain uncommitted. -/
  | mwait (o : OpX)
  /-- event, R159: A matrix operation issues once every thread of the expected set has signed its convergence register. -/
  | convergenceRoundIssue (g k : Nat)
  /-- event, R146: An engine operation commits its cells, registers and flags in one step. -/
  | engineCommit (w : Nat)
  /-- opcode 0x80, R303: PC-relative branch. -/
  | bra (o : OpC)
  /-- opcode 0x81, R303: Branch to a computed address. -/
  | brx (o : OpC)
  /-- opcode 0x82, R303: PC-relative call that writes a link register. -/
  | call (o : OpC)
  /-- opcode 0x83, R304: Call through a checked function-table entry. -/
  | callt (o : OpC)
  /-- opcode 0x84, R303: Returns to the address in SA. -/
  | ret (o : OpC)
  /-- opcode 0x85, R307: Ends the threads; the last exit of a wave waits for engine operations, copies and REDBs. -/
  | exit (o : OpC)
  /-- opcode 0x86, R250: Enters a join record and waits for the members named in the mask. -/
  | join (o : OpC)
  /-- event, R250: Waiting threads whose members have all arrived are released as one group. -/
  | joinRelease (w : Nat) (pc : Word)
  /-- event, R252: When every thread waits at a JOIN and none can go on, the record with the lowest PC is released. -/
  | joinDeadlockRelease (w : Nat)
  /-- opcode 0x87, R251: Arrives at a JOIN's record without waiting. -/
  | arrv (o : OpC)
  /-- opcode 0x88, R255: Sets the wave mask of a convergence register. -/
  | kset (o : OpC)
  /-- opcode 0x89, R255: Adds threads to a convergence register's signature set. -/
  | sign (o : OpC)
  /-- opcode 0x8A, R253: Arrives at a named workgroup barrier. -/
  | bar (o : OpC)
  /-- event, R253: A barrier generation completes and releases its threads in one cycle. -/
  | barrierComplete (g n : Nat)
  /-- opcode 0x8B, R254: Gang barrier: an acquire-release at gang scope. -/
  | gbar (o : OpC)
  /-- opcode 0x8C, R308: Yield hint, as the Y bit. -/
  | yield (o : OpC)
  /-- opcode 0x8D, R310: Waits for a copy by its promise. -/
  | waitp (o : OpC)
  /-- event, R310: sys.clk passes a promise's DUE while the copy is unfinished, and WAITP traps with cause 0x08. -/
  | promiseDue (w lane : Nat)
  /-- opcode 0x8E, R32: Places the workgroup's request for its full allotment. -/
  | acq (o : OpC)
  /-- event, R34: The oldest ACQ request on a core is granted once there is room, and the granted resources are zero-filled. -/
  | acqGrant (core : Nat)
  /-- event, R34: The youngest gang waiting at ACQ is pre-empted without draining when the oldest request cannot otherwise be met. -/
  | acqPreemption (core : Nat)
  /-- opcode 0x8F, R311: Rendezvous that returns the workgroup or gang to its prologue allotment. -/
  | rel (o : OpC)
  /-- opcode 0x90, R312: Stages registers into the Palm. -/
  | rgn (o : OpX)
  /-- opcode 0x91, R227: Reads and checks a launch record and places the compute launch. -/
  | launch (o : OpC)
  /-- opcode 0x92, R259: Reads and checks a draw record and places the draw. -/
  | draw (o : OpC)
  /-- opcode 0x93, R314: Opens the context's frame. -/
  | frameb (o : OpC)
  /-- opcode 0x94, R314: Closes the open frame and names its frame word. -/
  | framee (o : OpC)
  /-- opcode 0x95, R309: Stops the issue group for a number of nanoseconds. -/
  | sleep (o : OpC)
  /-- event, R309: The sleep time passes and the group goes on. -/
  | sleepExpiry (w lane : Nat)
  /-- opcode 0xC0, R316: Reserves and fills one entry of a queue. -/
  | qpush (o : OpA)
  /-- opcode 0xC1, R317: Pops one queue entry into vD, or drops it. -/
  | qpop (o : OpA)
  /-- opcode 0xC2, R315: Binds a queue to a depth. -/
  | qctl (o : OpA)
  /-- opcode 0xC3, R318: Creates one task per lane, optionally bound to a counter. -/
  | tspawn (o : OpX)
  /-- opcode 0xC4, R321: Sets a dependency counter and releases bound tasks when it becomes zero. -/
  | tdep (o : OpA)
  /-- opcode 0xC4, R297: Registers a watch on a tile with a template counter and a settle group. -/
  | tdepWatch (o : OpA)
  /-- opcode 0xC5, R322: Decrements counters, releasing bound tasks at zero and trapping on underflow. -/
  | tdec (o : OpA)
  /-- opcode 0xC6, R319: Creates timed tasks on the timer wheel. -/
  | ttime (o : OpA)
  /-- event, R289: A timer-wheel tick makes the tasks whose release time has passed Ready. -/
  | timerWheelTick (lantern : Nat)
  /-- event, R290: The dispatcher gathers Ready tasks of one context, entry and priority into a wave on a free core. -/
  | taskDispatch (lantern : Nat)
  /-- event, R293: After the head task has waited 400 µs, the arbiters stop admitting gangs on that lantern. -/
  | taskHeadStarvation (lantern : Nat)
  /-- event, R298: A held re-fired instance takes a freed task slot and enters its ready queue. -/
  | heldInstanceAdmit (lantern : Nat)
  /-- event, R299: An instance's exit, once its writes are acknowledged, decrements its settle group. -/
  | settleDecrement (inst : Nat)
  /-- opcode 0xC7, R324: Reads a held value from an element's ray record by handle. -/
  | hread (o : OpA)
  /-- opcode 0xC8, R325: Releases the ray records that the handles name. -/
  | hrel (o : OpA)
  /-- opcode 0xC9, R326: Perspective-correct interpolation of a vertex-home register. -/
  | interp (o : OpA)
  /-- opcode 0xCA, R327: Culls the element's finer elements. -/
  | ecull (o : OpA)
  /-- opcode 0xCB, R331: Samples a texture with point, bilinear or trilinear filtering. -/
  | tex (o : OpX)
  /-- opcode 0xCC, R333: Tests a ray against four child boxes and orders the hits. -/
  | boxt (o : OpA)
  /-- opcode 0xCD, R334: Watertight ray-triangle test. -/
  | trit (o : OpX)
  /-- opcode 0xCE, R328: Creates one ray element per lane. -/
  | rspawn (o : OpA)
  /-- opcode 0xCF, R335: Waits for the fragment's turn and takes the pixel lock. -/
  | pixlk (o : OpA)
  /-- opcode 0xD0, R335: Releases the pixel lock and ends the turn. -/
  | pixul (o : OpA)
  /-- opcode 0xD1, R336: Depth-tests and blends the fragment's colour into the targets. -/
  | pxout (o : OpA)
  /-- event, R279: A fragment's turn begins once every lower-keyed fragment of its pixel has ended its turn. -/
  | fragmentTurnBegin (w lane : Nat)
  /-- opcode 0xE0, R363: Reads a system register. -/
  | sysr (o : OpI)
  /-- opcode 0xE1, R363: Writes a system register that has no behaviour of its own. -/
  | sysw (o : OpI)
  /-- opcode 0xE1, R273: Reserves Sconce lines on every lantern of the partition, or faults when they are not free. -/
  | syswHoldquota (o : OpI)
  /-- opcode 0xE1, R273: Sets the spill area base unless a record is spilled. -/
  | syswSpillbase (o : OpI)
  /-- opcode 0xE1, R273: Sets the spill area size unless the change would cut off a spilled record. -/
  | syswSpillsize (o : OpI)
  /-- opcode 0xE1, R377: Sets the fault-queue ring base while the queue is empty. -/
  | syswFqbase (o : OpI)
  /-- opcode 0xE1, R377: Sets the fault-queue controls while the queue is empty. -/
  | syswFqctl (o : OpI)
  /-- opcode 0xE1, R372: Privileged write of the issuing wave's own trap handler address. -/
  | syswTrapbase (o : OpI)
  /-- opcode 0xE1, R364: Sets the page-table root, which takes effect after tlbi.asid. -/
  | syswPtroot (o : OpI)
  /-- opcode 0xE1, R93: Writes the sticky flags after earlier instructions of the group have set theirs. -/
  | syswFflags (o : OpI)
  /-- opcode 0xE2, R352: Drops the translations of one address for an ASID and waits for accesses through them. -/
  | tlbiVa (o : OpA)
  /-- opcode 0xE2, R352: Drops every translation of one ASID. -/
  | tlbiAsid (o : OpA)
  /-- opcode 0xE2, R352: Drops every translation of the partition. -/
  | tlbiAll (o : OpA)
  /-- opcode 0xE3, R360: Zeroes a memory range and its tags with the copy engines. -/
  | wipe (o : OpA)
  /-- opcode 0xE4, R365: Exchanges the levels of two contexts. -/
  | prioXchg (o : OpA)
  /-- opcode 0xE4, R365: Sets the level of a context. -/
  | prioSet (o : OpA)
  /-- event, R245: Each core switches to the new levels in one cycle of its own, within 600 ns. -/
  | prioCoreSwitch (core : Nat)
  /-- opcode 0xE8, R416: Raises a software trap, cause 0x11. -/
  | trap (o : OpI)
  /-- opcode 0xEA, R416: Raises a breakpoint, cause 0x10. -/
  | brk (o : OpI)
  /-- opcode 0xE9, R417: Rendezvous that checks the resume PCs and returns from the handler. -/
  | tret (o : OpA)
  /-- opcode 0xEB, R418: Freezes a context or gang into a save area and returns a status. -/
  | frz (o : OpA)
  /-- opcode 0xEC, R419: Checks a save area and places the restore of a unit. -/
  | thaw (o : OpA)
  /-- opcode 0xED, R420: Forms a journal record, writes it to the shadow and sends it to the partner. -/
  | jrnl (o : OpA)
  /-- opcode 0xEE, R422: Waits for the partner's acknowledgements, releases at system scope and stores the value. -/
  | emit (o : OpA)
  /-- opcode 0xEF, R421: Writes a TRUNC record and truncates the earlier records of a sequence. -/
  | jtrunc (o : OpA)
  /-- opcode 0xF0, R423: Changes the partner and resends the live journal. -/
  | jpart (o : OpA)
  /-- opcode 0xFF, R53: Illegal opcode; raises cause 0x01 at decode. -/
  | ill
  /-- event, R193: A load's data returns and its destination is written. -/
  | loadComplete (w seq : Nat) (bad : Lanes)
  /-- event, R193: A store sent from the FIFO is acknowledged and its Mitten entry freed. -/
  | storeAcknowledge (w seq : Nat)
  /-- event, R191: A fault met at the memory side or at a remote node marks the Mitten entry for later delivery. -/
  | deferredFaultArrival (w seq : Nat) (lanes : Lanes) (orig : Nat)
  /-- event, R234: A launch arbiter admits the first candidate gang that fits, on adjacent cores. -/
  | gangAdmission (part : Nat)
  /-- event, R233: Each 50 µs of waiting lowers a queued launch's effective level by one. -/
  | launchAging (u : Nat)
  /-- event, R236: A launch whose next gang has waited 400 µs becomes blocking. -/
  | launchBlocking (u : Nat)
  /-- event, R241: A ready group that has not issued for 64 cycles becomes overdue and takes the next slot. -/
  | overdueGroup (w lane : Nat)
  /-- event, R238: A gang retires when its last member finishes, and its allotments are wiped and freed. -/
  | gangRetire (gang : Nat)
  /-- event, R229: A finished launch releases at CSCOPE, writes its completion word and decrements its counter. -/
  | launchCompletion (u : Nat)
  /-- event, R283: A finished draw releases its draw-scope ray records and performs its completion actions. -/
  | drawCompletion (u : Nat)
  /-- event, R314: A completed frame releases its records, releases at system scope and writes the frame word. -/
  | frameCompletion (ctx : Nat)
  /-- event, R260: The frame thread of a code object runs on its first draw in the frame. -/
  | frameElementStart (u : Nat)
  /-- event, R262: An object element is created with a zeroed record once the frame thread has exited. -/
  | objectCreate (u : Nat)
  /-- event, R262: Cluster elements are created, and their vertex records reserved, after the object thread exits. -/
  | clusterCreate (u obj : Nat)
  /-- event, R262: A cluster's vertex elements are created after its cluster thread exits. -/
  | vertexCreate (u obj cls : Nat)
  /-- event, R264: Set-up converts the positions, discards triangles and rasterises coarse and sample elements. -/
  | triangleSetup (u obj cls : Nat)
  /-- event, R328: Spawned rays start at the ray entry, packed into waves in spawn order. -/
  | rayStart (u lantern : Nat)
  /-- event, R272: A held record whose count reaches zero is wiped and freed. -/
  | heldRecordRelease (rec : Nat)
  /-- event, R277: Cause 0x0B is raised in the control wave at its next instruction boundary. -/
  | holdStorageExhausted (ctx : Nat)
  /-- event, R381: Every wave of a unit is stopped at an instruction boundary, its own scratchpad accesses completed. -/
  | freezeStop (f : Nat)
  /-- event, R395: The save finishes, STATUS is written last, and the unit's resources are wiped and freed. -/
  | saveComplete (f : Nat)
  /-- event, R397: A unit not saved by the deadline is forcibly reset and its context destroyed. -/
  | freezeDeadline (f : Nat)
  /-- event, R396: A saved unit is written back, its Mitten replayed, its tags unpinned and its waves let issue. -/
  | restore (f : Nat)
  /-- event, R399: A failing core's gangs are frozen and the core is replaced by a spare of its lantern. -/
  | coreSparing (core : Nat)
  /-- event, R198: The result of an ATOM, ATOMC, CHAIN, PUBV or SNUFF performed at the memory side returns to the core, writes the destination lanes and frees the Mitten entry. -/
  | atomicResultReturn (w seq : Nat)
  /-- event, R246: Each microsecond the scheduler writes sys.forecast, and power control commits a minimum clock. -/
  | forecastUpdate (part : Nat)
  /-- event, R405: The partner writes an arriving journal record into its region and acknowledges it. -/
  | journalRecordArrival (r : JournalFlit)
  /-- event, R186: The partner's acknowledgement of a record arrives and may let a waiting EMIT perform. -/
  | journalAck (ctx index node : Nat)
  /-- event, R406: 50 µs of silence from the partner sets LOST and faults the waiting EMIT. -/
  | partnerLost (ctx : Nat)
  /-- event, R444: A fabric read, write or atomic arriving at an endpoint is served through an inbound window or refused. -/
  | remoteAccess (r : FabricReq)
  /-- event, R181: A posted write from a node is performed in order, as a system-scope release. -/
  | postedWrite (r : FabricReq)
  /-- event, R437: An inbound RoCE WRITE is translated through its window and performed, or refused with a NAK. -/
  | rdmaWrite (r : RdmaReq)
  /-- event, R437: An inbound WRITE with immediate is performed and then stores its immediate into the doorbell word. -/
  | rdmaWriteImmediate (r : RdmaReq) (imm : BitVec 32)
  /-- event, R436: Creates a context and starts its control wave. -/
  | create (q : MgmtReq) (a : CreateArgs)
  /-- event, R436: Starts a control wave in a context that has none. -/
  | start (q : MgmtReq) (a : StartArgs)
  /-- event, R357: Stops a context's work, wipes its state, or discards a pending address space. -/
  | destroy (q : MgmtReq) (ctx : Nat)
  /-- event, R436: Sets a context's level, as PRIO .set. -/
  | level (q : MgmtReq) (ctx level : Nat)
  /-- event, R436: Management freeze of a context into a save area. -/
  | freeze (q : MgmtReq) (ctx : Nat) (area : Nat) (deadlineUs : Nat)
  /-- event, R436: Management restore of a frozen context. -/
  | thawTransaction (q : MgmtReq) (ctx : Nat) (area : Nat)
  /-- event, R400: Sets a context's journal state. -/
  | journal (q : MgmtReq) (a : JournalArgs)
  /-- event, R445: Maps wiped frames into a context's tables or a pending address space. -/
  | alloc (q : MgmtReq) (a : AllocArgs)
  /-- event, R436: Unmaps a range, with TLBI. -/
  | free (q : MgmtReq) (ctx : Nat) (va size : Nat)
  /-- event, R444: Opens or closes an inbound memory window. -/
  | window (q : MgmtReq) (a : WindowArgs)
  /-- event, R405: Sets a journal region apart on this S9. -/
  | region (q : MgmtReq) (pbase log2slots node : Nat)
  /-- event, R353: Changes the partition division, wiping memory and regenerating keys. -/
  | division (q : MgmtReq) (a : DivisionArgs)
  /-- event, R361: Moves the life-cycle state, ending contexts and wiping memory. -/
  | lifecycle (q : MgmtReq) (target : Nat)
  /-- event, R399: Marks a core as failing, which starts core sparing. -/
  | spare (q : MgmtReq) (core : Nat)
  /-- event, R413: Retires an HBM channel by migrating and redirecting its frames. -/
  | retire (q : MgmtReq) (stack channel : Nat) (dest : List Nat)
  /-- event, R436: Stages a signed firmware image for the next reset. -/
  | firmware (q : MgmtReq) (image : FirmwareImage)
  /-- event, R441: Returns the telemetry block. -/
  | telemetry (q : MgmtReq)
  /-- event, R414: The clock-stop signal puts HBM in self-refresh and stops every clock, or is ignored in DEPLOYED and RETIRED. -/
  | clockStop
  /-- event, R356: Reset wipes on-chip state, and the boot ROM verifies firmware and starts context 0. -/
  | reset
  /-- event, R411: A failed lane is retrained onto the spare, or the port drops to half width. -/
  | laneFailure (eth : Bool) (port lane : Nat)
  /-- event, R412: A row or column past its error threshold is copied into a spare and redirected. -/
  | hbmRowRepair (stack channel row : Nat)
  /-- event, R439: A failed CXL link leaves its range refusing accesses. -/
  | cxlLinkFailure (port : Nat)
  /-- event, R7: Under DET the clock is held, issue slots are withheld and a thermal event is raised. -/
  | powerLimitExceeded
  /-- event, R442: A die above 105 °C stops every clock and reports through the sideband. -/
  | overtemperatureStop (die : Nat)
  /-- event, R438: Firmware slews or steps sys.ptp toward the selected time source. -/
  | ptpOffsetCorrection (offset : Int)
  /-- event, R411: A port that retrains onto its spare lane finishes within 10 µs and carries traffic again, resending flits in flight. -/
  | laneRetrainComplete (eth : Bool) (port : Nat)
deriving DecidableEq, Repr

end Sys2Proof
end

