-- ==== Sys2Proof/Machine/Fields.lean ====
section
/-!
DEFINITION. The field rules of the instruction words: which types, modifiers, sizes, orders, scopes and word-1
values each opcode accepts and which of its fields must be zero (spec/03 R43-R51 and each instruction's own rule).
Only what the words alone decide stands here; what depends on the wave (its register count, its accumulator
window, its program kind) is checked when the instruction issues.
-/

namespace Sys2Proof

/-- Bits [hi:lo] of a word, as a number. -/
def field (w : Word) (hi lo : Nat) : Nat := w.toNat / 2 ^ lo % 2 ^ (hi + 1 - lo)

/-- Sub-element width in bits (R48). -/
def Ty.width : Ty → Nat
  | .i64 | .n64 | .f64 => 64
  | .i32x2 | .n32x2 | .f32x2 | .f19x2 | .x32x2 => 32
  | .i16x4 | .n16x4 | .f16x4 | .bf16x4 | .vq2x4 | .x16x4 => 16
  | .i8x8 | .n8x8 | .e5m2x8 | .e4m3x8 | .e3m4x8 | .e3m2x8 | .e2m3x8 => 8
  | .e2m1x16 | .i4x16 | .n4x16 => 4
  | .t2x32 => 2
  | .b1x64 => 1

/-- Number of sub-elements of a register (R48). -/
def Ty.nsub (t : Ty) : Nat := 64 / t.width

/-- INT: the integer types of R111. -/
def Ty.isInt : Ty → Bool
  | .i64 | .n64 | .i32x2 | .n32x2 | .i16x4 | .n16x4 | .i8x8 | .n8x8 => true
  | _ => false

/-- INT with the 4-bit integers (R113, R128). -/
def Ty.isInt4 (t : Ty) : Bool := t.isInt || t == .i4x16 || t == .n4x16

/-- Two's-complement types. -/
def Ty.isSigned : Ty → Bool
  | .i64 | .i32x2 | .i16x4 | .i8x8 | .i4x16 => true
  | _ => false

/-- FLT: the floating types of R121. -/
def Ty.isFlt : Ty → Bool
  | .f64 | .f32x2 | .f19x2 | .f16x4 | .bf16x4 => true
  | _ => false

/-- The float types that CVT converts among, f64 apart (R128). -/
def Ty.isCvtFloat : Ty → Bool
  | .f32x2 | .f19x2 | .f16x4 | .bf16x4 | .e5m2x8 | .e4m3x8 | .e3m4x8 | .e3m2x8 | .e2m3x8 | .e2m1x16 => true
  | _ => false

/-- The types of the special functions (R125). -/
def Ty.isSpecial : Ty → Bool
  | .f32x2 | .f16x4 | .bf16x4 => true
  | _ => false

/-- The two 16-bit float types. -/
def Ty.isHalf : Ty → Bool
  | .f16x4 | .bf16x4 => true
  | _ => false

/-- A source field that an instruction does not use holds zero, the encoding of v0 (R44, R45). -/
def Src.unused (s : Src) : Bool := s == .reg 0

/-- The source holds a register encoding. -/
def Src.isReg : Src → Bool
  | .reg _ => true
  | _ => false

/-- The source names a register group whose base is a multiple of k (R51). -/
def Src.isBase (k : Nat) : Src → Bool
  | .reg r => r.toNat % k == 0
  | _ => false

/-- Format A: accepted types and modifiers, and which of D, SA, SB, SC are used. -/
def okA (ty : Ty → Bool) (mod : BitVec 4 → Bool) (d a b c : Bool) (o : OpA) : Bool :=
  ty o.ty && mod o.mod && (d || o.d == 0) && (a || o.sa.unused) && (b || o.sb.unused) && (c || o.sc.unused)

/-- MOD must be zero. -/
def mod0 (m : BitVec 4) : Bool := m == 0
/-- Any MOD. -/
def modAny (_ : BitVec 4) : Bool := true
/-- Only MOD[1], `.sat` (R108). -/
def modSat (m : BitVec 4) : Bool := m == 0 || m == 2
/-- MOD at most k. -/
def modLe (k : Nat) (m : BitVec 4) : Bool := m.toNat ≤ k
/-- Only MOD[0]. -/
def modBit0 (m : BitVec 4) : Bool := m.toNat ≤ 1
/-- Only the rounding, MOD[3:2]. -/
def modRound (m : BitVec 4) : Bool := m.toNat % 4 == 0
/-- Every type. -/
def tyAny (_ : Ty) : Bool := true
/-- TYPE zero, for instructions that do not use it. -/
def ty0 (t : Ty) : Bool := t == .i64

/-- Format A with TYPE and MOD zero. -/
def okA0 (d a b c : Bool) (o : OpA) : Bool := okA ty0 mod0 d a b c o

/-- Special functions: MOD[3:2] is zero except for f64 (R125). -/
def okSpecial (f64ok b : Bool) (o : OpA) : Bool :=
  okA (fun t => t.isSpecial || (f64ok && t == .f64)) (fun m => o.ty == .f64 || m.toNat ≤ 3) true true b false o

/-- Comparisons: D[7:2] zero (R115). -/
def okCmp (ty : Ty → Bool) (mod : BitVec 4 → Bool) (o : OpA) : Bool :=
  okA ty mod true true true false o && decide (o.d.toNat < 4)

/-- The reductions of R141: integer operations 0-5, float operations 0-2. -/
def redOpOk (t : Ty) (op : Nat) : Bool := (t.isInt && decide (op ≤ 5)) || (t.isFlt && decide (op ≤ 2))

/-- k of R128: the ratio of sub-element counts. -/
def cvtParts (s t : Ty) : Nat := max s.nsub t.nsub / min s.nsub t.nsub

/-- The pairs of CVT and CVTI (R128). -/
def cvtPairOk (s t : Ty) : Bool :=
  s != t && ((s.isCvtFloat && t.isCvtFloat) || (s == .f64 && t == .f32x2) || (s == .f32x2 && t == .f64))

def cvtiPairOk (s t : Ty) : Bool :=
  let fl (x : Ty) := x.isCvtFloat || x == .f64
  s != t && ((s.isInt4 && fl t) || (fl s && t.isInt4) || (s.isInt4 && t.isInt4))

/-- MOD of CVTI: rounding where a float takes part, `.sat` and `.ftz` as R49 and R108 give them. -/
def cvtiModOk (s t : Ty) (m : BitVec 4) : Bool :=
  if s.isInt4 && t.isInt4 then modSat m else true

/-- Format M: the sizes, orders and scopes of R190 and which fields are used. -/
def okM (size : Size → Bool) (ord : Ord → Bool) (scope : Scope → Bool) (d a b : Bool) (o : OpM) : Bool :=
  size o.size && ord o.ord && scope o.scope && (d || o.d == 0) && (a || o.sa.unused) && (b || o.sb.unused)

/-- The SCOPE of an access as R172 numbers it. -/
def Scope.num : Scope → Nat
  | .thread => 0
  | .wave => 1
  | .workgroup => 2
  | .gang => 3
  | .device => 4
  | .system => 5

def Size.isScalar : Size → Bool
  | .b8 | .b16 | .b32 | .b64 => true
  | _ => false
def Size.notTile : Size → Bool
  | .tile => false
  | _ => true
/-- SIZE 010 or 011. -/
def Size.isWord : Size → Bool
  | .b32 | .b64 => true
  | _ => false
def Ord.isAcq : Ord → Bool
  | .acquire | .acqRel => true
  | _ => false
def Ord.isRel : Ord → Bool
  | .release | .acqRel => true
  | _ => false
def ordLoad (o : Ord) : Bool := o == .relaxed || o == .acquire
def ordStore (o : Ord) : Bool := o == .relaxed || o == .release
def ordAny (_ : Ord) : Bool := true
def scopeAny (_ : Scope) : Bool := true

/-- The number of registers that an access of this size moves (R189). -/
def Size.regs : Size → Nat
  | .b64x2 => 2
  | .b64x4 => 4
  | .tile => 16
  | _ => 1

/-- unit(SIZE) of R188, in bytes. -/
def Size.bytes : Size → Nat
  | .b8 => 1 | .b16 => 2 | .b32 => 4 | .b64 => 8 | .b64x2 => 16 | .b64x4 => 32 | .tile => 4096

/-- Bits [21:18] of an atomic: the operation (R188). -/
def OpM.op (o : OpM) : Nat := o.off.toNat / 64
/-- Bits [17:12] of an atomic are zero. -/
def OpM.lowZero (o : OpM) : Bool := o.off.toNat % 64 == 0

/-- REDB's operations (R197). -/
def redbOpOk (sz : Size) (op : Nat) : Bool :=
  match sz with
  | .b16 => op == 9 || op == 10 || op == 11
  | .b32 => op == 0 || op == 4 || op == 5 || op == 9 || op == 10 || op == 11
  | .b64 => op == 0 || op == 4 || op == 5
  | _ => false

/-- PREF's policy codes, as R209's SPOL: 110 and 111 are reserved. -/
def polOk (n : Nat) : Bool := n ≤ 5

def okFence (o : OpM) : Bool :=
  okM (· == .b8) ordAny scopeAny false false false o && decide (o.off.toNat ≤ 1) &&
    (if o.off.toNat == 0 then o.ord != .relaxed
     else o.ord != .acquire && (o.scope == .device || o.scope == .system))

/-- Format C: which of D, SA, TGT27 are used, and whether a guard is allowed. -/
def okC (d a t g : Bool) (o : OpC) : Bool :=
  (d || o.d == 0) && (a || o.sa.unused) && (t || o.tgt == 0) && (g || o.g == .always)

/-! Matrix formats (R69, R148, R150), by their 5-bit codes. -/

/-- Native K block (R148). -/
def fmtKb (f : Nat) : Nat :=
  if f = 0x01 ∨ f = 0x02 ∨ f = 0x14 then 16
  else if f = 0x03 ∨ f = 0x04 ∨ f = 0x0B ∨ f = 0x13 then 32
  else if f = 0x05 ∨ f = 0x06 ∨ f = 0x07 ∨ f = 0x08 ∨ f = 0x09 ∨ f = 0x0C ∨ f = 0x0D then 64
  else 128

/-- Bytes of a row-block in memory (R148). -/
def fmtBytes (f : Nat) : Nat :=
  if f = 0x10 ∨ f = 0x12 then 32 else if f = 0x11 then 16 else if f = 0x08 ∨ f = 0x09 then 48 else 64

/-- Register slot width (R150, R81). -/
def fmtSlot (f : Nat) : Nat :=
  if f = 0x01 ∨ f = 0x02 ∨ f = 0x14 then 32
  else if f = 0x03 ∨ f = 0x04 ∨ f = 0x0B ∨ f = 0x13 ∨ f = 0x12 then 16
  else if f = 0x05 ∨ f = 0x06 ∨ f = 0x07 ∨ f = 0x08 ∨ f = 0x09 ∨ f = 0x0C ∨ f = 0x0D then 8
  else if f = 0x10 then 2 else if f = 0x11 then 1 else 4

/-- Integer matrix formats 0x0B-0x11 (R149). -/
def fmtIsInt (f : Nat) : Bool := decide (0x0B ≤ f) && decide (f ≤ 0x11)

/-- Word 1 of the matrix operations (R147). -/
def mmFmtA (w : Word) : Nat := field w 63 59
def mmFmtB (w : Word) : Nat := field w 58 54
def mmM (w : Word) : Nat := 16 * 2 ^ field w 53 51
def mmN (w : Word) : Nat := 16 * 2 ^ field w 50 48
def mmSteps (w : Word) : Nat := field w 47 44 + 1
def mmAccRow (w : Word) : Nat := field w 43 37
def mmAccCol (w : Word) : Nat := field w 36 29
def mmKreg (w : Word) : Nat := field w 28 25
def mmAsrc (w : Word) : Nat := field w 24 23
def mmReuseB (w : Word) : Bool := field w 22 22 == 1
def mmIacc (w : Word) : Bool := field w 21 21 == 1
def mmScale (w : Word) : Nat := field w 20 17

/-- The side register pair is used (R154). -/
def mmSide (w : Word) : Bool := mmScale w == 3 || mmFmtA w == 0x12 || mmFmtB w == 0x12

/-- What the matrix operations share (R145, R147, R150). -/
def okMatrix (o : OpX) : Bool :=
  o.a.ty == .i64 && o.a.mod == 0 && o.a.g == .always && o.a.sa.isReg && o.a.sb.isReg &&
  decide (field o.w1 53 51 ≤ 3) && decide (field o.w1 50 48 ≤ 4) && decide (mmAccCol o.w1 + mmN o.w1 ≤ 256) &&
  decide (mmAccRow o.w1 + mmM o.w1 ≤ 128) && decide (mmAsrc o.w1 ≤ 2) && decide (mmScale o.w1 ≤ 3) &&
  field o.w1 16 0 == 0 && (mmAsrc o.w1 != 0 || o.a.sa.isBase 4)

/-- R149, and the side register pair of R154. -/
def okMul (o : OpX) : Bool :=
  let a := mmFmtA o.w1
  let b := mmFmtB o.w1
  decide (1 ≤ a) && decide (a ≤ 0x12) && decide (1 ≤ b) && decide (b ≤ 0x12) && fmtKb a == fmtKb b &&
  (!mmIacc o.w1 || (fmtIsInt a && fmtIsInt b)) &&
  (if mmSide o.w1 then o.a.d.toNat % 2 == 0 else o.a.d == 0)

def okMma (o : OpX) : Bool :=
  okMatrix o && okMul o && decide (mmAsrc o.w1 ≤ 1) &&
  (if mmAsrc o.w1 == 0 then o.a.sc.unused else o.a.sc.isReg)

def okMmag (o : OpX) : Bool := okMatrix o && okMul o && mmAsrc o.w1 == 2 && o.a.sc.isReg

def okMmar (o : OpX) : Bool :=
  okMatrix o && okMul o && decide (mmAsrc o.w1 ≤ 1) && !mmReuseB o.w1 && decide (mmScale o.w1 ≤ 2) && o.a.sc.isReg

def okMperm (o : OpX) : Bool :=
  okMatrix o && decide (mmAsrc o.w1 ≤ 1) && (mmFmtA o.w1 == 0x13 || mmFmtA o.w1 == 0x14) && mmFmtB o.w1 == 0x13 &&
  !mmIacc o.w1 && mmScale o.w1 == 0 && o.a.d == 0 &&
  (if mmAsrc o.w1 == 0 then o.a.sc.unused else o.a.sc.isReg)

/-- Word 1 of ACLD, ACST, ACZ, MASKT (R165). -/
def acRows (w : Word) : Nat := 2 ^ field w 53 51
def acCols (w : Word) : Nat := 16 * 2 ^ field w 50 48

/-- What they share; `rows` is the number of accumulator rows named. -/
def okAcc (rows : Nat) (o : OpX) : Bool :=
  o.a.ty == .i64 && o.a.g == .always && !o.a.h.y && decide (field o.w1 50 48 ≤ 4) &&
  field o.w1 58 54 == 0 && field o.w1 47 44 == 0 && field o.w1 28 22 == 0 && field o.w1 20 0 == 0 &&
  decide (mmAccCol o.w1 + acCols o.w1 ≤ 256) && decide (mmAccRow o.w1 + rows ≤ 128)

/-- Formats that ACLD and ACST accept (R166). -/
def acFmtOk (f : Nat) (iacc : Bool) : Bool :=
  if iacc then f == 0x0B || f == 0x0C || f == 0x0D || f == 0x0E || f == 0x0F || f == 0x14
  else (decide (1 ≤ f) && decide (f ≤ 0x0A)) || f == 0x14

/-- The number of registers of an ACLD or ACST group (R166), or 0 when it is not whole. -/
def acGroup (w : Word) : Nat :=
  let b := acRows w * acCols w * fmtSlot (mmFmtA w)
  if b % 2048 == 0 then b / 2048 else 0

def acGroupOk (w : Word) (base : Nat) : Bool :=
  decide (1 ≤ acGroup w) && base % min (acGroup w) 4 == 0

/-- ACST's MOD: with IACC only `.sat`; f32 cells take every modifier (R166). -/
def okAcst (o : OpX) : Bool :=
  okAcc (acRows o.w1) o && o.a.sa.unused && o.a.sb.unused && o.a.sc.unused &&
  acFmtOk (mmFmtA o.w1) (mmIacc o.w1) && acGroupOk o.w1 o.a.d.toNat && (!mmIacc o.w1 || modSat o.a.mod)

def okAcld (o : OpX) : Bool :=
  okAcc (acRows o.w1) o && o.a.mod == 0 && o.a.d == 0 && o.a.sb.unused && o.a.sc.unused && o.a.sa.isReg &&
  acFmtOk (mmFmtA o.w1) (mmIacc o.w1) &&
  (match o.a.sa with | .reg r => acGroupOk o.w1 r.toNat | _ => false)

def okAcz (o : OpX) : Bool :=
  okAcc (acRows o.w1) o && o.a.mod == 0 && o.a.d == 0 && o.a.sa.unused && o.a.sb.unused && o.a.sc.unused &&
  mmFmtA o.w1 == 0 && !mmIacc o.w1

def okMaskt (o : OpX) : Bool :=
  okAcc (16 * acRows o.w1) o && o.a.mod == 0 && o.a.d == 0 && o.a.sc.unused && o.a.sa.isReg && o.a.sb.isReg &&
  mmFmtA o.w1 == 0 && decide (field o.w1 53 51 ≤ 3)

/-- OPFENCE and MWAIT (R162, R163). -/
def okEngineWait (mod : BitVec 4 → Bool) (o : OpX) : Bool :=
  okA ty0 mod false false false false o.a && o.a.g == .always && !o.a.h.y && o.w1 == 0

/-- Copies (R209): TYPE, MOD and Y zero; REL, SCOPE, SPOL, DPOL; `rest` checks bits [53:0]. -/
def okCopy (rest : Word → Bool) (o : OpX) : Bool :=
  okA0 true true true true o.a && !o.a.h.y && decide (field o.w1 62 60 ≤ 5) &&
  (field o.w1 63 63 == 1 || field o.w1 62 60 == 0) && decide (field o.w1 59 57 ≤ 5) &&
  decide (field o.w1 56 54 ≤ 5) && rest o.w1

/-- RGN's runs (R312): run i is bits [16i+15 : 16i]. -/
def rgnRuns (w : Word) : List (Nat × Nat) :=
  (List.range 4).map (fun i => (field w (16 * i + 15) (16 * i + 8), field w (16 * i + 4) (16 * i)))

def okRgn (o : OpX) : Bool :=
  okA0 false false false false o.a && o.a.g == .always &&
  (List.range 4).all (fun i => field o.w1 (16 * i + 7) (16 * i + 5) == 0) &&
  (rgnRuns o.w1).all (fun r => decide (r.2 ≤ 16) && decide (r.1 + r.2 ≤ 256)) &&
  decide (((rgnRuns o.w1).map Prod.snd).sum ≤ 16)

def okTspawn (o : OpX) : Bool :=
  okA0 true true true (field o.w1 63 63 == 1) o.a && decide (field o.w1 62 58 ≤ 23) && field o.w1 57 0 == 0

def okTex (o : OpX) : Bool :=
  okA (fun t => t == .f32x2 || t == .f16x4) mod0 true true true true o.a &&
  (o.a.ty != .f32x2 || o.a.d.toNat % 2 == 0) && decide (field o.w1 63 62 ≤ 2) && decide (field o.w1 61 60 ≤ 2) &&
  decide (field o.w1 59 58 ≤ 2) && field o.w1 57 0 == 0

def okTrit (o : OpX) : Bool :=
  okA (· == .f32x2) mod0 true true true false o.a && o.a.sa.isBase 4 && o.a.d.toNat % 2 == 0 &&
  decide (field o.w1 63 62 ≤ 2) && field o.w1 61 0 == 0

/-- The system register numbers of R364 and R370. -/
def sysRegKnown (n : Nat) : Bool :=
  decide (n ≤ 0x009) || (decide (0x010 ≤ n) && decide (n ≤ 0x012)) || n == 0x018 || n == 0x019 ||
  (decide (0x020 ≤ n) && decide (n ≤ 0x02F)) || n == 0x040 || (decide (0x048 ≤ n) && decide (n ≤ 0x04A)) ||
  n == 0x050 || n == 0x051 || n == 0x058 || n == 0x060 || (decide (0x080 ≤ n) && decide (n ≤ 0x08E)) ||
  (decide (0x090 ≤ n) && decide (n ≤ 0x094)) || (decide (0x0C0 ≤ n) && decide (n ≤ 0x0C7))

/-- The registers whose writes have behaviours of their own, with constructors of their own. -/
def sysRegSpecial (n : Nat) : Bool :=
  n == 0x048 || n == 0x049 || n == 0x04A || n == 0x090 || n == 0x091 || n == 0x040 || n == 0x058 || n == 0x018

def okSysw (num : Nat → Bool) (o : OpI) : Bool :=
  o.d == 0 && decide (o.imm.toNat < 4096) && num o.imm.toNat

/-- The field rules of every instruction. An event has no fields. -/
def fieldsOk : Instr → Bool
  | .nop o => okA0 false false false false o
  | .mov o => okA tyAny mod0 true true false false o
  | .li o => o.sa.unused
  | .liw _ => true
  | .iadd o | .isub o | .imul o => okA Ty.isInt modSat true true true false o
  | .imulh o | .imin o | .imax o => okA Ty.isInt mod0 true true true false o
  | .imad o => okA Ty.isInt modSat true true true true o
  | .iaddi _ => true
  | .iabs o | .ineg o => okA Ty.isInt modSat true true false false o
  | .and o | .or o | .xor o | .andn o => okA tyAny mod0 true true true false o
  | .shl o | .shr o => okA Ty.isInt4 mod0 true true true false o
  | .bfe o | .bfi o => okA Ty.isInt mod0 true true true true o
  | .popc o | .clz o | .brev o => okA Ty.isInt4 mod0 true true false false o
  | .icmp o => okCmp Ty.isInt (fun m => decide (m.toNat % 8 ≤ 5)) o
  | .sel o => okA tyAny (modLe 3) true true true false o
  | .lea o => okA (· == .i64) modAny true true true true o
  | .pspace o => okA (· == .i64) modAny true true true false o
  | .mkaff o => okA (fun t => t == .i64 || t == .n64) mod0 true true true false o
  | .idot4 o => okA (fun t => t == .i8x8 || t == .n8x8) modSat true true true true o
  | .clog _ => true
  | .fadd o | .fsub o | .fmul o | .fscale o => okA Ty.isFlt modAny true true true false o
  | .ffma o | .flerp o => okA Ty.isFlt modAny true true true true o
  | .fmin o | .fmax o => okA Ty.isFlt modBit0 true true true false o
  | .fcmp o => okCmp Ty.isFlt modAny o
  | .fdiv o => okSpecial true true o
  | .fsqrt o => okSpecial true false o
  | .frcp o | .frsq o | .fexp2 o | .flog2 o | .fsin o | .fcos o | .ftanh o => okSpecial false false o
  | .fscs o => okSpecial false false o && o.d.toNat % 2 == 0
  | .frnd o => okA Ty.isFlt modRound true true false false o
  | .fdot2 o => okA Ty.isHalf modAny true true true true o
  | .fclamp o => okA Ty.isFlt modBit0 true true true true o
  | .fclass o => okA Ty.isFlt mod0 true true false false o
  | .fsum o => okA Ty.isFlt modAny true true true false o
  | .cvt o => cvtPairOk o.ty o.dst && decide (o.part.toNat < cvtParts o.ty o.dst) && o.sc.unused
  -- R129: MOD[3:2] must be 00; other values are cause 0x01 under R52 (DEDUCED, log 101).
  | .cvtEf o => o.ty == .f32x2 && cvtPairOk o.ty o.dst && o.dst != .f64 &&
      decide (o.part.toNat < cvtParts o.ty o.dst) && o.sc.isReg && decide (o.mod.toNat ≤ 3)
  | .cvti o => cvtiPairOk o.ty o.dst && decide (o.part.toNat < cvtParts o.ty o.dst) && o.sc.unused &&
      cvtiModOk o.ty o.dst o.mod
  | .pack o => okA (fun t => t == .e3m2x8 || t == .e2m3x8) (modLe 2) true true false false o && o.sa.isBase 4
  | .unpk o => okA (fun t => t == .e3m2x8 || t == .e2m3x8) (modLe 3) true true true true o
  | .swz o => okA (fun t => decide (4 ≤ t.width)) mod0 true true true true o
  | .decb o => okA Ty.isHalf modAny true true true false o
  | .vqdec o => okA Ty.isHalf (modLe 7) true true true true o
  | .qnt o => okA (fun t => t == .f32x2 || t == .bf16x4) (modLe 3) true true true true o &&
      o.sa.isBase (if o.ty == .f32x2 then 4 else 2)
  | .rand o => okA (· == .n64) mod0 true true true false o
  | .amax o => okA Ty.isFlt mod0 true true true false o
  | .shfl o => okA tyAny (modLe 3) true true true true o
  | .shflx o => okA tyAny (modLe 3) true true true true o && (o.mod != 0 || decide (16 ≤ o.ty.width))
  | .vote o => okA (· == .n64) (modLe 11) true true false false o
  | .peers o => okA (· == .n64) mod0 true true true false o
  | .wred o => okA (fun t => redOpOk t o.mod.toNat) (modLe 7) true true true false o
  | .wscan o => okA (fun t => redOpOk t (o.mod.toNat % 8)) modAny true true true false o
  | .ld o => okM Size.notTile ordLoad scopeAny true true true o && o.d.toNat % o.size.regs == 0
  | .st o => okM Size.notTile ordStore scopeAny true true true o && o.d.toNat % o.size.regs == 0
  | .ldq o => okM Size.isScalar ordLoad scopeAny true true true o && decide (o.d.toNat < 8)
  | .pref o => okM Size.notTile (· == .relaxed) scopeAny true true true o && polOk o.d.toNat
  | .atom o => okM Size.isWord ordAny scopeAny true true true o && o.lowZero && decide (o.op ≤ 11)
  | .atomc o => okM Size.isWord ordAny scopeAny true true true o && o.off == 0
  | .red o => okM Size.isWord ordStore scopeAny true true false o && o.lowZero && decide (o.op ≤ 11) && o.op != 8
  | .faddo o => okM Size.isWord (· == .relaxed) (· == .device) true true false o && o.off == 0
  | .chain o => okM Size.isWord ordAny scopeAny true true true o && o.off == 0
  | .fence o => okFence o
  | .waitm o => okM Size.isWord ordLoad scopeAny true true true o && o.lowZero && decide (o.op ≤ 6)
  | .redb o => okM Size.notTile (· == .relaxed) (· == .thread) true true false o && o.lowZero && redbOpOk o.size o.op
  | .stt o => okM (· == .tile) ordStore scopeAny true true true o && o.d.toNat % 16 == 0
  | .ldt o => okM (· == .tile) ordLoad scopeAny true true true o && o.d.toNat % 16 == 0 && o.sb.isReg
  | .pubv o => okM (· == .tile) (· == .release) (fun c => c != .thread && c != .wave) true true false o &&
      decide (o.off.toNat ≤ 1)
  | .snuff o => okM (· == .tile) ordStore scopeAny true true false o && o.off == 0
  | .vwait o => okM (· == (if o.off == 0 then .tile else .b64)) (· == .acquire) scopeAny true true (o.off == 0) o &&
      decide (o.off.toNat ≤ 1)
  | .cctl o => okM (· == .b8) (· == .relaxed) (· == .thread) false true false o && o.lowZero && decide (o.op ≤ 3)
  | .icinv o => okM (· == .b8) (· == .relaxed) (· == .thread) false true true o && o.off == 0
  | .bra o => okC false false true true o
  | .brx o => okC false true true true o
  | .call o => okC true false true true o
  | .callt o => okC true true true true o
  | .ret o => okC false true false true o
  | .exit o | .yield o => okC false false false true o
  | .join o => okC true false false false o
  | .arrv o => okC false false true true o
  | .kset o => okC true true false false o && decide (o.d.toNat < 16)
  | .sign o => okC true false false true o && decide (o.d.toNat < 16)
  | .bar o => okC true true false false o && decide (o.d.toNat < 16)
  | .gbar o | .acq o | .rel o => okC false false false false o
  | .waitp o => okC false true true true o && decide (o.tgt.toNat ≤ 1)
  | .rgn o => okRgn o
  | .launch o | .draw o | .framee o => okC true true false true o
  | .frameb o => okC true false false true o
  | .sleep o => okC false true false true o
  | .mma o => okMma o
  | .mmag o => okMmag o
  | .mmar o => okMmar o
  | .mperm o => okMperm o
  | .acld o => okAcld o
  | .acst o => okAcst o
  | .acz o => okAcz o
  | .opfence o => okEngineWait mod0 o
  | .mwait o => okEngineWait modAny o
  | .maskt o => okMaskt o
  | .cpy o => okCopy (fun w => field w 53 0 == 0) o
  | .cpym o => okCopy (fun w => field w 53 24 == 0) o
  | .cpyg o => okCopy (fun w => decide (field w 51 48 ≤ 8) && field w 53 52 == 0 && field w 47 0 == 0) o
  | .cpyz o => okCopy (fun w => field w 53 49 == 0 && field w 47 0 == 0) o
  | .kvcmt o => okCopy (fun w => decide (field w 51 48 ≤ 8) && decide (field w 47 43 ≤ 20) && field w 53 52 == 0 &&
      field w 42 0 == 0) o
  | .qpush o | .qctl o => okA0 true true false false o && decide (o.d.toNat < 8)
  | .qpop o => okA ty0 modBit0 true true false false o && (o.mod == 0 || o.d == 0) &&
      (match o.sa with | .pop _ => true | _ => false)
  | .tspawn o => okTspawn o
  | .tdep o => okA0 true true true false o
  | .tdepWatch o => okA ty0 (· == 1) true true true true o
  | .tdec o => okA0 true true false false o
  | .ttime o => okA0 true true true true o
  | .hread o => okA0 true true true false o && o.sb.isReg
  | .hrel o => okA0 false true false false o
  | .interp o => okA (fun t => t == .f32x2 || t == .f19x2 || t.isHalf) modAny true true false false o && o.sa.isReg
  | .ecull o | .pixlk o | .pixul o => okA0 false false false false o
  | .tex o => okTex o
  | .boxt o => okA (· == .f32x2) mod0 true true true false o && o.sa.isBase 4
  | .trit o => okTrit o
  | .rspawn o => okA0 true true false false o
  | .pxout o => okA0 false true false false o && o.sa.isBase 2
  | .sysr o => o.sa.unused && decide (o.imm.toNat < 4096) && sysRegKnown o.imm.toNat
  | .sysw o => okSysw (fun n => sysRegKnown n && !sysRegSpecial n) o
  | .syswHoldquota o => okSysw (· == 0x048) o
  | .syswSpillbase o => okSysw (· == 0x049) o
  | .syswSpillsize o => okSysw (· == 0x04A) o
  | .syswFqbase o => okSysw (· == 0x090) o
  | .syswFqctl o => okSysw (· == 0x091) o
  | .syswTrapbase o => okSysw (· == 0x040) o
  | .syswPtroot o => okSysw (· == 0x058) o
  | .syswFflags o => okSysw (· == 0x018) o
  | .tlbiVa o => okA0 false true true false o
  | .tlbiAsid o => okA ty0 (· == 1) false false true false o
  | .tlbiAll o => okA ty0 (· == 2) false false false false o
  | .wipe o => okA ty0 (fun m => if m.toNat < 8 then m == 0 else decide (m.toNat ≤ 13)) true true true false o
  | .prioXchg o => okA0 true true true false o
  | .prioSet o => okA ty0 (· == 1) true true true false o
  | .trap o | .brk o => o.d == 0 && o.sa.unused
  | .tret o => okA0 false false false false o && o.g == .always
  | .frz o => okA0 true true true true o
  | .thaw o => okA0 true true true false o
  | .jrnl o => okA0 true true true true o
  | .emit o => okA ty0 modBit0 false true true true o
  | .jtrunc o => okA0 true true false false o
  | .jpart o => okA ty0 modBit0 true true true false o && (o.mod == 0 || (o.sa.unused && o.sb.unused))
  | .ill => true
  | .exchangeGroupIssue .. | .faddoApply .. | .chainTicketPerformed .. | .waitmPass .. | .redbApply ..
  | .copyComplete .. | .convergenceRoundIssue .. | .engineCommit .. | .joinRelease .. | .joinDeadlockRelease ..
  | .barrierComplete .. | .promiseDue .. | .acqGrant .. | .acqPreemption .. | .sleepExpiry .. | .timerWheelTick ..
  | .taskDispatch .. | .taskHeadStarvation .. | .heldInstanceAdmit .. | .settleDecrement .. | .fragmentTurnBegin ..
  | .prioCoreSwitch .. | .loadComplete .. | .storeAcknowledge .. | .deferredFaultArrival .. | .gangAdmission ..
  | .launchAging .. | .launchBlocking .. | .overdueGroup .. | .gangRetire .. | .launchCompletion ..
  | .drawCompletion .. | .frameCompletion .. | .frameElementStart .. | .objectCreate .. | .clusterCreate ..
  | .vertexCreate .. | .triangleSetup .. | .rayStart .. | .heldRecordRelease .. | .holdStorageExhausted ..
  | .freezeStop .. | .saveComplete .. | .freezeDeadline .. | .restore .. | .coreSparing ..
  | .journalRecordArrival .. | .journalAck .. | .partnerLost .. | .remoteAccess .. | .postedWrite .. | .rdmaWrite ..
  | .rdmaWriteImmediate .. | .create .. | .start .. | .destroy .. | .level .. | .freeze .. | .thawTransaction ..
  | .journal .. | .alloc .. | .free .. | .window .. | .region .. | .division .. | .lifecycle .. | .spare ..
  | .retire .. | .firmware .. | .telemetry .. | .clockStop | .reset | .laneFailure .. | .hbmRowRepair ..
  | .cxlLinkFailure .. | .forecastUpdate .. | .powerLimitExceeded | .overtemperatureStop .. | .ptpOffsetCorrection ..
  | .atomicResultReturn .. | .laneRetrainComplete .. => true

end Sys2Proof
end

