-- ==== Sys2Proof/WellFormed.lean ====
section
/-!
DEFINITION. Well-formed instructions: the rules that the words alone decide (spec/03 R44-R51, R52 order 5), which
Sys2Proof/Machine/Fields.lean lists. An ill-formed word is cause 0x01 when it is decoded.
-/

namespace Sys2Proof

/-- The instruction's fields obey its rule. -/
def Instr.wf (i : Instr) : Bool := fieldsOk i

end Sys2Proof
end

