-- ==== Sys2Proof/Decode.lean ====
section
/-!
DEFINITION. The decoder and the encoder of the SN3 instruction words (spec/03 R39-R54). Decoding is total: it
answers an instruction whose fields obey their rules, or an error that names the field.
-/

namespace Sys2Proof

/-- Why a word is no instruction. Each is cause 0x01 when the word is decoded for execution (R44, R45, R48, R50,
R53); `short` says that the bytes given end inside the instruction. -/
inductive DecodeError where
  | reservedOpcode | source | type | guard | size | scope | unusedField | illFormed | short
deriving DecidableEq, Repr

/-! Fields -/

/-- A 9-bit source encoding (R45). -/
def encSrc : Src → BitVec 9
  | .reg r => 0#1 ++ r
  | .const c => 0b100#3 ++ c
  | .pop q => 0b101000#6 ++ q
  | .peek q => 0b101001#6 ++ q
  | .lane => 0x180#9
  | .tid => 0x181#9
  | .wave => 0x182#9
  | .elem => 0x183#9

def decSrc (b : BitVec 9) : Except DecodeError Src :=
  if b.extractLsb' 8 1 = 0#1 then .ok (.reg (b.extractLsb' 0 8))
  else if b.extractLsb' 6 3 = 0b100#3 then .ok (.const (b.extractLsb' 0 6))
  else if b.extractLsb' 3 6 = 0b101000#6 then .ok (.pop (b.extractLsb' 0 3))
  else if b.extractLsb' 3 6 = 0b101001#6 then .ok (.peek (b.extractLsb' 0 3))
  else if b = 0x180#9 then .ok .lane
  else if b = 0x181#9 then .ok .tid
  else if b = 0x182#9 then .ok .wave
  else if b = 0x183#9 then .ok .elem
  else .error .source

/-- GUARD (R50). -/
def encGuard : Guard → BitVec 4
  | .always => 0#4
  | .cond neg c => 1#1 ++ BitVec.ofBool neg ++ c

def decGuard (b : BitVec 4) : Except DecodeError Guard :=
  if b = 0#4 then .ok .always
  else if b.getLsbD 3 then .ok (.cond (b.getLsbD 2) (b.extractLsb' 0 2))
  else .error .guard

/-- The types in code order (R48). -/
def tyCodes : List Ty :=
  [.i64, .n64, .i32x2, .n32x2, .i16x4, .n16x4, .i8x8, .n8x8, .f64, .f32x2, .f16x4, .bf16x4, .f19x2,
   .e5m2x8, .e4m3x8, .e3m4x8, .e3m2x8, .e2m3x8, .e2m1x16, .i4x16, .n4x16, .t2x32, .b1x64, .vq2x4, .x16x4, .x32x2]

def encTy (t : Ty) : BitVec 5 := BitVec.ofNat 5 (tyCodes.findIdx (· == t))

def decTy (b : BitVec 5) : Except DecodeError Ty :=
  match tyCodes[b.toNat]? with
  | some t => .ok t
  | none => .error .type

def encSize : Size → BitVec 3
  | .b8 => 0 | .b16 => 1 | .b32 => 2 | .b64 => 3 | .b64x2 => 4 | .b64x4 => 5 | .tile => 6

def decSize (b : BitVec 3) : Except DecodeError Size :=
  match [Size.b8, .b16, .b32, .b64, .b64x2, .b64x4, .tile][b.toNat]? with
  | some t => .ok t
  | none => .error .size

def encOrd : Ord → BitVec 2
  | .relaxed => 0 | .acquire => 1 | .release => 2 | .acqRel => 3

def decOrd (b : BitVec 2) : Ord :=
  if b = 0#2 then .relaxed else if b = 1#2 then .acquire else if b = 2#2 then .release else .acqRel

def encScope : Scope → BitVec 3
  | .thread => 0 | .wave => 1 | .workgroup => 2 | .gang => 3 | .device => 4 | .system => 5

def decScope (b : BitVec 3) : Except DecodeError Scope :=
  match [Scope.thread, .wave, .workgroup, .gang, .device, .system][b.toNat]? with
  | some t => .ok t
  | none => .error .scope

/-! Formats (R41, R43) -/

/-- The header: STALL, RATE, Y, OPC (R41). -/
def packHdr (opc : BitVec 8) (h : Hdr) : BitVec 16 := h.stall ++ h.rate ++ BitVec.ofBool h.y ++ opc

def decHdr (w : Word) : Hdr :=
  { stall := w.extractLsb' 60 4, rate := w.extractLsb' 57 3, y := w.getLsbD 56 }

/-- OPC of a word 0. -/
def opcOf (w : Word) : BitVec 8 := w.extractLsb' 48 8

def packA (opc : BitVec 8) (o : OpA) : Word :=
  packHdr opc o.h ++ (o.d ++ encSrc o.sa ++ encSrc o.sb ++ encSrc o.sc ++ encTy o.ty ++ o.mod ++ encGuard o.g)

def decA (w : Word) : Except DecodeError OpA := do
  let sa ← decSrc (w.extractLsb' 31 9)
  let sb ← decSrc (w.extractLsb' 22 9)
  let sc ← decSrc (w.extractLsb' 13 9)
  let ty ← decTy (w.extractLsb' 8 5)
  let g ← decGuard (w.extractLsb' 0 4)
  .ok { h := decHdr w, d := w.extractLsb' 40 8, sa, sb, sc, ty, mod := w.extractLsb' 4 4, g }

def packI (opc : BitVec 8) (o : OpI) : Word :=
  packHdr opc o.h ++ (o.d ++ encSrc o.sa ++ o.imm ++ encGuard o.g)

def decI (w : Word) : Except DecodeError OpI := do
  let sa ← decSrc (w.extractLsb' 31 9)
  let g ← decGuard (w.extractLsb' 0 4)
  .ok { h := decHdr w, d := w.extractLsb' 40 8, sa, imm := w.extractLsb' 4 27, g }

def packL (opc : BitVec 8) (o : OpL) : Word :=
  packHdr opc o.h ++ (o.d ++ 0#36 ++ encGuard o.g)

def decL (w w1 : Word) : Except DecodeError OpL := do
  let g ← decGuard (w.extractLsb' 0 4)
  if w.extractLsb' 4 36 = 0#36 then .ok { h := decHdr w, d := w.extractLsb' 40 8, lit := w1, g }
  else .error .unusedField

def packM (opc : BitVec 8) (o : OpM) : Word :=
  packHdr opc o.h ++ (o.d ++ encSrc o.sa ++ encSrc o.sb ++ o.off ++ encSize o.size ++ encOrd o.ord ++
    encScope o.scope ++ encGuard o.g)

def decM (w : Word) : Except DecodeError OpM := do
  let sa ← decSrc (w.extractLsb' 31 9)
  let sb ← decSrc (w.extractLsb' 22 9)
  let size ← decSize (w.extractLsb' 9 3)
  let scope ← decScope (w.extractLsb' 4 3)
  let g ← decGuard (w.extractLsb' 0 4)
  .ok { h := decHdr w, d := w.extractLsb' 40 8, sa, sb, off := w.extractLsb' 12 10, size,
        ord := decOrd (w.extractLsb' 7 2), scope, g }

def packC (opc : BitVec 8) (o : OpC) : Word :=
  packHdr opc o.h ++ (o.d ++ encSrc o.sa ++ o.tgt ++ encGuard o.g)

def decC (w : Word) : Except DecodeError OpC := do
  let sa ← decSrc (w.extractLsb' 31 9)
  let g ← decGuard (w.extractLsb' 0 4)
  .ok { h := decHdr w, d := w.extractLsb' 40 8, sa, tgt := w.extractLsb' 4 27, g }

/-- CVT and CVTI: SB holds EF, PART and TO (R127). -/
def packCvt (opc : BitVec 8) (ef : Bool) (o : OpCvt) : Word :=
  packHdr opc o.h ++ (o.d ++ encSrc o.sa ++ (BitVec.ofBool ef ++ o.part ++ encTy o.dst) ++ encSrc o.sc ++
    encTy o.ty ++ o.mod ++ encGuard o.g)

def decCvt (w : Word) : Except DecodeError OpCvt := do
  let sa ← decSrc (w.extractLsb' 31 9)
  let dst ← decTy (w.extractLsb' 22 5)
  let sc ← decSrc (w.extractLsb' 13 9)
  let ty ← decTy (w.extractLsb' 8 5)
  let g ← decGuard (w.extractLsb' 0 4)
  .ok { h := decHdr w, d := w.extractLsb' 40 8, sa, part := w.extractLsb' 27 3, dst, sc, ty,
        mod := w.extractLsb' 4 4, g }

/-- CLOG: cN in D[1:0], cA in bits [32:31], cB in bits [23:22] (R117). -/
def packClog (opc : BitVec 8) (o : OpClog) : Word :=
  packHdr opc o.h ++ ((0#6 ++ o.d) ++ (0#7 ++ o.ca) ++ (0#7 ++ o.cb) ++ 0#9 ++ 0#5 ++ o.tt ++ encGuard o.g)

def decClog (w : Word) : Except DecodeError OpClog := do
  let g ← decGuard (w.extractLsb' 0 4)
  if w.extractLsb' 42 6 = 0#6 ∧ w.extractLsb' 33 7 = 0#7 ∧ w.extractLsb' 24 7 = 0#7 ∧ w.extractLsb' 8 14 = 0#14 then
    .ok { h := decHdr w, d := w.extractLsb' 40 2, ca := w.extractLsb' 31 2, cb := w.extractLsb' 22 2,
          tt := w.extractLsb' 4 4, g }
  else .error .unusedField

/-- SYSW by its register number (R273, R363-R377): the registers whose writes have behaviours of their own. -/
def syswOf (o : OpI) : Instr :=
  if o.imm = 0x048#27 then .syswHoldquota o
  else if o.imm = 0x049#27 then .syswSpillbase o
  else if o.imm = 0x04A#27 then .syswSpillsize o
  else if o.imm = 0x090#27 then .syswFqbase o
  else if o.imm = 0x091#27 then .syswFqctl o
  else if o.imm = 0x040#27 then .syswTrapbase o
  else if o.imm = 0x058#27 then .syswPtroot o
  else if o.imm = 0x018#27 then .syswFflags o
  else .sysw o

/-! The opcode map (R53, R54) -/

/-- The two-word opcodes: formats X and L (R54). -/
def twoWords (opc : BitVec 8) : Bool :=
  opc == 0x03#8 || opc == 0x90#8 || (decide (0xA0 ≤ opc.toNat) && decide (opc.toNat ≤ 0xAE)) ||
  opc == 0xC3#8 || opc == 0xCB#8 || opc == 0xCD#8

/-- The instruction of an opcode, from its words, before its field rules. -/
def decodeOp (opc : BitVec 8) (w0 w1 : Word) : Except DecodeError Instr :=
  match opc with
  | 0x00#8 => (decA w0).map .nop
  | 0x01#8 => (decA w0).map .mov
  | 0x02#8 => (decI w0).map .li
  | 0x03#8 => (decL w0 w1).map .liw
  | 0x04#8 => (decA w0).map .iadd
  | 0x05#8 => (decA w0).map .isub
  | 0x06#8 => (decA w0).map .imul
  | 0x07#8 => (decA w0).map .imulh
  | 0x08#8 => (decA w0).map .imad
  | 0x09#8 => (decI w0).map .iaddi
  | 0x0A#8 => (decA w0).map .imin
  | 0x0B#8 => (decA w0).map .imax
  | 0x0C#8 => (decA w0).map .iabs
  | 0x0D#8 => (decA w0).map .ineg
  | 0x0E#8 => (decA w0).map .and
  | 0x0F#8 => (decA w0).map .or
  | 0x10#8 => (decA w0).map .xor
  | 0x11#8 => (decA w0).map .andn
  | 0x12#8 => (decA w0).map .shl
  | 0x13#8 => (decA w0).map .shr
  | 0x14#8 => (decA w0).map .bfe
  | 0x15#8 => (decA w0).map .bfi
  | 0x16#8 => (decA w0).map .popc
  | 0x17#8 => (decA w0).map .clz
  | 0x18#8 => (decA w0).map .brev
  | 0x19#8 => (decA w0).map .icmp
  | 0x1A#8 => (decA w0).map .sel
  | 0x1B#8 => (decA w0).map .lea
  | 0x1C#8 => (decA w0).map .pspace
  | 0x1D#8 => (decA w0).map .mkaff
  | 0x1E#8 => (decA w0).map .idot4
  | 0x1F#8 => (decClog w0).map .clog
  | 0x20#8 => (decA w0).map .fadd
  | 0x21#8 => (decA w0).map .fsub
  | 0x22#8 => (decA w0).map .fmul
  | 0x23#8 => (decA w0).map .ffma
  | 0x24#8 => (decA w0).map .fmin
  | 0x25#8 => (decA w0).map .fmax
  | 0x26#8 => (decA w0).map .fcmp
  | 0x27#8 => (decA w0).map .fdiv
  | 0x28#8 => (decA w0).map .fsqrt
  | 0x29#8 => (decA w0).map .frcp
  | 0x2A#8 => (decA w0).map .frsq
  | 0x2B#8 => (decA w0).map .fexp2
  | 0x2C#8 => (decA w0).map .flog2
  | 0x2D#8 => (decA w0).map .fsin
  | 0x2E#8 => (decA w0).map .fcos
  | 0x2F#8 => (decA w0).map .fscs
  | 0x30#8 => (decA w0).map .ftanh
  | 0x31#8 => (decA w0).map .frnd
  | 0x32#8 => (decA w0).map .fdot2
  | 0x33#8 => (decA w0).map .fclamp
  | 0x34#8 => (decA w0).map .fclass
  | 0x35#8 => (decA w0).map .fscale
  | 0x36#8 => (decA w0).map .fsum
  | 0x37#8 => (decA w0).map .flerp
  | 0x40#8 => if w0.getLsbD 30 then (decCvt w0).map .cvtEf else (decCvt w0).map .cvt
  | 0x41#8 => if w0.getLsbD 30 then .error .unusedField else (decCvt w0).map .cvti
  | 0x42#8 => (decA w0).map .pack
  | 0x43#8 => (decA w0).map .unpk
  | 0x44#8 => (decA w0).map .swz
  | 0x45#8 => (decA w0).map .decb
  | 0x46#8 => (decA w0).map .vqdec
  | 0x47#8 => (decA w0).map .qnt
  | 0x48#8 => (decA w0).map .rand
  | 0x49#8 => (decA w0).map .amax
  | 0x4A#8 => (decA w0).map .shfl
  | 0x4B#8 => (decA w0).map .shflx
  | 0x4C#8 => (decA w0).map .vote
  | 0x4D#8 => (decA w0).map .peers
  | 0x4E#8 => (decA w0).map .wred
  | 0x4F#8 => (decA w0).map .wscan
  | 0x60#8 => (decM w0).map .ld
  | 0x61#8 => (decM w0).map .st
  | 0x62#8 => (decM w0).map .ldq
  | 0x63#8 => (decM w0).map .pref
  | 0x64#8 => (decM w0).map .atom
  | 0x65#8 => (decM w0).map .atomc
  | 0x66#8 => (decM w0).map .red
  | 0x67#8 => (decM w0).map .faddo
  | 0x68#8 => (decM w0).map .chain
  | 0x69#8 => (decM w0).map .fence
  | 0x6A#8 => (decM w0).map .waitm
  | 0x6B#8 => (decM w0).map .redb
  | 0x6C#8 => (decM w0).map .stt
  | 0x6D#8 => (decM w0).map .ldt
  | 0x6E#8 => (decM w0).map .pubv
  | 0x6F#8 => (decM w0).map .snuff
  | 0x70#8 => (decM w0).map .vwait
  | 0x71#8 => (decM w0).map .cctl
  | 0x72#8 => (decM w0).map .icinv
  | 0x80#8 => (decC w0).map .bra
  | 0x81#8 => (decC w0).map .brx
  | 0x82#8 => (decC w0).map .call
  | 0x83#8 => (decC w0).map .callt
  | 0x84#8 => (decC w0).map .ret
  | 0x85#8 => (decC w0).map .exit
  | 0x86#8 => (decC w0).map .join
  | 0x87#8 => (decC w0).map .arrv
  | 0x88#8 => (decC w0).map .kset
  | 0x89#8 => (decC w0).map .sign
  | 0x8A#8 => (decC w0).map .bar
  | 0x8B#8 => (decC w0).map .gbar
  | 0x8C#8 => (decC w0).map .yield
  | 0x8D#8 => (decC w0).map .waitp
  | 0x8E#8 => (decC w0).map .acq
  | 0x8F#8 => (decC w0).map .rel
  | 0x90#8 => (decA w0).map (fun a => .rgn (OpX.mk a w1))
  | 0x91#8 => (decC w0).map .launch
  | 0x92#8 => (decC w0).map .draw
  | 0x93#8 => (decC w0).map .frameb
  | 0x94#8 => (decC w0).map .framee
  | 0x95#8 => (decC w0).map .sleep
  | 0xA0#8 => (decA w0).map (fun a => .mma (OpX.mk a w1))
  | 0xA1#8 => (decA w0).map (fun a => .mmag (OpX.mk a w1))
  | 0xA2#8 => (decA w0).map (fun a => .mmar (OpX.mk a w1))
  | 0xA3#8 => (decA w0).map (fun a => .mperm (OpX.mk a w1))
  | 0xA4#8 => (decA w0).map (fun a => .acld (OpX.mk a w1))
  | 0xA5#8 => (decA w0).map (fun a => .acst (OpX.mk a w1))
  | 0xA6#8 => (decA w0).map (fun a => .acz (OpX.mk a w1))
  | 0xA7#8 => (decA w0).map (fun a => .opfence (OpX.mk a w1))
  | 0xA8#8 => (decA w0).map (fun a => .mwait (OpX.mk a w1))
  | 0xA9#8 => (decA w0).map (fun a => .maskt (OpX.mk a w1))
  | 0xAA#8 => (decA w0).map (fun a => .cpy (OpX.mk a w1))
  | 0xAB#8 => (decA w0).map (fun a => .cpym (OpX.mk a w1))
  | 0xAC#8 => (decA w0).map (fun a => .cpyg (OpX.mk a w1))
  | 0xAD#8 => (decA w0).map (fun a => .cpyz (OpX.mk a w1))
  | 0xAE#8 => (decA w0).map (fun a => .kvcmt (OpX.mk a w1))
  | 0xC0#8 => (decA w0).map .qpush
  | 0xC1#8 => (decA w0).map .qpop
  | 0xC2#8 => (decA w0).map .qctl
  | 0xC3#8 => (decA w0).map (fun a => .tspawn (OpX.mk a w1))
  | 0xC4#8 => if w0.getLsbD 4 then (decA w0).map .tdepWatch else (decA w0).map .tdep
  | 0xC5#8 => (decA w0).map .tdec
  | 0xC6#8 => (decA w0).map .ttime
  | 0xC7#8 => (decA w0).map .hread
  | 0xC8#8 => (decA w0).map .hrel
  | 0xC9#8 => (decA w0).map .interp
  | 0xCA#8 => (decA w0).map .ecull
  | 0xCB#8 => (decA w0).map (fun a => .tex (OpX.mk a w1))
  | 0xCC#8 => (decA w0).map .boxt
  | 0xCD#8 => (decA w0).map (fun a => .trit (OpX.mk a w1))
  | 0xCE#8 => (decA w0).map .rspawn
  | 0xCF#8 => (decA w0).map .pixlk
  | 0xD0#8 => (decA w0).map .pixul
  | 0xD1#8 => (decA w0).map .pxout
  | 0xE0#8 => (decI w0).map .sysr
  | 0xE1#8 => (decI w0).map syswOf
  | 0xE2#8 => if w0.getLsbD 4 then (decA w0).map .tlbiAsid else if w0.getLsbD 5 then (decA w0).map .tlbiAll
      else (decA w0).map .tlbiVa
  | 0xE3#8 => (decA w0).map .wipe
  | 0xE4#8 => if w0.getLsbD 4 then (decA w0).map .prioSet else (decA w0).map .prioXchg
  | 0xE8#8 => (decI w0).map .trap
  | 0xE9#8 => (decA w0).map .tret
  | 0xEA#8 => (decI w0).map .brk
  | 0xEB#8 => (decA w0).map .frz
  | 0xEC#8 => (decA w0).map .thaw
  | 0xED#8 => (decA w0).map .jrnl
  | 0xEE#8 => (decA w0).map .emit
  | 0xEF#8 => (decA w0).map .jtrunc
  | 0xF0#8 => (decA w0).map .jpart
  | 0xFF#8 => .ok .ill
  | _ => .error .reservedOpcode

/-- The words of a program instruction, written from the same tables; an event has none. -/
def encode : Instr → List Word
  | .nop o => [packA 0x00#8 o]
  | .mov o => [packA 0x01#8 o]
  | .li o => [packI 0x02#8 o]
  | .liw o => [packL 0x03#8 o, o.lit]
  | .iadd o => [packA 0x04#8 o]
  | .isub o => [packA 0x05#8 o]
  | .imul o => [packA 0x06#8 o]
  | .imulh o => [packA 0x07#8 o]
  | .imad o => [packA 0x08#8 o]
  | .iaddi o => [packI 0x09#8 o]
  | .imin o => [packA 0x0A#8 o]
  | .imax o => [packA 0x0B#8 o]
  | .iabs o => [packA 0x0C#8 o]
  | .ineg o => [packA 0x0D#8 o]
  | .and o => [packA 0x0E#8 o]
  | .or o => [packA 0x0F#8 o]
  | .xor o => [packA 0x10#8 o]
  | .andn o => [packA 0x11#8 o]
  | .shl o => [packA 0x12#8 o]
  | .shr o => [packA 0x13#8 o]
  | .bfe o => [packA 0x14#8 o]
  | .bfi o => [packA 0x15#8 o]
  | .popc o => [packA 0x16#8 o]
  | .clz o => [packA 0x17#8 o]
  | .brev o => [packA 0x18#8 o]
  | .icmp o => [packA 0x19#8 o]
  | .sel o => [packA 0x1A#8 o]
  | .lea o => [packA 0x1B#8 o]
  | .pspace o => [packA 0x1C#8 o]
  | .mkaff o => [packA 0x1D#8 o]
  | .idot4 o => [packA 0x1E#8 o]
  | .clog o => [packClog 0x1F#8 o]
  | .fadd o => [packA 0x20#8 o]
  | .fsub o => [packA 0x21#8 o]
  | .fmul o => [packA 0x22#8 o]
  | .ffma o => [packA 0x23#8 o]
  | .fmin o => [packA 0x24#8 o]
  | .fmax o => [packA 0x25#8 o]
  | .fcmp o => [packA 0x26#8 o]
  | .fdiv o => [packA 0x27#8 o]
  | .fsqrt o => [packA 0x28#8 o]
  | .frcp o => [packA 0x29#8 o]
  | .frsq o => [packA 0x2A#8 o]
  | .fexp2 o => [packA 0x2B#8 o]
  | .flog2 o => [packA 0x2C#8 o]
  | .fsin o => [packA 0x2D#8 o]
  | .fcos o => [packA 0x2E#8 o]
  | .fscs o => [packA 0x2F#8 o]
  | .ftanh o => [packA 0x30#8 o]
  | .frnd o => [packA 0x31#8 o]
  | .fdot2 o => [packA 0x32#8 o]
  | .fclamp o => [packA 0x33#8 o]
  | .fclass o => [packA 0x34#8 o]
  | .fscale o => [packA 0x35#8 o]
  | .fsum o => [packA 0x36#8 o]
  | .flerp o => [packA 0x37#8 o]
  | .cvt o => [packCvt 0x40#8 false o]
  | .cvtEf o => [packCvt 0x40#8 true o]
  | .cvti o => [packCvt 0x41#8 false o]
  | .pack o => [packA 0x42#8 o]
  | .unpk o => [packA 0x43#8 o]
  | .swz o => [packA 0x44#8 o]
  | .decb o => [packA 0x45#8 o]
  | .vqdec o => [packA 0x46#8 o]
  | .qnt o => [packA 0x47#8 o]
  | .rand o => [packA 0x48#8 o]
  | .amax o => [packA 0x49#8 o]
  | .shfl o => [packA 0x4A#8 o]
  | .shflx o => [packA 0x4B#8 o]
  | .vote o => [packA 0x4C#8 o]
  | .peers o => [packA 0x4D#8 o]
  | .wred o => [packA 0x4E#8 o]
  | .wscan o => [packA 0x4F#8 o]
  | .ld o => [packM 0x60#8 o]
  | .st o => [packM 0x61#8 o]
  | .ldq o => [packM 0x62#8 o]
  | .pref o => [packM 0x63#8 o]
  | .atom o => [packM 0x64#8 o]
  | .atomc o => [packM 0x65#8 o]
  | .red o => [packM 0x66#8 o]
  | .faddo o => [packM 0x67#8 o]
  | .chain o => [packM 0x68#8 o]
  | .fence o => [packM 0x69#8 o]
  | .waitm o => [packM 0x6A#8 o]
  | .redb o => [packM 0x6B#8 o]
  | .stt o => [packM 0x6C#8 o]
  | .ldt o => [packM 0x6D#8 o]
  | .pubv o => [packM 0x6E#8 o]
  | .snuff o => [packM 0x6F#8 o]
  | .vwait o => [packM 0x70#8 o]
  | .cctl o => [packM 0x71#8 o]
  | .icinv o => [packM 0x72#8 o]
  | .bra o => [packC 0x80#8 o]
  | .brx o => [packC 0x81#8 o]
  | .call o => [packC 0x82#8 o]
  | .callt o => [packC 0x83#8 o]
  | .ret o => [packC 0x84#8 o]
  | .exit o => [packC 0x85#8 o]
  | .join o => [packC 0x86#8 o]
  | .arrv o => [packC 0x87#8 o]
  | .kset o => [packC 0x88#8 o]
  | .sign o => [packC 0x89#8 o]
  | .bar o => [packC 0x8A#8 o]
  | .gbar o => [packC 0x8B#8 o]
  | .yield o => [packC 0x8C#8 o]
  | .waitp o => [packC 0x8D#8 o]
  | .acq o => [packC 0x8E#8 o]
  | .rel o => [packC 0x8F#8 o]
  | .rgn o => [packA 0x90#8 o.a, o.w1]
  | .launch o => [packC 0x91#8 o]
  | .draw o => [packC 0x92#8 o]
  | .frameb o => [packC 0x93#8 o]
  | .framee o => [packC 0x94#8 o]
  | .sleep o => [packC 0x95#8 o]
  | .mma o => [packA 0xA0#8 o.a, o.w1]
  | .mmag o => [packA 0xA1#8 o.a, o.w1]
  | .mmar o => [packA 0xA2#8 o.a, o.w1]
  | .mperm o => [packA 0xA3#8 o.a, o.w1]
  | .acld o => [packA 0xA4#8 o.a, o.w1]
  | .acst o => [packA 0xA5#8 o.a, o.w1]
  | .acz o => [packA 0xA6#8 o.a, o.w1]
  | .opfence o => [packA 0xA7#8 o.a, o.w1]
  | .mwait o => [packA 0xA8#8 o.a, o.w1]
  | .maskt o => [packA 0xA9#8 o.a, o.w1]
  | .cpy o => [packA 0xAA#8 o.a, o.w1]
  | .cpym o => [packA 0xAB#8 o.a, o.w1]
  | .cpyg o => [packA 0xAC#8 o.a, o.w1]
  | .cpyz o => [packA 0xAD#8 o.a, o.w1]
  | .kvcmt o => [packA 0xAE#8 o.a, o.w1]
  | .qpush o => [packA 0xC0#8 o]
  | .qpop o => [packA 0xC1#8 o]
  | .qctl o => [packA 0xC2#8 o]
  | .tspawn o => [packA 0xC3#8 o.a, o.w1]
  | .tdep o => [packA 0xC4#8 o]
  | .tdepWatch o => [packA 0xC4#8 o]
  | .tdec o => [packA 0xC5#8 o]
  | .ttime o => [packA 0xC6#8 o]
  | .hread o => [packA 0xC7#8 o]
  | .hrel o => [packA 0xC8#8 o]
  | .interp o => [packA 0xC9#8 o]
  | .ecull o => [packA 0xCA#8 o]
  | .tex o => [packA 0xCB#8 o.a, o.w1]
  | .boxt o => [packA 0xCC#8 o]
  | .trit o => [packA 0xCD#8 o.a, o.w1]
  | .rspawn o => [packA 0xCE#8 o]
  | .pixlk o => [packA 0xCF#8 o]
  | .pixul o => [packA 0xD0#8 o]
  | .pxout o => [packA 0xD1#8 o]
  | .sysr o => [packI 0xE0#8 o]
  | .sysw o => [packI 0xE1#8 o]
  | .syswHoldquota o => [packI 0xE1#8 o]
  | .syswSpillbase o => [packI 0xE1#8 o]
  | .syswSpillsize o => [packI 0xE1#8 o]
  | .syswFqbase o => [packI 0xE1#8 o]
  | .syswFqctl o => [packI 0xE1#8 o]
  | .syswTrapbase o => [packI 0xE1#8 o]
  | .syswPtroot o => [packI 0xE1#8 o]
  | .syswFflags o => [packI 0xE1#8 o]
  | .tlbiVa o => [packA 0xE2#8 o]
  | .tlbiAsid o => [packA 0xE2#8 o]
  | .tlbiAll o => [packA 0xE2#8 o]
  | .wipe o => [packA 0xE3#8 o]
  | .prioXchg o => [packA 0xE4#8 o]
  | .prioSet o => [packA 0xE4#8 o]
  | .trap o => [packI 0xE8#8 o]
  | .tret o => [packA 0xE9#8 o]
  | .brk o => [packI 0xEA#8 o]
  | .frz o => [packA 0xEB#8 o]
  | .thaw o => [packA 0xEC#8 o]
  | .jrnl o => [packA 0xED#8 o]
  | .emit o => [packA 0xEE#8 o]
  | .jtrunc o => [packA 0xEF#8 o]
  | .jpart o => [packA 0xF0#8 o]
  | .ill => [0x00FF000000000000#64]
  | .exchangeGroupIssue .. | .faddoApply .. | .chainTicketPerformed .. | .waitmPass .. | .redbApply ..
  | .copyComplete .. | .convergenceRoundIssue .. | .engineCommit .. | .joinRelease .. | .joinDeadlockRelease ..
  | .barrierComplete .. | .promiseDue .. | .acqGrant .. | .acqPreemption .. | .sleepExpiry .. | .timerWheelTick ..
  | .taskDispatch .. | .taskHeadStarvation .. | .heldInstanceAdmit .. | .settleDecrement .. | .fragmentTurnBegin ..
  | .prioCoreSwitch .. | .loadComplete .. | .storeAcknowledge .. | .deferredFaultArrival .. | .gangAdmission ..
  | .launchAging .. | .launchBlocking .. | .overdueGroup .. | .gangRetire .. | .launchCompletion ..
  | .drawCompletion .. | .frameCompletion .. | .frameElementStart .. | .objectCreate .. | .clusterCreate ..
  | .vertexCreate .. | .triangleSetup .. | .rayStart .. | .heldRecordRelease .. | .holdStorageExhausted ..
  | .freezeStop .. | .saveComplete .. | .freezeDeadline .. | .restore .. | .coreSparing ..
  | .journalRecordArrival .. | .journalAck .. | .partnerLost .. | .remoteAccess .. | .postedWrite ..
  | .rdmaWrite .. | .rdmaWriteImmediate .. | .create .. | .start .. | .destroy .. | .level .. | .freeze ..
  | .thawTransaction .. | .journal .. | .alloc .. | .free .. | .window .. | .region .. | .division ..
  | .lifecycle .. | .spare .. | .retire .. | .firmware .. | .telemetry .. | .clockStop | .reset | .laneFailure ..
  | .hbmRowRepair .. | .cxlLinkFailure .. | .forecastUpdate .. | .powerLimitExceeded | .overtemperatureStop ..
  | .ptpOffsetCorrection .. | .atomicResultReturn .. | .laneRetrainComplete .. => []

/-- A program instruction: one that has an encoding. -/
def isProgram (i : Instr) : Bool := !(encode i).isEmpty

/-- Decodes an instruction from its words; word 1 counts only where the opcode has one (DEDUCED, log 92). -/
def decodeWords (w0 w1 : Word) : Except DecodeError Instr :=
  match decodeOp (opcOf w0) w0 w1 with
  | .ok i => if i.wf then .ok i else .error .illFormed
  | .error e => .error e

/-! Bytes (R39) -/

/-- The eight bytes of a word, lowest address first. -/
def wordBytes (w : Word) : List Byte := (List.range 8).map (fun i => w.extractLsb' (8 * i) 8)

/-- A word from its bytes, lowest address first; missing bytes count as zero. -/
def wordOfBytes : List Byte → Word
  | [] => 0
  | b :: bs => (wordOfBytes bs <<< 8) ||| b.zeroExtend 64

/-- Decodes the instruction at the front of the bytes and answers the bytes that follow it. -/
def decode (bs : List Byte) : Except DecodeError (Instr × List Byte) :=
  let w0 := wordOfBytes (bs.take 8)
  let len := if twoWords (opcOf w0) then 16 else 8
  if bs.length < len then .error .short
  else
    match decodeWords w0 (wordOfBytes ((bs.drop 8).take 8)) with
    | .ok i => .ok (i, bs.drop len)
    | .error e => .error e

/-- The bytes of an instruction. -/
def encodeBytes (i : Instr) : List Byte := (encode i).flatMap wordBytes

/-- The instruction whose bits are `w`, numbered from bit 0 of the first word; a second word counts on from it.
The bits above `nbits` are zero. -/
def decodeTableWord (nbits w : Nat) : Option Instr :=
  let v := w % 2 ^ nbits
  let bytes := (List.range 16).map (fun i => BitVec.ofNat 8 (v / 256 ^ i))
  match decode bytes with
  | .ok (i, _) => some i
  | .error _ => none

end Sys2Proof
end

