-- ==== Sys2Proof/Machine/State.lean ====
section
/-!
DEFINITION. The state of one S9 as plain data: threads, waves, workgroups, gangs, launches, draws, held records,
tasks, contexts, memory, translation, partitions and the device, with what the model adds for itself (the agenda,
the free-value counter and the current issue).
-/

namespace Sys2Proof.Machine

/-! ### Threads and waves -/

/-- A register's shape tag with the data its save layout needs (R24). -/
inductive Tag where
  | u (v : Word)
  | a (base stride : Word)
  | g
  | h (handle : Word)
deriving DecidableEq, Repr

/-- Where a thread stands when it is stopped at a wait that it has entered (R239). -/
inductive Wait where
  | none
  /-- at a JOIN on mask register m (R250) -/
  | join (m : Nat)
  /-- at BAR n (R253) -/
  | bar (n : Nat)
  /-- at GBAR (R254) -/
  | gbar
  /-- at a matrix operation, for the round on k (R159) -/
  | conv (k : Nat)
  /-- at a cross-lane instruction (R137) -/
  | exchange
  /-- at WAITM or VWAIT, with the value that has passed for the thread (R202, R207) -/
  | memory (passed : Option Word)
  /-- at TRET (R417) -/
  | tret
  /-- at REL (R311) -/
  | rel
  /-- at ACQ (R32) -/
  | acq
  /-- at SLEEP, until this sys.ptp (R309) -/
  | sleep (upto : Nat)
  /-- at FRZ, for freeze f, whose status goes to register d (R418) -/
  | freeze (f d : Nat)
  /-- at CHAIN, for the ticket's turn (R200) -/
  | chain
  /-- at EMIT, for the partner's acknowledgements (R422) -/
  | emit
  /-- at JPART, for the acknowledgements of the records below an index; the status goes to register d, and `stby` tells
  whether the target is the standby (R423) -/
  | jpart (d upto : Nat) (stby : Bool)
deriving DecidableEq, Repr

/-- A fixed-latency result in flight in one thread (R55-R57): its register (or condition register 256 + c), the
value before the producer, the distance counted so far, the latency, and the producer's pc. -/
structure Pend where
  reg  : Nat
  old  : Word
  dist : Nat
  lat  : Nat
  pc   : Word
deriving DecidableEq, Repr

/-- The element that a draw thread stands for (R261-R270), and the task or ray of other threads. -/
structure Elem where
  obj : Nat := 0
  cls : Nat := 0
  vtx : Nat := 0
  tri : Nat := 0
  cx  : Nat := 0
  cy  : Nat := 0
  px  : Nat := 0
  py  : Nat := 0
  smp : Nat := 0
  ray : Nat := 0
  /-- a task thread's task slot -/
  task : Nat := 0
deriving DecidableEq, Repr

/-- One thread (R9). -/
structure Thread where
  present : Bool := false
  exited  : Bool := false
  pc      : Word := 0
  cond    : BitVec 4 := 0
  lsp     : Word := 0
  elem    : Word := 0
  eptr    : Word := 0
  tepc    : Word := 0
  tcond   : Word := 0
  tscratch0 : Word := 0
  tscratch1 : Word := 0
  tscratch2 : Word := 0
  tscratch3 : Word := 0
  /-- the transfer that brought the thread to its pc (R303) -/
  source  : Option Word := none
  wait    : Wait := .none
  pend    : List Pend := []
  /-- the first sys.clk tick at which the thread's next instruction may issue (R41) -/
  readyAt : Nat := 0
  /-- FADDOs executed in the launch (R99) -/
  faddoSeq : Nat := 0
  el      : Elem := {}
  culled  : Bool := false
  /-- the wait at which the thread stood when a trap was taken, and its pc (R256, R374) -/
  stood   : Wait := .none
  stoodPc : Word := 0
deriving DecidableEq, Repr

/-- Idempotence class and state of a Mitten entry (R383). -/
inductive MClass where
  | i | t | s
deriving DecidableEq, Repr

inductive MState where
  | issued | sent | partly | fault
deriving DecidableEq, Repr

/-- A resolved location (R169). -/
inductive Loc where
  /-- a physical byte -/
  | mem (pa : Nat)
  /-- a byte of a workgroup's scratchpad -/
  | spad (wg : Nat) (off : Nat)
  /-- an address at a fabric node -/
  | node (n : Nat) (addr : Nat)
  /-- a byte of the expansion of the block at a physical address (R180) -/
  | comp (pa : Nat)
  /-- a byte of memory that belongs to the S9 while it is so used: a spill area or a save area (R273, R394) -/
  | closed (pa va : Nat)
deriving DecidableEq, Repr

/-- A Mitten entry with its operand block (R383, R384). -/
structure Entry where
  slot : Nat
  seq  : Nat
  pc   : Word
  w0   : Word
  w1   : Word
  ins  : Instr
  cls  : MClass
  st   : MState := .issued
  kind : Nat
  orig : Nat := 0
  exec : Lanes
  done : Lanes := 0
  /-- copy-issue sequence, for copies -/
  copySeq  : Nat := 0
  isCopy   : Bool := false
  reissued : Bool := false
  cursor   : Nat := 0
  addr : Word := 0
  /-- effective address of each executing lane -/
  ea   : List (Nat × Word) := []
  /-- resolved location of each executing lane -/
  loc  : List (Nat × Loc) := []
  /-- operand words of each executing lane -/
  vals : List (Nat × List Word) := []
  /-- result words of each lane, in the order of `dest` -/
  res  : List (Nat × List Word) := []
  /-- destination registers -/
  dest : List Nat := []
  /-- the queue an LDQ fills -/
  queue : Option Nat := none
  /-- lanes whose data came with an uncorrectable error -/
  bad  : Lanes := 0
  /-- engine operations: the number of the issue, and the operand words as they stood then (R164) -/
  engNum : Nat := 0
  snap   : List (List Nat) := []
  /-- no OPFENCE since the issue: what the operation reads may stay in the latches (R161) -/
  latches : Bool := true
  /-- the record that a JRNL or JTRUNC wrote, by its index, and its 64 bytes; for EMIT the number of records issued
  before it -/
  record : Option Nat := none
  record64 : List Byte := []
  /-- destination registers, as (lane, register), that keep the result of an undersized producer (R57) -/
  keeps  : List (Nat × Nat) := []
  /-- its result is one value for every thread, from uniform operands (R25) -/
  uni    : Bool := false
  /-- the flags that each lane's result sets when it is written (R93) -/
  flags  : List (Nat × BitVec 6) := []
deriving DecidableEq, Repr

/-- A queue of a wave (R315-R317): an entry that an LDQ has reserved and not filled is none. -/
structure Queue where
  depth   : Nat := 0
  entries : List (Option (List Word)) := []
deriving DecidableEq, Repr

/-- A join record (R249). -/
structure Join where
  pc      : Word := 0
  arrived : Lanes := 0
  isOpen  : Bool := false
deriving DecidableEq, Repr

/-- An operand latch of the matrix engine (R161): the identity and the words read. -/
structure Latch where
  ident  : List Nat := []
  words  : List Nat := []
  valid  : Bool := false
deriving DecidableEq, Repr

/-- The flags that a committed engine operation still owes its matching MWAIT (R93, R163). -/
structure Owed where
  num   : Nat
  pc    : Word
  w0    : Word
  w1    : Word
  lanes : Lanes
  flags : BitVec 6
  /-- a matrix operation's flags are set at the MWAIT (R93) -/
  atWait : Bool
deriving DecidableEq, Repr

/-- Why a wave exists (R18, R35, R263, R290, R294). -/
inductive WKind where
  /-- a wave of a compute workgroup -/
  | compute
  /-- the wave of a coarse element of a compute launch -/
  | coarse
  /-- the access wave of a compute wave -/
  | access
  /-- a wave of a draw -/
  | draw
  /-- a task wave -/
  | task
deriving DecidableEq, Repr

/-- The trap registers of a wave (R370). -/
structure TrapRegs where
  tcause : Word := 0
  tmask  : Word := 0
  tpc    : Word := 0
  taddr  : Word := 0
  tinfo  : Word := 0
  tfrom  : Word := 0
  tword0 : Word := 0
  tword1 : Word := 0
  inHandler : Bool := false
  trec   : List Word := []
deriving DecidableEq, Repr

/-- A word of eight bytes that a wave has stored to since its last OPFENCE, with what it held before (R164). -/
structure Loose where
  loc : Loc
  old : Word
  /-- the widest scope of a release that has followed the store -/
  rel : Nat := 0
deriving DecidableEq, Repr

/-- One wave. -/
structure Wave where
  ctx   : Nat
  /-- wave slot in the context (R386) -/
  slot  : Nat
  kind  : WKind
  /-- workgroup or wave group, by its key -/
  wg    : Nat
  /-- sys.wave -/
  idx   : Nat
  /-- active core, 24 × lantern + ring position, and quadrant -/
  core  : Nat
  quad  : Nat
  /-- the rate whose instructions it executes (R17) -/
  rate  : Nat
  /-- the draw, for a draw wave; the paired wave, for an access wave or its compute wave -/
  draw  : Nat := 0
  pair  : Option Nat := none
  threads : List Thread
  regs  : Table Word := []
  tags  : Table Tag := []
  /-- registers whose value comes from a load through registers (R175) -/
  loaded : Table Bool := []
  /-- poisoned registers with the load's pc (R373) -/
  poison : Table Word := []
  fflags : Word := 0
  /-- flags of fixed-latency results that have not reached their latency (R93): the tick, the threads, the flags -/
  flying : List (Nat × Lanes × BitVec 6) := []
  retired : Nat := 0
  acc   : Table (BitVec 32) := []
  queues : List Queue := [{}, {}, {}, {}, {}, {}, {}, {}]
  mitten : List Entry := []
  seqNext : Nat := 0
  copySeq : Nat := 0
  joins : List Join := []
  /-- by pc: threads that took part alone in a cross-lane instruction, until the next exchange group there (R137) -/
  exch  : Table Lanes := []
  trap  : TrapRegs := {}
  trapbase : Word := 0
  latchA : Latch := {}
  latchB : Latch := {}
  /-- engine operations issued, and what they owe -/
  engines : Nat := 0
  owed    : List Owed := []
  palm  : List Nat := []
  /-- what the matrix engines need not have seen (R164): stored words, and the registers at the last OPFENCE -/
  loose  : List Loose := []
  fenced : Table Word := []
  /-- issue bookkeeping: admission tick, last group issued, since when each lane's group is ready, overdue order -/
  admitted : Nat := 0
  lastLane : Nat := 31
  readySince : Table Nat := []
  overdue : Table Nat := []
  /-- the tick at which the Y hint sets the wave back (R42, R240) -/
  yieldAt : Nat := 0
  frozen : Bool := false
  /-- terminated by an unhandled or double fault (R378) -/
  ended : Bool := false
deriving DecidableEq, Repr

/-! ### Workgroups, gangs, launches -/

/-- A generation of a named barrier (R253): its count and the arrivals of each wave. -/
structure BarGen where
  count    : Nat
  arrivals : Table Lanes
deriving DecidableEq, Repr

/-- A named barrier: its open generations, the current one first. -/
structure Bar where
  gens : List BarGen := []
deriving DecidableEq, Repr

/-- A convergence register (R159). -/
structure Conv where
  w      : BitVec 32 := 0
  isOpen : Bool := false
  wave   : Nat := 0
  pc     : Word := 0
  sigs   : Table Lanes := []
deriving DecidableEq, Repr

/-- An allotment (R30). -/
structure Allot where
  n    : Nat := 8
  g    : Nat := 1
  spad : Nat := 0
  rows : Nat := 0
  q    : Nat := 0
deriving DecidableEq, Repr

/-- A held-layout entry (R66). -/
structure HoldEntry where
  reg   : Nat
  rate  : Nat
  vis   : Bool
  scope : Nat
  slot  : Nat
deriving DecidableEq, Repr

/-- A code object's header (R64). -/
structure CodeObj where
  base     : Word := 0
  isDraw   : Bool := false
  det      : Bool := false
  sliced   : Bool := false
  ordered  : Bool := false
  ncore    : Nat := 0
  ftablen  : Nat := 0
  textsize : Nat := 0
  entry    : List (Option Nat) := []
  access   : Option Nat := none
  trapoff  : Option Nat := none
  ftaboff  : Nat := 0
  prologue : Allot := {}
  full     : Allot := {}
  split    : List Nat := []
  homes    : List Nat := []
  hold     : List HoldEntry := []
deriving DecidableEq, Repr

/-- A workgroup, a draw's wave group, or a task wave's group. -/
structure Workgroup where
  ctx    : Nat
  gang   : Nat
  member : Nat
  core   : Nat
  size   : Nat
  nwave  : Nat
  /-- the quadrant of its wave 0 -/
  quad   : Nat := 0
  stage  : Nat := 0
  full   : Bool := false
  /-- its ACQ request has been placed -/
  acqAt  : Bool := false
  spad   : Table Byte := []
  bars   : List Bar := []
  convs  : List Conv := []
  tickets : List Word := []
  held   : Table Word := []
  /-- its coarse element: 0 not started, 1 running, 2 exited -/
  coarse : Nat := 0
  finished : Bool := false
deriving DecidableEq, Repr

inductive GState where
  | admitted | frozen | saved | retired
deriving DecidableEq, Repr

structure Gang where
  ctx     : Nat
  /-- its launch or draw, by uid; for a task wave the context's own unit 0 -/
  launch  : Nat
  idx     : Nat
  core    : Nat
  members : List Nat
  st      : GState := .admitted
  held    : Table Word := []
  coarse  : Nat := 0
  gbar    : Table Lanes := []
  /-- the gang's ACQ request, by its place in the order of requests -/
  acqAt   : Option Nat := none
  /-- the next wave of the rotation under DET, by its place (R243) -/
  turn    : Nat := 0
  logical : Nat := 0
deriving DecidableEq, Repr

/-- A FADDO contribution that waits for its place (R99). -/
structure Contribution where
  loc   : Loc
  wg    : Nat
  tid   : Nat
  seq   : Nat
  wide  : Bool
  value : Word
  /-- the wave and lane that issued it, whether in a coarse element, and its Mitten entry -/
  wid   : Nat
  lane  : Nat
  coarse : Bool
  entry : Entry
deriving DecidableEq, Repr

/-- A CHAIN ticket taken and not performed (R200). -/
structure Ticket where
  wg    : Nat
  wid   : Nat
  entry : Nat
  lanes : Lanes
  vals  : List (Nat × Word)
deriving DecidableEq, Repr

/-- The chain on one address of one launch (R200). -/
structure Chain where
  loc    : Loc
  wide   : Bool
  tickets : List Ticket := []
  performed : List Nat := []
  broken : Bool := false
deriving DecidableEq, Repr

/-- Completion actions of a launch or draw record (R225, R258). -/
structure Completion where
  ctr    : Option Nat := none
  cw     : Option (Word × Word) := none
  system : Bool := false
deriving DecidableEq, Repr

/-- A compute launch, or a control workgroup (R35). -/
structure Launch where
  ctx    : Nat
  ord    : Nat
  pc     : Word
  w0     : Word := 0
  obj    : CodeObj
  gangs  : Nat
  gsize  : Nat
  delta  : Nat := 0
  wgsize : Nat
  stages : List Nat := []
  compl  : Completion := {}
  control : Bool := false
  /-- the unit of one task wave (R290) -/
  isTask : Bool := false
  nextGang : Nat := 0
  /-- gangs pre-empted and not readmitted -/
  returned : List Nat := []
  retired : Nat := 0
  /-- the tick from which R233's t counts, and the levels aged so far -/
  since  : Nat := 0
  aged   : Nat := 0
  /-- the tick since which its next gang has waited (R236) -/
  waitSince : Nat := 0
  blockingAt : Option Nat := none
  held   : Table Word := []
  coarse : Nat := 0
  faddo  : List Contribution := []
  chains : List Chain := []
  /-- terminated workgroups (by sys.wg) with the locations of the tickets they had taken (R200) -/
  terminated : List (Nat × List Loc) := []
  /-- the cores that its retired waves ran on (R229) -/
  cores  : List Nat := []
  gone   : Bool := false
deriving DecidableEq, Repr

/-! ### Draws -/

/-- A held record (R271). -/
structure HeldRec where
  ctx   : Nat
  draw  : Nat
  /-- frame records name the code object -/
  code  : Word := 0
  seq   : Nat
  rate  : Nat
  el    : Elem
  elem  : Nat := 0
  lantern : Nat
  isRay : Bool
  lines : Nat
  /-- the frame that the record belongs to -/
  frame : Nat := 0
  /-- the registers that it holds -/
  regs  : List Nat := []
  vals  : Table Word := []
  poison : Table Word := []
  frameScope : Bool := false
  /-- it came back from a spill area into which a program has stored (R273) -/
  spoiled : Bool := false
  lastRead : Nat := 0
  spilled : Option Nat := none
deriving DecidableEq, Repr

/-- A triangle after set-up (R264, R265): the vertex indices in set-up order, the provoking vertex, fixed-point
positions, area, depths and reciprocal clip values. -/
structure Tri where
  idx : Nat
  v   : List Nat
  provoking : Nat
  xs  : List Int
  ys  : List Int
  area : Int
  zs  : List (BitVec 32)
  qs  : List (BitVec 32)
deriving DecidableEq, Repr

/-- A coarse element of a triangle (R268): 0 not started, 1 running, 2 exited. -/
structure CoarsePx where
  tri : Nat
  cx  : Nat
  cy  : Nat
  st  : Nat := 0
deriving DecidableEq, Repr

/-- A cluster of a draw (R261, R262). -/
structure Cluster where
  idx     : Nat
  lantern : Nat := 0
  addr    : Word := 0
  /-- 1 its thread runs, 2 exited, 3 its vertices are created, 4 set up -/
  phase   : Nat := 1
  /-- the wave group whose wave ran its thread (R261) -/
  wg      : Nat := 0
  vptr    : Word := 0
  iptr    : Word := 0
  vcount  : Nat := 0
  tcount  : Nat := 0
  vstride : Nat := 0
  culled  : Bool := false
  vtxLeft : Nat := 0
  tris    : List Tri := []
  coarse  : List CoarsePx := []
deriving DecidableEq, Repr

structure DrawObj where
  idx     : Nat
  lantern : Nat := 0
  addr    : Word := 0
  /-- 1 its thread runs, 2 exited -/
  phase   : Nat := 1
  clist   : Word := 0
  ncls    : Nat := 0
  culled  : Bool := false
  clusters : List Cluster := []
deriving DecidableEq, Repr

/-- One sample thread's turn at its pixel (R279). -/
structure Frag where
  draw : Nat
  seq  : Nat
  obj  : Nat
  cls  : Nat
  tri  : Nat
  px   : Nat
  py   : Nat
  smp  : Nat
  z    : BitVec 32
  wid  : Nat := 0
  lane : Nat := 0
  /-- 0 not begun, 1 begun, 2 ended -/
  turn : Nat := 0
  lock : Bool := false
  /-- its thread runs -/
  started : Bool := false
deriving DecidableEq, Repr

/-- A spawned ray that has not started (R328). -/
structure Ray where
  lantern : Nat
  num     : Nat
  eptr    : Word
deriving DecidableEq, Repr

structure DrawUnit where
  ctx    : Nat
  ord    : Nat
  pc     : Word
  recAddr : Word
  obj    : CodeObj
  frame  : Nat
  seq    : Nat
  objlist : Word
  nobj   : Nat
  width  : Nat
  height : Nat
  spp    : Nat
  coarse : Nat
  cull   : Nat
  posreg : Nat
  cfmt   : Nat
  blend  : Nat
  depth  : Nat
  delta  : Nat
  cbase  : Word
  dbase  : Word
  compl  : Completion
  objs   : List DrawObj := []
  frags  : List Frag := []
  rays   : List Ray := []
  rayCount : Nat := 0
  /-- the cores that its retired waves ran on (R283) -/
  cores  : List Nat := []
  gone   : Bool := false
deriving DecidableEq, Repr

/-- The open or closing frame of a context (R260, R314). -/
structure Frame where
  id     : Nat := 0
  draws  : Nat := 0
  word   : Word := 0
  /-- frame elements: code object, phase (1 running, 2 exited) -/
  elements : List (Word × Nat) := []
deriving DecidableEq, Repr

/-! ### Tasks -/

inductive TState where
  | pending (ctr : Nat) | timed (t : Nat) | held | ready | running (wid lane : Nat)
deriving DecidableEq, Repr

structure Task where
  slot  : Nat
  gen   : Nat
  ctx   : Nat
  entry : Word
  /-- the task code object at the entry, as it stood when the task was created -/
  obj   : CodeObj := {}
  arg   : Word
  prio  : Nat
  st    : TState
  ver   : Word := 0
  /-- the watch and template that an instance came from -/
  watch : Option (Nat × Nat) := none
  settle : Word := 0
  /-- place in its queue or counter list -/
  order : Nat := 0
  since : Nat := 0
deriving DecidableEq, Repr

/-- A watch (R297). -/
structure Watch where
  id     : Nat
  ctx    : Nat
  /-- the tile, by its physical address / 4096 -/
  tile   : Nat
  ctr    : Nat
  settle : Word
deriving DecidableEq, Repr

/-- An instance that has exited and whose settle decrement is due (R299). -/
structure Settling where
  id   : Nat
  ctx  : Nat
  wid  : Nat
  /-- the thread's Mitten entries at its exit -/
  seqs : List Nat
  word : Word
deriving DecidableEq, Repr

structure Lantern where
  ctrs   : Table (BitVec 16) := []
  tasks  : List Task := []
  gens   : Table Nat := []
  watches : List Watch := []
  /-- the order of a head task that has waited 400 µs without a core (R293) -/
  starving : Option Nat := none
  /-- ring position to physical core; a position that has none is absent (R12, R399) -/
  ring   : Table Nat
  spares : List Nat
  failing : List Nat := []
deriving DecidableEq, Repr

/-! ### Contexts -/

/-- A journal record as the S9 keeps it (R401, R403). -/
structure JRec where
  idx   : Nat
  seq   : Nat
  step  : Nat
  kind  : Nat
  bytes : List Byte
  acked : Bool := false
  sent  : Bool := false
  live  : Bool := true
  /-- the core of its JRNL, and a release of that core since (R422) -/
  core  : Nat := 0
  rel   : Bool := false
deriving DecidableEq, Repr

structure Journal where
  partner : Nat
  pbase   : Nat
  log2    : Nat
  shadow  : Nat
  standby : Option (Nat × Nat)
  next    : Nat := 0
  head    : Nat := 0
  lost    : Bool := false
  recs    : List JRec := []
  /-- sys.clk of the last flit from the partner, or of the first unacknowledged sending -/
  heard   : Nat := 0
deriving DecidableEq, Repr

inductive CState where
  | running | freezing | frozen (area : Nat)
deriving DecidableEq, Repr

structure Ctx where
  part   : Nat
  priv   : Bool
  level  : Nat
  grant  : List (Nat × Nat × Nat)
  nodes  : List Nat
  parea  : Nat
  ptroot : Word
  /-- the root that walks use until tlbi.asid (R364) -/
  walkroot : Word
  ctxctl : Word := 1
  holdquota : Word := 0
  spillbase : Word := 0
  spillsize : Word := 0
  /-- a program has stored into the spill area while draws ran (R273) -/
  spoilt : Bool := false
  fqbase : Word := 0
  fqctl  : Word := 0
  fqhead : Word := 0
  fqtail : Word := 0
  fqlost : Word := 0
  /-- the control workgroup's launch, by uid -/
  control : Option Nat := none
  /-- launches and draws placed (R379) -/
  placed : Nat := 0
  frame  : Option Frame := none
  /-- completed frames' elements not kept; closing frames -/
  closing : List Frame := []
  journal : Option Journal := none
  st     : CState := .running
  deadlineUs : Nat := 200
  /-- a stalled creation whose cause 0x0B is to be raised: its lantern, draw sequence and rate (R277) -/
  holdFault : Option (Nat × Nat × Nat) := none
  /-- cause 0x0B has been raised, and nothing has changed since -/
  holdStalled : Bool := false
deriving DecidableEq, Repr

/-- A pending address space of a number that no context uses (R445). -/
structure Pending where
  part  : Nat
  root  : Word
deriving DecidableEq, Repr

/-! ### Freezing -/

/-- A freeze of a unit (R380): a context, or one gang by its key. -/
structure Freeze where
  ctx   : Nat
  gang  : Option Nat
  area  : Nat
  /-- bytes of the save area that the unit's save takes -/
  size   : Nat := 0
  /-- a program has stored into the save area (R380) -/
  spoiled : Bool := false
  /-- deadline, in sys.ptp nanoseconds (R397) -/
  deadline : Nat
  /-- 0 requested, 1 stopped, 2 saved, 3 its restore is placed -/
  phase : Nat := 0
  /-- sys.ptp at the stop -/
  frozenAt : Nat := 0
  /-- the nodes and ports that FREEZE transactions answer to -/
  answer : List (Nat × Bool) := []
  /-- pre-emption for ACQ or sparing: the gang returns to the queues when it is saved (R34, R399) -/
  requeue : Bool := false
  /-- the failing core whose sparing asked for the freeze (R399) -/
  spare  : Option Nat := none
  /-- the gangs that it has stopped -/
  gangs  : List Nat := []
deriving DecidableEq, Repr

/-- A save that has been completed (R395, R419): what a later restore from its area brings back, as long as the area holds
these bytes. -/
structure SavedUnit where
  ctx   : Nat
  gang  : Option Nat
  area  : Nat
  bytes : List Byte
  waves : List (Nat × Wave)
  wgs   : List (Nat × Workgroup)
  gangs : List (Nat × Gang)
deriving DecidableEq, Repr

/-! ### Memory system -/

structure Tlb where
  asid : Nat
  va   : Nat
  size : Nat
  pa   : Nat
  r    : Bool
  w    : Bool
  x    : Bool
deriving DecidableEq, Repr

structure ILine where
  core  : Nat
  asid  : Nat
  va    : Nat
  words : List Word
deriving DecidableEq, Repr

/-- A write to device memory that some cores may not have seen yet (R171, R175): the word before it, and the cores and
lanterns (384 + lantern) that have. -/
structure Hidden where
  /-- the word of eight bytes, by the place that serves it -/
  word : Nat
  old  : Word
  seen : List Nat
  /-- the copy that wrote it, by its key (R182) -/
  copy : Option Nat := none
  /-- a node wrote it: an acquire at system scope shows it (R172, R181) -/
  far  : Bool := false
deriving DecidableEq, Repr

/-- A memory-side record of a T access (R387). -/
structure TagRec where
  store : Nat
  tag   : Nat
  pinned : Bool := false
  ctx   : Nat
  /-- the tag store that keeps it: an HBM channel, or 1000 + lantern for a slice of the last-level cache -/
  place : Option Nat := none
deriving DecidableEq, Repr

/-- An inbound window (R444). -/
structure Win where
  part  : Nat
  /-- none for a journal window -/
  ctx   : Option Nat
  nbase : Nat
  len   : Nat
  vbase : Nat
  nodes : List Nat
  reads : Bool
  writes : Bool
  atomics : Bool
  rkey  : Option Nat
  doorbell : Option Word
  /-- a journal window: for each slot, one more than the highest INDEX written into it (R405) -/
  high   : Table Nat := []
deriving DecidableEq, Repr

structure Partition where
  dies  : List Nat
  node  : Nat
  mgmt  : Nat
  cxl   : List (Nat × Nat)
  forecast : Nat := 0
  /-- issue slots used since the last forecast -/
  used  : Nat := 0
  /-- the context last served at each level (R234) -/
  served : Table Nat := []
  /-- minimum clocks that power control has committed to: a window's first tick, and MHz (R247) -/
  floors  : List (Nat × Nat) := []
  keygen : Nat := 1
deriving DecidableEq, Repr

structure Port where
  /-- the lanes that have failed -/
  badLanes : List Nat := []
  /-- it carries nothing (R411) -/
  retraining : Bool := false
  half : Bool := false
deriving DecidableEq, Repr

/-- What leaves the S9 (R433-R437; DESIGN CHOICE, log 31). -/
inductive Out where
  | irq (node : Nat) (msg : Word)
  | response (node : Nat) (sideband : Bool) (status : Nat)
  | store (node : Nat) (addr : Nat) (bytes : List Byte)
  | atomic (node : Nat) (addr : Nat) (op : Nat) (bytes : List Byte)
  | journal (node : Nat) (addr : Nat) (bytes : List Byte)
  | journalAck (node : Nat) (index : Nat)
  | refusal (node : Nat)
  | read (node : Nat) (bytes : List Byte)
  | nak (node : Nat)
  | event (code : Nat)
  | telemetry (node : Nat) (block : List Nat)
  /-- what the management port reads out (R361, R414) -/
  | readOut (words : List Word)
deriving DecidableEq, Repr

/-- What the fuses hold of the firmware's signing key (R362): nothing in a blank part; after provisioning a hash, one of the
part's own that is not known (Config.fusedKeyHash; DESIGN CHOICE, log 6), or a known one. -/
inductive Fuses where
  | blank
  | own
  | hash (h : List Byte)
deriving DecidableEq, Repr

structure Device where
  clk     : Nat := 0
  ptp     : Nat := 0
  /-- sixths of a nanosecond beyond ptp -/
  ptpFrac : Nat := 0
  slew    : Int := 0
  /-- the tick of sys.clk at which sys.ptp last passed a multiple of 100 ns (R289) -/
  wheelAt : Nat := 0
  ptpLocked : Bool := false
  lcstate : Nat := 2
  m0      : List Byte := []
  image   : Option FirmwareImage := none
  booted  : Bool := false
  stopped : Bool := false
  /-- the HBM4E stacks refresh themselves (R414) -/
  selfRefresh : Bool := false
  fuses : Fuses := .own
  overheated : Bool := false
  clockMHz : Nat := 1200
  throttled : Bool := false
  fabric  : List Port := []
  ethernet : List Port := []
  /-- CXL ranges that refuse accesses -/
  cxlDown : List (Nat × Nat) := []
  telemetry : Table Nat := []
deriving DecidableEq, Repr

/-! ### The machine -/

/-- The issue that exec works on: the wave, the lanes of the issue group, their pc and the instruction's words. -/
structure Issue where
  wid   : Nat
  lanes : Lanes
  pc    : Word
  w0    : Word
  w1    : Word
deriving DecidableEq, Repr

/-- What the management port may read out (R361, R414; DEDUCED, log 48): of a wave, by its key, a register of a thread, a
system register, an accumulator cell, its flags and pcs; of a workgroup, its scratchpad; of a held record, a register;
of device memory, bytes. -/
inductive Probe where
  | reg (wid lane r : Nat)
  | sysreg (wid lane n : Nat)
  | cell (wid i j : Nat)
  | pcs (wid : Nat)
  | spad (wg off n : Nat)
  | held (id r : Nat)
  | memory (pa n : Nat)
deriving DecidableEq, Repr

/-- What the agenda may name: an event, the sending of a wave's oldest stores, one issue, one cycle, or a read-out by the
management port (DESIGN CHOICE, log 8). -/
inductive Turn where
  | event (i : Instr)
  | drain (w : Nat)
  | issue
  | cycle
  | readOut (p : Probe)
deriving DecidableEq, Repr

structure State where
  /-- device memory, by physical address: strictly rising, no zero byte listed -/
  mem     : List Host.Cell := []
  btags   : Table (BitVec 16) := []
  descs   : Table (BitVec 16) := []
  vers    : Table Word := []
  /-- 64-byte blocks whose data is uncorrectable -/
  bad     : List Nat := []
  /-- 64-byte blocks that have been written under the present keys (R355) -/
  keyed   : Table Bool := []
  /-- 64 KiB frames that have been wiped under the present keys -/
  wiped   : Table Bool := []
  /-- writes that some cores may not have seen, oldest first (R171, R175) -/
  hidden  : List Hidden := []
  /-- pinned lines with their context (R196) -/
  pins    : List (Nat × Nat) := []
  tlb     : List Tlb := []
  icache  : List ILine := []
  tagrecs : List TagRec := []
  redirect : Table Nat := []
  /-- retired HBM channels, as 32 × stack + channel: their frames are never handed out (R413) -/
  retired : List Nat := []
  waves   : List (Nat × Wave) := []
  wgs     : List (Nat × Workgroup) := []
  gangs   : List (Nat × Gang) := []
  launches : List (Nat × Launch) := []
  draws   : List (Nat × DrawUnit) := []
  recs    : List (Nat × HeldRec) := []
  lanterns : List Lantern
  settling : List Settling := []
  ctxs    : List (Nat × Ctx) := []
  pending : List (Nat × Pending) := []
  /-- contexts that a DESTROY of a node ended, as (node, number), while the number is not in use (R436) -/
  ended   : List (Nat × Nat) := []
  windows : List Win := []
  freezes : List (Nat × Freeze) := []
  /-- completed saves, the latest of each unit and area -/
  saves   : List SavedUnit := []
  parts   : List Partition
  /-- old levels that a core still uses, by 64 × core + context: 64 × the tick at which it has switched, and the level
  + 1 (R245) -/
  oldLevels : Table Nat := []
  dev     : Device
  out     : List Out := []
  /-- issue ports that have issued in this cycle -/
  issued  : List Nat := []
  /-- the next key of a unit -/
  nextKey : Nat := 1
  /-- the model's own: the agenda, the free-value counter, the current issue -/
  agenda  : List Turn := []
  freeCtr : Nat := 0
  cur     : Option Issue := none
deriving DecidableEq, Repr

/-- A fault of the machine. -/
inductive Fault where
  /-- raised by step when every clock of the package is stopped (R414, R442) and the agenda is empty: nothing runs. Safe:
  the hardware does nothing either. -/
  | clocksStopped
deriving DecidableEq, Repr

/-- A refusal. -/
inductive Refusal where
  /-- raised by exec for an instruction that has no meaning in the model yet. Safe. -/
  | notModelled (mnemonic : String)
deriving DecidableEq, Repr

/-- A lantern after reset: cores 0-23 active, 24 and 25 spare (R5; DESIGN CHOICE, log 97). -/
def resetLantern : Lantern :=
  { ring := (List.range 24).map (fun i => (i, i + 1)), spares := [24, 25] }

/-- The machine right after reset (R356, R435): the chip wiped, one partition of four dies, no firmware image
loaded, so no context (R362). Values that the spec gives none for: DESIGN CHOICE, logs 1, 2, 3, 5, 97; DEDUCED, log 4. -/
def State.reset : State :=
  { lanterns := List.replicate 16 resetLantern
    parts := [{ dies := [0, 1, 2, 3], node := 16, mgmt := Config.fusedMgmtNode.toNat, cxl := [] }]
    dev := { fabric := List.replicate 18 {}, ethernet := List.replicate 32 {} } }

end Sys2Proof.Machine
end

