-- ==== Sys2Proof/Machine/Data.lean ====
section
/-!
DEFINITION. Sparse tables, byte strings and device memory as lists in one canonical form, and the free values.
-/

namespace Sys2Proof.Machine

/-! ### Tables: keys strictly rising, no entry equal to the default -/

/-- The value at a key; an unlisted key reads as `d`. -/
def tget {α : Type} (d : α) : Table α → Nat → α
  | [], _ => d
  | (k, v) :: t, x => if x = k then v else tget d t x

/-- Puts a value that is not the default at a key. -/
def tput {α : Type} : Table α → Nat → α → Table α
  | [], x, v => [(x, v)]
  | (k, u) :: t, x, v =>
    if x < k then (x, v) :: (k, u) :: t
    else if x = k then (x, v) :: t
    else (k, u) :: tput t x v

/-- Sets a key; the default value removes its entry. -/
def tset {α : Type} [DecidableEq α] (d : α) (t : Table α) (x : Nat) (v : α) : Table α :=
  if v = d then t.filter (fun e => e.1 != x) else tput t x v

/-- The canonical form: keys strictly rising from `lo`, no entry equal to the default. -/
def twfFrom {α : Type} [DecidableEq α] (d : α) : Nat → Table α → Bool
  | _, [] => true
  | lo, (k, v) :: t => decide (lo ≤ k) && decide (v ≠ d) && twfFrom d (k + 1) t

/-- The canonical form of a table. -/
def twf {α : Type} [DecidableEq α] (d : α) (t : Table α) : Bool := twfFrom d 0 t

/-! ### Units by key -/

def aget? {α : Type} (l : List (Nat × α)) (k : Nat) : Option α := (l.find? (fun e => e.1 == k)).map Prod.snd

/-- Replaces the entry of a key, or adds it at the end. -/
def aset {α : Type} : List (Nat × α) → Nat → α → List (Nat × α)
  | [], x, v => [(x, v)]
  | (k, u) :: t, x, v => if x = k then (x, v) :: t else (k, u) :: aset t x v

def adel {α : Type} (l : List (Nat × α)) (k : Nat) : List (Nat × α) := l.filter (fun e => e.1 != k)

/-- Changes the entry of a key, if there is one. -/
def amod {α : Type} (l : List (Nat × α)) (k : Nat) (f : α → α) : List (Nat × α) :=
  l.map (fun e => if e.1 = k then (e.1, f e.2) else e)

/-- Replaces one element of a list, if it is there. -/
def lmod {α : Type} (l : List α) (i : Nat) (f : α → α) : List α :=
  l.mapIdx (fun j a => if j = i then f a else a)

/-! ### Orders -/

/-- The lexicographic order. -/
def lexLt : List Nat → List Nat → Bool
  | [], _ => false
  | _, [] => false
  | a :: l, b :: m => decide (a < b) || (a == b && lexLt l m)

/-- Inserts into an ascending list. -/
def insertNat (a : Nat) : List Nat → List Nat
  | [] => [a]
  | b :: l => if a ≤ b then a :: b :: l else b :: insertNat a l

def sortNat : List Nat → List Nat
  | [] => []
  | a :: l => insertNat a (sortNat l)

def insertRising (a : Nat) : List Nat → List Nat
  | [] => [a]
  | b :: l => if a < b then a :: b :: l else if a = b then b :: l else b :: insertRising a l

/-- Numbers in rising order, each once. -/
def rising (l : List Nat) : List Nat := l.foldr insertRising []

/-- The first of a list by a number. -/
def firstBy {α : Type} (f : α → Nat) : List α → Option α
  | [] => none
  | a :: l =>
    match firstBy f l with
    | none => some a
    | some b => if f a ≤ f b then some a else some b

/-! ### Bytes (R39, R82: little-endian) -/

/-- The number of a byte string, lowest address first. -/
def leNat : List Byte → Nat
  | [] => 0
  | b :: bs => b.toNat + 256 * leNat bs

/-- The n bytes of a number, lowest first. -/
def toBytes : Nat → Nat → List Byte
  | 0, _ => []
  | n + 1, v => BitVec.ofNat 8 v :: toBytes n (v / 256)

def leWord (bs : List Byte) : Word := BitVec.ofNat 64 (leNat bs)

/-! ### Device memory (DESIGN CHOICE, log 1: a byte that nothing has written reads as zero) -/

/-- What an unlisted address reads as (DESIGN CHOICE, log 1). -/
def unlistedByte : Byte := 0

/-- Memory in its one canonical form: addresses strictly rising, no entry equal to the unlisted byte
(DESIGN CHOICE, log 1). -/
def Memory.wf (m : List Host.Cell) : Bool := twf unlistedByte m

def Memory.read (m : List Host.Cell) (a : Nat) : Byte := tget unlistedByte m a

def Memory.write (m : List Host.Cell) (a : Nat) (b : Byte) : List Host.Cell := tset unlistedByte m a b

/-- Reads n bytes of a byte table from an address on. -/
def readTable (m : Table Byte) (a n : Nat) : List Byte := (List.range n).map (fun i => tget 0 m (a + i))

/-- Writes bytes into a byte table from an address on. -/
def writeTable (m : Table Byte) (a : Nat) : List Byte → Table Byte
  | [] => m
  | b :: bs => writeTable (tset 0 m a b) (a + 1) bs

/-! ### Lanes -/

/-- The lanes of a mask, ascending. -/
def lanesOf (m : Lanes) : List Nat := (List.range 32).filter (fun i => m.getLsbD i)

/-- The mask of a list of lanes. -/
def maskOf : List Nat → Lanes
  | [] => 0
  | i :: l => maskOf l ||| (1#32 <<< i)

/-- The lowest lane of a mask. -/
def lowest (m : Lanes) : Option Nat := (lanesOf m).head?

/-! ### Free values (DESIGN CHOICE, log 10) -/

/-- The i-th free word of this step (DESIGN CHOICE, log 10). -/
def State.free (s : State) (i : Nat) : Word := Config.freeWord (s.freeCtr + i)

/-- The i-th free choice of this step (DESIGN CHOICE, log 10). -/
def State.freeBit (s : State) (i : Nat) : Bool := (s.free i).getLsbD 0

/-- Every step that may look at free values leaves them behind (DESIGN CHOICE, log 10). -/
def State.useFree (s : State) : State := { s with freeCtr := s.freeCtr + 2 ^ 20 }

/-! ### Units of the state -/

def State.wave? (s : State) (wid : Nat) : Option Wave := aget? s.waves wid
def State.setWave (s : State) (wid : Nat) (w : Wave) : State := { s with waves := aset s.waves wid w }
def State.modWave (s : State) (wid : Nat) (f : Wave → Wave) : State := { s with waves := amod s.waves wid f }
def State.wg? (s : State) (k : Nat) : Option Workgroup := aget? s.wgs k
def State.modWg (s : State) (k : Nat) (f : Workgroup → Workgroup) : State := { s with wgs := amod s.wgs k f }
def State.gang? (s : State) (k : Nat) : Option Gang := aget? s.gangs k
def State.modGang (s : State) (k : Nat) (f : Gang → Gang) : State := { s with gangs := amod s.gangs k f }
def State.launch? (s : State) (k : Nat) : Option Launch := aget? s.launches k
def State.modLaunch (s : State) (k : Nat) (f : Launch → Launch) : State :=
  { s with launches := amod s.launches k f }
def State.draw? (s : State) (k : Nat) : Option DrawUnit := aget? s.draws k
def State.modDraw (s : State) (k : Nat) (f : DrawUnit → DrawUnit) : State := { s with draws := amod s.draws k f }
def State.ctx? (s : State) (k : Nat) : Option Ctx := aget? s.ctxs k
def State.modCtx (s : State) (k : Nat) (f : Ctx → Ctx) : State := { s with ctxs := amod s.ctxs k f }
def State.modLantern (s : State) (k : Nat) (f : Lantern → Lantern) : State :=
  { s with lanterns := lmod s.lanterns k f }
def State.modPart (s : State) (k : Nat) (f : Partition → Partition) : State := { s with parts := lmod s.parts k f }
def State.emit (s : State) (o : Out) : State := { s with out := s.out ++ [o] }
/-- Counts one in a telemetry counter. -/
def State.count (s : State) (code : Nat) : State :=
  { s with dev := { s.dev with telemetry := tset 0 s.dev.telemetry code (tget 0 s.dev.telemetry code + 1) } }
/-- The kinds of telemetry events and counts (R441; DESIGN CHOICE, log 17). -/
def evForcedReset : Nat := 0
def evCoreLost : Nat := 1
def evThermal : Nat := 2
def evStopIgnored : Nat := 3
def evHalfWidth : Nat := 4
def evBootFailed : Nat := 5
def evOvertemperature : Nat := 6
def evUnlocked : Nat := 7
def evLaneSpared : Nat := 8
def evRefusedWrite : Nat := 9
def evCxlDown : Nat := 10
def evRowRepaired : Nat := 11
/-- A telemetry event also sends an interrupt message to the management nodes (R441; DESIGN CHOICE, log 17). -/
def State.report (s : State) (code : Nat) : State :=
  let s := s.count code
  { s with out := s.out ++ Out.event code ::
      s.parts.map (fun p => Out.irq p.mgmt (BitVec.ofNat 64 (2 * 2 ^ 56 + p.node % 4096 * 2 ^ 32 + (Config.eventCode code).toNat))) }

def Wave.thread (w : Wave) (t : Nat) : Thread := (w.threads[t]?).getD {}
def Wave.modThread (w : Wave) (t : Nat) (f : Thread → Thread) : Wave := { w with threads := lmod w.threads t f }
/-- Present threads that have not exited. -/
def Wave.live (w : Wave) : Lanes := maskOf ((List.range 32).filter (fun t => (w.thread t).present && !(w.thread t).exited))
def Wave.present (w : Wave) : Lanes := maskOf ((List.range 32).filter (fun t => (w.thread t).present))
/-- Register r of thread t, as the wave keeps it. -/
def Wave.reg (w : Wave) (r t : Nat) : Word := tget 0 w.regs (32 * r + t)
def Wave.setReg (w : Wave) (r t : Nat) (v : Word) : Wave := { w with regs := tset 0 w.regs (32 * r + t) v }
def Wave.tag (w : Wave) (r : Nat) : Tag := tget (.u 0) w.tags r
def Wave.setTag (w : Wave) (r : Nat) (t : Tag) : Wave := { w with tags := tset (.u 0) w.tags r t }
def Wave.cell (w : Wave) (row col : Nat) : BitVec 32 := tget 0 w.acc (256 * row + col)
def Wave.setCell (w : Wave) (row col : Nat) (v : BitVec 32) : Wave :=
  { w with acc := tset 0 w.acc (256 * row + col) v }

/-- The code object that created a wave: its launch's, its draw's or its task's (R304, R372). -/
def State.obj (s : State) (w : Wave) : CodeObj :=
  match w.kind with
  | .draw => ((s.draw? w.draw).map (·.obj)).getD {}
  | _ => (((s.wg? w.wg).bind (fun g => s.gang? g.gang)).bind (fun g => s.launch? g.launch)).map (·.obj) |>.getD {}

/-- The launch of a compute wave. -/
def State.launchOf (s : State) (w : Wave) : Option (Nat × Launch) :=
  if w.kind == .draw then none
  else (s.wg? w.wg).bind (fun g => (s.gang? g.gang).bind (fun a => (s.launch? a.launch).map (fun l => (a.launch, l))))

/-- The wave runs under DET (R101). -/
def State.isDet (s : State) (w : Wave) : Bool := (s.obj w).det

/-- The wave belongs to its context's control workgroup (R35). -/
def State.isControl (s : State) (w : Wave) : Bool :=
  match s.launchOf w with
  | some (_, l) => l.control
  | none => false

/-- A privileged control wave, or a wave of the firmware context (R36). -/
def State.isPriv (s : State) (w : Wave) : Bool :=
  w.ctx == 0 || (s.isControl w && ((s.ctx? w.ctx).map (·.priv)).getD false)

/-- The wave's current allotment (R30): an access wave has 32 registers of its own (R294). -/
def State.allot (s : State) (w : Wave) : Allot :=
  let o := s.obj w
  let a := if ((s.wg? w.wg).map (·.full)).getD true then o.full else o.prologue
  if w.kind == .access then { a with n := 32, g := 32, rows := 0, q := 0 } else a

end Sys2Proof.Machine
end

