-- ==== Sys2Proof/Machine/Compress.lean ====
section
/-!
DEFINITION. The compressed block format (spec/09 R216-R219): the expansion of a 4 KiB block's storage and the fixed
encoder of CPYZ.
-/

namespace Sys2Proof.Machine

/-- The tokens of a mixed record (R217): `n` tokens from `bs`, with the expansion before the group in `prev` and the
group so far in `acc`. -/
def mixedTokens (prev : List Byte) : Nat → List Byte → List Byte → Option (List Byte)
  | 0, bs, acc => if bs.isEmpty && acc.length == 32 then some acc else none
  | _ + 1, [], _ => none
  | n + 1, b :: bs, acc =>
    let v := b.toNat
    if v < 128 then
      let len := v % 16 + 1
      if v / 16 != 0 || bs.length < len then none
      else mixedTokens prev n (bs.drop len) (acc ++ bs.take len)
    else
      let len := v / 4 % 32 + 3
      let off := leNat (bs.take 2)
      let at_ := prev.length + acc.length
      if v % 4 != 0 || bs.length < 2 || 32 < len || off == 0 || 4095 < off || at_ < off || prev.length < at_ - off + len then none
      else mixedTokens prev n (bs.drop 2) (acc ++ (prev.drop (at_ - off)).take len)

/-- One group's 32 bytes from its record, or none when it is malformed (R218). -/
def expandGroup (prev : List Byte) (r : List Byte) : Option (List Byte) :=
  match r with
  | [] => none
  | c :: bs =>
    let v := c.toNat
    match v / 64 with
    | 0 => if v == 0 && bs.length == 32 then some bs else none
    | 1 => if v == 64 && bs.isEmpty then some (List.replicate 32 0) else none
    | 2 =>
      let off := leNat bs
      if v == 128 && bs.length == 2 && off % 32 == 0 && 32 ≤ off && off ≤ prev.length then
        some ((prev.drop (prev.length - off)).take 32)
      else none
    | _ => if v / 16 % 4 == 0 && v % 16 != 0 then mixedTokens prev (v % 16) bs [] else none

/-- The groups from g on: `n` groups to go, the record area's offset, the expansion so far. -/
def expandGroups (st : List Byte) (limit : Nat) : Nat → Nat → Nat → List Byte → List Byte
  | 0, _, _, out => out
  | n + 1, g, off, out =>
    let len := leNat ((st.drop g).take 1)
    let grp :=
      if len == 0 || 33 < len || limit < off + len then none
      else expandGroup out ((st.drop off).take len)
    expandGroups st limit n (g + 1) (off + len) (out ++ grp.getD (List.replicate 32 0))

/-- The 4,096 expanded bytes of a block (R216, R218). -/
def expandBlock (desc : BitVec 16) (st : List Byte) : List Byte :=
  let size := desc.toNat % 256
  if desc.getLsbD 15 || size == 0 then st
  else expandGroups st (min (size * 32) 4096) 128 0 128 []

/-! The encoder (R219) -/

/-- The longest legal match at s + p, with its smallest offset. -/
def longestMatch (blk : List Byte) (s p : Nat) : Option (Nat × Nat) :=
  let here := blk.drop (s + p)
  (List.range (30 - p)).findSome? (fun k =>
    let len := 32 - p - k
    (List.range 4095).findSome? (fun o =>
      let off := o + 1
      if s + p < off || s < s + p - off + len then none
      else if (blk.drop (s + p - off)).take len == here.take len then some (len, off) else none))

def literalToken (lit : List Byte) : List Byte := BitVec.ofNat 8 (lit.length - 1) :: lit

/-- The tokens of a group from position p, with the literal run so far: (token count, bytes). -/
def encodeTokens (blk : List Byte) (s : Nat) : Nat → Nat → List Byte → Nat × List Byte
  | 0, _, lit => if lit.isEmpty then (0, []) else (1, literalToken lit)
  | fuel + 1, p, lit =>
    if 32 ≤ p then (if lit.isEmpty then (0, []) else (1, literalToken lit))
    else
      match longestMatch blk s p with
      | some (len, off) =>
        let tok := BitVec.ofNat 8 (128 + 4 * (len - 3)) :: toBytes 2 off
        let r := encodeTokens blk s fuel (p + len) []
        if lit.isEmpty then (r.1 + 1, tok ++ r.2) else (r.1 + 2, literalToken lit ++ tok ++ r.2)
      | none =>
        let lit := lit ++ (blk.drop (s + p)).take 1
        if lit.length == 16 then
          let r := encodeTokens blk s fuel (p + 1) []
          (r.1 + 1, literalToken lit ++ r.2)
        else encodeTokens blk s fuel (p + 1) lit

def encodeGroup (blk : List Byte) (g : Nat) : List Byte :=
  let s := 32 * g
  let grp := (blk.drop s).take 32
  if grp.all (· == 0) then [0x40]
  else
    match (List.range g).findSome? (fun k =>
        let h := g - 1 - k
        if (blk.drop (32 * h)).take 32 == grp then some h else none) with
    | some h => 0x80 :: toBytes 2 (s - 32 * h)
    | none =>
      let r := encodeTokens blk s 32 0 []
      if 15 < r.1 || 33 ≤ r.2.length + 1 then 0x00 :: grp
      else BitVec.ofNat 8 (0xC0 + r.1) :: r.2

/-- The storage and the descriptor of a block. -/
def encodeBlock (blk : List Byte) : List Byte × BitVec 16 :=
  let recs := (List.range 128).map (encodeGroup blk)
  let total := 128 + (recs.map List.length).sum
  let units := (total + 31) / 32
  if 4064 < units * 32 then (blk, 0x8080)
  else
    let body := recs.map (fun r => BitVec.ofNat 8 r.length) ++ recs.flatten
    (body ++ List.replicate (4096 - total) 0, BitVec.ofNat 16 units)

end Sys2Proof.Machine
end

