-- ==== Sys2Proof/Machine/Memory.lean ====
section
/-!
DEFINITION. Pointers, page tables, translation buffers and the bytes behind every address space (spec/02 R28, R29,
spec/18 R346-R350, spec/25 R444).
-/

namespace Sys2Proof.Machine

/-! ### Pointers (R28, R118) -/

def spaceOf (p : Word) : Nat := p.toNat / 2 ^ 60

/-- Width of the address field of a space; a reserved space adds over the whole word (R118). -/
def addrBits (sp : Nat) : Nat :=
  if sp = 0 ∨ sp = 4 ∨ sp = 5 then 57
  else if sp = 1 ∨ sp = 2 then 20
  else if sp = 3 then 48
  else if sp = 15 then 60
  else 64

/-- addr_add of R188: adds within the space's address field. -/
def addrAdd (p x : Word) : Word :=
  let m := 2 ^ addrBits (spaceOf p)
  BitVec.ofNat 64 (p.toNat / m * m + (p.toNat + x.toNat) % m)

/-- Bits below the address field. -/
def vaOf (p : Word) : Nat := p.toNat % 2 ^ 57

/-! ### The physical map (R350, R413, R439) -/

/-- The partition's memory: its dies' HBM4E and its CXL ranges. -/
def Partition.hasPa (p : Partition) (pa : Nat) : Bool :=
  p.dies.any (fun d => decide (d * Config.dieBytes ≤ pa) && decide (pa < (d + 1) * Config.dieBytes)) ||
  p.cxl.any (fun r => decide (r.1 ≤ pa) && decide (pa < r.1 + r.2))

/-- The partition of an address space and the root of its walks: a context's, or a pending one (R345, R445). -/
def State.spaceOwner (s : State) (ctx : Nat) : Option (Nat × Nat) :=
  match s.ctx? ctx with
  | some c => some (c.part, c.walkroot.toNat)
  | none => (aget? s.pending ctx).map (fun p => (p.part, p.root.toNat))

/-- Memory that a context may name: its partition's, or every partition's for the firmware context, which belongs to
none (R345; DEDUCED, log 7). -/
def State.ctxHasPa (s : State) (ctx pa : Nat) : Bool :=
  if ctx == 0 then s.parts.any (·.hasPa pa)
  else match ((s.spaceOwner ctx).bind (fun x => s.parts[x.1]?)) with
    | some p => p.hasPa pa
    | none => false

/-- The frame that serves a physical address, or none where the address is reserved: a redirection's destination
under its own name (R413), a CXL range whose link has failed (R439). -/
def State.served (s : State) (pa : Nat) : Option Nat :=
  let f := pa / 65536
  if s.redirect.any (fun e => e.2 == f + 1) then none
  else if s.dev.cxlDown.any (fun r => decide (r.1 ≤ pa) && decide (pa < r.1 + r.2)) then none
  else
    let d := tget 0 s.redirect f
    some (if d = 0 then pa else (d - 1) * 65536 + pa % 65536)

def State.readPa (s : State) (pa n : Nat) : List Byte :=
  (List.range n).map (fun i => Memory.read s.mem ((s.served (pa + i)).getD (pa + i)))

/-- Writes bytes from an address on, each where it is served. -/
def writeCells (place : Nat → Nat) (m : List Host.Cell) (a : Nat) : List Byte → List Host.Cell
  | [] => m
  | b :: bs => writeCells place (Memory.write m (place a) b) (a + 1) bs

/-- Where a physical address is served, its own place where it is reserved. -/
def State.place? (s : State) (pa : Nat) : Nat := (s.served pa).getD pa

/-- The 64-byte blocks of a range. -/
def blocksOf (a n : Nat) : List Nat := if n = 0 then [] else (List.range ((a + n + 63) / 64 - a / 64)).map (a / 64 + ·)

/-- Marks blocks as written under the present keys. -/
def keyBlocks (t : Table Bool) (l : List Nat) : Table Bool := l.foldl (fun t k => if tget false t k then t else tset false t k true) t

/-- Writes bytes at a physical address; a block that is written whole is no longer uncorrectable (R412)
(DEDUCED, log 95). -/
def State.writePa (s : State) (pa : Nat) (bs : List Byte) : State :=
  let whole := (List.range (bs.length / 64)).filterMap (fun i =>
    let k := (pa + 63) / 64 + i
    if (k + 1) * 64 ≤ pa + bs.length then some (s.place? (64 * k) / 64) else none)
  { s with
    mem := writeCells s.place? s.mem pa bs
    bad := s.bad.filter (fun b => !whole.contains b)
    keyed := keyBlocks s.keyed ((blocksOf pa bs.length).map (fun k => s.place? (64 * k) / 64)) }

/-! ### Writes that other cores have not seen (R171, R175-R178; DESIGN CHOICE, log 91) -/

/-- A core has seen a write: itself, or through its lantern. -/
def Hidden.seenBy (h : Hidden) (core : Nat) : Bool := h.seen.contains core || h.seen.contains (384 + core / 24)

/-- Marks hidden writes as seen by a core. -/
def State.sees (s : State) (core : Nat) (p : Hidden → Bool) : State :=
  { s with hidden := s.hidden.map (fun h => if p h && !h.seenBy core then { h with seen := h.seen ++ [core] } else h) }

/-- A wave of another core runs, which need not see a write at once. -/
def State.othersRun (s : State) (core : Nat) : Bool :=
  s.waves.any (fun e => e.2.core != core && !e.2.ended && e.2.live != 0)

def wordAt (m : List Host.Cell) (k : Nat) : Word := leWord ((List.range 8).map (fun i => Memory.read m (8 * k + i)))

/-- The words of eight bytes that an access at a physical address touches, by place. -/
def State.placeWords (s : State) (pa n : Nat) : List Nat :=
  ((List.range ((pa + n + 7) / 8 - pa / 8)).map (fun i => s.place? (8 * (pa / 8 + i)) / 8)).eraseDups

/-- Keeps the words that a write is about to replace, for the observers that need not see it yet. -/
def State.hide (s : State) (pa n : Nat) (seen : List Nat) (copy : Option Nat) (far : Bool) : State :=
  { s with hidden := s.hidden ++ (s.placeWords pa n).map (fun k => { word := k, old := wordAt s.mem k, seen, copy, far }) }

/-- The same for bytes at several places, as a node's write of them needs. -/
def State.hideAll (s : State) (places : List Nat) : State :=
  { s with hidden := s.hidden ++ ((places.map (· / 8)).eraseDups).map (fun k =>
      { word := k, old := wordAt s.mem k, seen := [], copy := none, far := true }) }

/-- A core writes: it has seen every earlier write there (R171), and other cores need not see its own. -/
def State.hideFrom (s : State) (core pa n : Nat) : State :=
  let s := s.sees core (fun h => (s.placeWords pa n).contains h.word)
  if s.othersRun core then s.hide pa n [core] none false else s

/-- A release of a core at a scope: what it has seen is performed for every agent of its instance (R172, R176, R177). -/
def State.push (s : State) (core scope : Nat) : State :=
  if scope ≤ 2 then s
  else if scope = 3 then
    { s with hidden := s.hidden.map (fun h => if h.seenBy core then { h with seen := h.seen ++ [384 + core / 24] } else h) }
  else { s with hidden := s.hidden.filter (fun h => !h.seenBy core) }

/-- An acquire at system scope shows a core what nodes have written (R172, R181). -/
def State.acquire (s : State) (core scope : Nat) : State := if scope = 5 then s.sees core (·.far) else s

/-- The writes to a word that a core has not seen; after a dependency, those of nodes count as seen (R175). -/
def State.unseen (s : State) (core : Nat) (dep : Bool) (k : Nat) : List Hidden :=
  s.hidden.filter (fun h => h.word == k && !h.seenBy core && !(dep && h.far))

/-- How many of a word's unseen writes a core's read passes over: a free choice (R178). -/
def State.passed (s : State) (core : Nat) (dep : Bool) (k free : Nat) : Nat :=
  let l := s.unseen core dep k
  ((List.range l.length).find? (fun i => s.freeBit (free + min i 7))).getD l.length

/-- The bytes that a core's load reads at a physical address: of each word the newest value or an older one. -/
def State.viewPa (s : State) (core : Nat) (dep : Bool) (pa n free : Nat) : List Byte :=
  (List.range n).map (fun i =>
    let q := s.place? (pa + i)
    let k := q / 8
    let l := s.unseen core dep k
    match l[s.passed core dep k (free + 8 * (i / 8 % 8))]? with
    | some h => h.old.extractLsb' (8 * (q % 8)) 8
    | none => Memory.read s.mem q)

/-- After a read, the core has seen what stood before it in coherence (R171). -/
def State.afterView (s : State) (core : Nat) (dep : Bool) (pa n free : Nat) : State :=
  let ks := s.placeWords pa n
  (List.range ks.length).foldl (fun s i =>
    let k := ks.getD i 0
    let l := (s.unseen core dep k).take (s.passed core dep k (free + 8 * (i % 8)))
    s.sees core (fun h => l.contains h)) s

/-- Some byte of the range lies in an uncorrectable block (DEDUCED, log 95). -/
def State.badPa (s : State) (pa n : Nat) : Bool :=
  let a := (s.served pa).getD pa
  s.bad.any (fun b => decide (b * 64 < a + n) && decide (a < (b + 1) * 64))

/-! ### Walks (R346-R348) -/

/-- The rights and the frame that a walk finds. -/
structure Mapping where
  pa   : Nat
  size : Nat
  r    : Bool
  w    : Bool
  x    : Bool
deriving DecidableEq, Repr

/-- A fault of one access, before it is known which lanes meet it: the check's place in R367's order (0 space,
1 alignment, 2 bounds, 3 translation, 4 permission), its cause, whether the KIND is a walk entry read, the malformed
mark and the walk level (R371, R348). -/
structure Flt where
  stage : Nat
  cause : Nat
  walkEntry : Bool := false
  malformed : Bool := false
  level : Nat := 0
deriving DecidableEq, Repr

/-- Low VA bit that a level indexes, and the number of its entries. -/
def levelShift (lvl : Nat) : Nat := [48, 39, 30, 21, 16].getD lvl 16
def levelEntries (lvl : Nat) : Nat := if lvl = 4 then 32 else 512

/-- A page table can be read at an address: in the context's memory, and not reserved (R348, R413). -/
def State.tableAt (s : State) (ctx pa : Nat) : Bool := s.ctxHasPa ctx pa && (s.served pa).isSome

/-- The walk from a table of a level: `fuel` levels to go. A leaf larger than the partition's range at its frame gives
an access outside that range cause 0x05 (R348, R354; DEDUCED, log 78). -/
def walkFrom (s : State) (ctx va : Nat) : Nat → Nat → Nat → Bool × Bool × Bool → Except Flt Mapping
  | 0, _, _, _ => .error { stage := 3, cause := 4 }
  | fuel + 1, lvl, table, (r, w, x) =>
    let ea := table + 8 * (va / 2 ^ levelShift lvl % levelEntries lvl)
    let e := leNat (s.readPa ea 8)
    let addr := e / 256 % 2 ^ 44 * 256
    let leaf := e / 2 % 2 == 1
    let er := e / 4 % 2 == 1
    let ew := e / 8 % 2 == 1
    let ex := e / 16 % 2 == 1
    let size := 2 ^ levelShift lvl
    let align := if leaf then size else if lvl + 1 = 4 then 256 else 4096
    if e % 2 == 0 then .error { stage := 3, cause := 4 }
    else if e / 32 % 8 != 0 || (leaf && decide (lvl ≤ 1)) || (!leaf && lvl == 4) || (ew && !er) || addr % align != 0 then
      .error { stage := 3, cause := 4, malformed := true, level := lvl }
    else if leaf then
      if s.ctxHasPa ctx (addr + va % size) then .ok { pa := addr + va % size, size, r := r && er, w := w && ew, x := x && ex }
      else .error { stage := 3, cause := 5 }
    else if !s.tableAt ctx addr then .error { stage := 3, cause := 5, walkEntry := true, level := lvl }
    else walkFrom s ctx va fuel (lvl + 1) addr (r && er, w && ew, x && ex)

/-- A fresh walk of a context's tables for an address. -/
def State.walk (s : State) (ctx va : Nat) : Except Flt Mapping :=
  match s.spaceOwner ctx with
  | none => .error { stage := 3, cause := 4 }
  | some (_, root) =>
    if !s.tableAt ctx root then .error { stage := 3, cause := 5, walkEntry := true }
    else walkFrom s ctx va 5 0 root (true, true, true)

/-- A held translation for an address (R349). -/
def State.tlbHit (s : State) (ctx va : Nat) : Option Mapping :=
  (s.tlb.find? (fun t => t.asid == ctx && decide (t.va ≤ va) && decide (va < t.va + t.size))).map
    (fun t => { pa := t.pa + (va - t.va), size := t.size, r := t.r, w := t.w, x := t.x })

/-- A held translation reaches an address only inside the context's memory (R348, R350). -/
def State.inMemory (s : State) (ctx : Nat) (m : Mapping) : Except Flt Mapping :=
  if s.ctxHasPa ctx m.pa then .ok m else .error { stage := 3, cause := 5 }

/-- The translation of an address: a held one that still agrees with the tables, or the old or the new one, which the
spec leaves open until a TLBI (R349, DESIGN CHOICE, log 11). -/
def State.translate (s : State) (ctx va free : Nat) : Except Flt Mapping :=
  match s.tlbHit ctx va with
  | none => s.walk ctx va
  | some m =>
    match s.walk ctx va with
    | .ok m' => if m' = m then .ok m else if s.freeBit free then s.inMemory ctx m else .ok m'
    | .error f => if s.freeBit free then s.inMemory ctx m else .error f

/-- The translation buffers keep what a walk found (R349: never an invalid entry; DESIGN CHOICE, log 11). -/
def State.fillTlb (s : State) (ctx va : Nat) : State :=
  match s.tlbHit ctx va with
  | some _ => s
  | none =>
    match s.walk ctx va with
    | .error _ => s
    | .ok m =>
      let off := va % m.size
      { s with tlb := s.tlb ++ [{ asid := ctx, va := va - off, size := m.size, pa := m.pa - off,
                                   r := m.r, w := m.w, x := m.x }] }

/-! ### Spaces (R28, R29) -/

/-- What an access needs: reading, writing, fetching, and the KIND that sys.tinfo names (R371). -/
structure Acc where
  rd   : Bool
  wr   : Bool
  kind : Nat
deriving DecidableEq, Repr

def accLoad : Acc := { rd := true, wr := false, kind := 0 }
def accStore : Acc := { rd := false, wr := true, kind := 1 }
def accAtomic : Acc := { rd := true, wr := true, kind := 2 }
def accEngine : Acc := { rd := true, wr := false, kind := 4 }
def accCopyFrom : Acc := { rd := true, wr := false, kind := 5 }
def accCopyTo : Acc := { rd := false, wr := true, kind := 5 }

/-- The bytes of a workgroup's scratchpad window that loads and stores reach: its granules less the overflow areas of
its waves at the top, and nothing where those leave nothing, which no check forbids (R28, R30; DESIGN CHOICE,
log 104). -/
def State.window (s : State) (g : Workgroup) : Nat :=
  let o := match (s.gang? g.gang).bind (fun a => s.launch? a.launch) with
    | some l => l.obj
    | none =>
      match (s.gang? g.gang).bind (fun a => s.draw? a.launch) with
      | some d => d.obj
      | none => {}
  let a := if g.full then o.full else o.prologue
  a.spad * 256 - (a.n - a.g) * 256 * g.nwave

/-- The workgroup of a member of a wave's gang. -/
def State.memberWg (s : State) (w : Wave) (m : Nat) : Option Nat :=
  (s.wg? w.wg).bind (fun g => (s.gang? g.gang).bind (fun a => a.members[m]?))

/-- The nodes of this S9's own endpoints. -/
def State.partOfNode (s : State) (n : Nat) : Option Nat := s.parts.findIdx? (fun p => p.node == n)

/-- The address lies in the spill area of a context whose draws run: its bytes are the S9's (R273)
(DESIGN CHOICE, log 13). -/
def State.inSpill (s : State) (ctx va : Nat) : Bool :=
  match s.ctx? ctx with
  | none => false
  | some c =>
    let base := vaOf c.spillbase
    decide (base ≤ va) && decide (va < base + c.spillsize.toNat % 2 ^ 40) && s.draws.any (fun e => e.2.ctx == ctx && !e.2.gone)

/-- The byte lies in the save area of a unit that has not been restored (R380; DESIGN CHOICE, log 13). -/
def State.inSaveArea (s : State) (pa : Nat) : Bool :=
  s.freezes.any (fun e => decide (e.2.area ≤ pa) && decide (pa < e.2.area + e.2.size))

/-- Resolves one lane's access of `size` bytes: the first check that fails, or the location. `spaces` lists the
spaces that the instruction accepts; `align` is the alignment it asks for. A store or an atomic through space 0x5 takes the
cause that R29 names, and so does a copy's destination, but space 0xF is outside a copy's spaces (R190, R211, R360). -/
def State.resolve (s : State) (w : Wave) (acc : Acc) (spaces : List Nat) (size align : Nat) (p : Word)
    (free : Nat) : Except Flt Loc :=
  let sp := spaceOf p
  let va := vaOf p
  let gl := sp == 0 || sp == 4 || sp == 5
  if sp == 5 && acc.wr && decide (sp ∉ spaces) && spaces.contains 0 && (acc.kind != 5 || spaces.contains 3) then
    .error { stage := 0, cause := 5 }
  else if sp == 15 && !s.isPriv w && (acc.kind != 5 || spaces.contains 15) then .error { stage := 0, cause := 2 }
  else if decide (6 ≤ sp) && decide (sp ≤ 14) || decide (sp ∉ spaces) then .error { stage := 0, cause := 6 }
  else if gl && decide (5 ≤ p.toNat / 2 ^ 57 % 8) then .error { stage := 0, cause := 6 }
  else if sp == 1 && p.toNat / 2 ^ 20 % 2 ^ 40 != 0 then .error { stage := 0, cause := 6 }
  else if sp == 2 && p.toNat / 2 ^ 25 % 2 ^ 35 != 0 then .error { stage := 0, cause := 6 }
  else if sp == 2 && (s.memberWg w (p.toNat / 2 ^ 20 % 32)).isNone then .error { stage := 0, cause := 6 }
  else if p.toNat % align != 0 then .error { stage := 1, cause := 3 }
  else if sp == 1 || sp == 2 then
    let key := if sp == 1 then w.wg else (s.memberWg w (p.toNat / 2 ^ 20 % 32)).getD w.wg
    let off := p.toNat % 2 ^ 20
    match s.wg? key with
    | none => .error { stage := 2, cause := 5 }
    | some g => if s.window g < off + size then .error { stage := 2, cause := 5 } else .ok (.spad key off)
  else if sp == 3 then
    let n := p.toNat / 2 ^ 48 % 4096
    if !((s.ctx? w.ctx).map (fun c => c.nodes.contains n)).getD false then .error { stage := 4, cause := 5 }
    else if decide (0x800 ≤ n) && acc.rd then .error { stage := 4, cause := 5 }
    else .ok (.node n (p.toNat % 2 ^ 48))
  else if sp == 15 then
    if p.toNat / 2 ^ 52 % 256 != 0 || !s.ctxHasPa w.ctx (p.toNat % 2 ^ 52) || (s.served (p.toNat % 2 ^ 52)).isNone then
      .error { stage := 4, cause := 5 }
    else if s.inSaveArea (p.toNat % 2 ^ 52) then .ok (.closed (p.toNat % 2 ^ 52) (2 ^ 57))
    else .ok (.mem (p.toNat % 2 ^ 52))
  else
    match s.translate w.ctx va free with
    | .error f => .error f
    | .ok m =>
      if (acc.rd && !m.r) || (acc.wr && !m.w) then .error { stage := 4, cause := 5 }
      else if (s.served m.pa).isNone then .error { stage := 4, cause := 5 }
      else if s.inSpill w.ctx va || s.inSaveArea m.pa then .ok (.closed m.pa va)
      else if sp == 5 then .ok (.comp m.pa) else .ok (.mem m.pa)

/-! ### Bytes behind locations -/

/-- A window of this S9 that serves an access from a node at an address of an endpoint (R444). -/
def State.windowFor (s : State) (part src a n : Nat) (rd wr : Bool) : Option Win :=
  s.windows.find? (fun v => v.part == part && v.ctx.isSome && v.nodes.contains src && decide (v.nbase ≤ a) &&
    decide (a + n ≤ v.nbase + v.len) && (if rd && wr then v.atomics else if wr then v.writes else v.reads))

/-- The physical address that an access through an inbound memory window reaches, or none where it is refused. -/
def State.inbound (s : State) (part src a n : Nat) (rd wr : Bool) : Option Nat :=
  match s.windowFor part src a n rd wr with
  | none => none
  | some v =>
    match v.ctx with
    | none => none
    | some c =>
      match s.walk c (v.vbase + (a - v.nbase)) with
      | .error _ => none
      | .ok m => if (rd && !m.r) || (wr && !m.w) || (s.served m.pa).isNone then none else some m.pa

/-- The context and the virtual address that such an access names. -/
def State.inboundVa (s : State) (part src a n : Nat) (rd wr : Bool) : Option (Nat × Nat) :=
  (s.windowFor part src a n rd wr).bind (fun v => v.ctx.map (fun c => (c, v.vbase + (a - v.nbase))))

/-- Such an access falls into a spill area whose bytes are the S9's (R273). -/
def State.inboundSpill (s : State) (part src a n : Nat) (rd wr : Bool) : Bool :=
  (s.inboundVa part src a n rd wr).any (fun x => s.inSpill x.1 x.2)

/-- The node number of the endpoint of a context's partition. -/
def State.nodeOfCtx (s : State) (ctx : Nat) : Nat :=
  (((s.ctx? ctx).bind (fun c => s.parts[c.part]?)).map (·.node)).getD 0

/-- A store into the spill area while draws run: every later HREAD of a spilled record is unspecified (R273). -/
def State.spoil (s : State) (ctx va : Nat) : State :=
  if s.inSpill ctx va then s.modCtx ctx (fun c => { c with spoilt := true }) else s

/-- A store into the save area of a unit: what is restored from it is unspecified (R380). -/
def State.spoilSave (s : State) (pa n : Nat) : State :=
  { s with freezes := s.freezes.map (fun e =>
      if decide (e.2.area < pa + n) && decide (pa < e.2.area + e.2.size) then (e.1, { e.2 with spoiled := true }) else e) }

/-- The bytes that a node's access reads behind a window of this S9: free where they are the S9's own (R273, R380;
DESIGN CHOICE, log 13). -/
def State.nodeRead (s : State) (spill : Bool) (pa n free : Nat) : List Byte :=
  if s.inSaveArea pa || spill then (List.range n).map (fun i => (s.free (free + i)).truncate 8) else s.readPa pa n

/-- What a node's access writes behind a window of this S9. -/
def State.nodeWrite (s : State) (va : Option (Nat × Nat)) (pa : Nat) (bs : List Byte) : State :=
  let s := (s.writePa pa bs).spoilSave pa bs.length
  match va with
  | some (c, va) => s.spoil c va
  | none => s

/-- The bytes at a location, as context `ctx` reads them; none where a node refuses. What a node outside this S9
returns is free (DEDUCED, log 15; DESIGN CHOICE, log 13). -/
def State.readLoc (s : State) (ctx : Nat) (l : Loc) (n free : Nat) : Option (List Byte) :=
  match l with
  | .mem pa => some (s.readPa pa n)
  | .closed _ _ => some ((List.range n).map (fun i => (s.free (free + i)).truncate 8))
  | .spad k off => some (readTable (((s.wg? k).map (·.spad)).getD []) off n)
  | .comp pa =>
    let b := pa / 4096 * 4096
    some (((expandBlock (tget 0 s.descs (pa / 4096)) (s.readPa b 4096)).drop (pa % 4096)).take n)
  | .node k a =>
    match s.partOfNode k with
    | some p => (s.inbound p (s.nodeOfCtx ctx) a n true false).map (fun pa =>
        s.nodeRead (s.inboundSpill p (s.nodeOfCtx ctx) a n true false) pa n free)
    | none => some ((List.range n).map (fun i => (s.free (free + i)).truncate 8))

/-- Writes bytes at a location; none where a node refuses (DEDUCED, log 15). -/
def State.writeLoc (s : State) (ctx : Nat) (l : Loc) (bs : List Byte) : Option State :=
  match l with
  | .mem pa => some (s.writePa pa bs)
  | .closed pa va => some (((s.writePa pa bs).spoil ctx va).spoilSave pa bs.length)
  | .spad k off => some (s.modWg k (fun g => { g with spad := writeTable g.spad off bs }))
  | .comp _ => none
  | .node k a =>
    match s.partOfNode k with
    | some p => (s.inbound p (s.nodeOfCtx ctx) a bs.length false true).map (fun pa =>
        s.nodeWrite (s.inboundVa p (s.nodeOfCtx ctx) a bs.length false true) pa bs)
    | none => some (s.emit (.store k a bs))

/-- The location holds uncorrectable data (DEDUCED, log 95). -/
def State.badLoc (s : State) (l : Loc) (n : Nat) : Bool :=
  match l with
  | .mem pa => s.badPa pa n
  | .comp pa => s.badPa (pa / 4096 * 4096) 4096
  | _ => false

/-- The physical address of a byte of device memory. -/
def Loc.pa? : Loc → Option Nat
  | .mem pa => some pa
  | .closed pa _ => some pa
  | _ => none

/-- Blocks that writes of some ranges cover whole are no longer uncorrectable (R412; DEDUCED, log 95). -/
def State.cure (s : State) (l : List (Nat × Nat)) : State :=
  { s with bad := s.bad.filter (fun b => !(List.range 64).all (fun i =>
      l.any (fun x => decide (s.place? x.1 ≤ 64 * b + i) && decide (64 * b + i < s.place? x.1 + x.2)))) }

/-- The aligned words of eight bytes of an access to device memory or scratchpad. -/
def Loc.wordsOf (l : Loc) (n : Nat) : List Loc :=
  let ks := fun (a : Nat) => (List.range ((a + n + 7) / 8 - a / 8)).map (fun i => 8 * (a / 8 + i))
  match l with
  | .mem pa => (ks pa).map .mem
  | .spad g off => (ks off).map (.spad g)
  | _ => []

/-- The location n bytes further on. -/
def Loc.plus : Loc → Nat → Loc
  | .mem pa, n => .mem (pa + n)
  | .spad k o, n => .spad k (o + n)
  | .node k a, n => .node k (a + n)
  | .comp pa, n => .comp (pa + n)
  | .closed pa va, n => .closed (pa + n) (va + n)

end Sys2Proof.Machine
end

