-- ==== Sys2Proof/Machine/Footprint.lean ====
section
/-!
DEFINITION. What each instruction names: its source operands with the type that expands a constant (R47), the
registers and condition registers that it reads and writes, its register groups (R51), its fixed latency (R55) and
its class of Mitten entry (R190, R301).
-/

namespace Sys2Proof.Machine

def hdrOf : Instr → Hdr
  | i => match encode i with
    | w :: _ => decHdr w
    | [] => { stall := 0, rate := 0, y := false }

def guardOf : Instr → Guard
  | i => match encode i with
    | w :: _ => match decGuard (w.extractLsb' 0 4) with
      | .ok g => g
      | .error _ => .always
    | [] => .always

/-- Words of an instruction. -/
def lenOf (i : Instr) : Nat := (encode i).length

/-- OPC. -/
def opcode (i : Instr) : Nat := match encode i with
  | w :: _ => (opcOf w).toNat
  | [] => 0

def s1 (o : OpA) : List (Src × Ty) := [(o.sa, o.ty)]
def s2 (o : OpA) : List (Src × Ty) := [(o.sa, o.ty), (o.sb, o.ty)]
def s3 (o : OpA) : List (Src × Ty) := [(o.sa, o.ty), (o.sb, o.ty), (o.sc, o.ty)]
def m1 (o : OpM) : List (Src × Ty) := [(o.sa, .i64)]
def m2 (o : OpM) : List (Src × Ty) := [(o.sa, .i64), (o.sb, .i64)]
def c1 (o : OpC) : List (Src × Ty) := [(o.sa, .i64)]

/-- The signed integer type of a type's width: FSCALE reads SB so (R47). -/
def signedOf (t : Ty) : Ty := if t.width = 64 then .i64 else if t.width = 32 then .i32x2 else .i16x4

/-- The source operands in the order SA, SB, SC, each with the type that expands a constant: TYPE, or i64 in formats
without one (R47; DEDUCED, log 79). A field that names a register group, a mask register or nothing is
not here. -/
def srcsOf : Instr → List (Src × Ty)
  | .mov o | .iabs o | .ineg o | .popc o | .clz o | .brev o | .fsqrt o | .frcp o | .frsq o | .fexp2 o | .flog2 o
  | .fsin o | .fcos o | .fscs o | .ftanh o | .frnd o | .fclass o | .vote o => s1 o
  | .iaddi o => [(o.sa, .i64)]
  | .iadd o | .isub o | .imul o | .imulh o | .imin o | .imax o | .and o | .or o | .xor o | .andn o | .shl o | .shr o
  | .icmp o | .sel o | .pspace o | .mkaff o | .fadd o | .fsub o | .fmul o | .fmin o | .fmax o | .fcmp o | .fdiv o
  | .fsum o | .decb o | .rand o | .amax o | .peers o | .wred o | .wscan o => s2 o
  | .fscale o => [(o.sa, o.ty), (o.sb, signedOf o.ty)]
  | .imad o | .bfe o | .bfi o | .lea o | .ffma o | .flerp o | .fclamp o | .unpk o | .swz o | .vqdec o | .shfl o
  | .shflx o => s3 o
  | .idot4 o => [(o.sa, o.ty), (o.sb, o.ty), (o.sc, if o.ty == .i8x8 then .i32x2 else .n32x2)]
  | .fdot2 o => [(o.sa, o.ty), (o.sb, o.ty), (o.sc, .f32x2)]
  | .cvt o | .cvti o => [(o.sa, o.ty)]
  | .cvtEf o => [(o.sa, o.ty), (o.sc, .f32x2)]
  | .qnt o => [(o.sb, o.ty), (o.sc, o.ty)]
  | .ld o | .st o | .ldq o | .pref o | .atom o | .atomc o | .chain o | .waitm o | .stt o | .icinv o => m2 o
  | .vwait o => if o.off == 0 then m2 o else m1 o
  | .ldt o | .red o | .faddo o | .redb o | .pubv o | .snuff o | .cctl o => m1 o
  | .brx o | .callt o | .ret o | .kset o | .bar o | .waitp o | .launch o | .draw o | .framee o | .sleep o => c1 o
  | .mma o | .mperm o =>
    if mmAsrc o.w1 == 0 then [(o.a.sb, .i64)] else [(o.a.sa, .i64), (o.a.sb, .i64), (o.a.sc, .i64)]
  | .mmag o => [(o.a.sa, .i64), (o.a.sb, .i64), (o.a.sc, .i64)]
  | .mmar o => [(o.a.sa, .i64), (o.a.sb, .i64), (o.a.sc, .i64)].drop (if mmAsrc o.w1 == 0 then 1 else 0)
  | .maskt o => [(o.a.sa, .i64), (o.a.sb, .i64)]
  | .cpy o | .cpym o | .cpyg o | .cpyz o | .kvcmt o => s3 o.a
  | .qpush o | .qpop o | .qctl o | .hrel o | .tdec o | .rspawn o => s1 o
  | .tspawn o => if field o.w1 63 63 == 1 then s3 o.a else s2 o.a
  | .tdep o => s2 o
  | .tdepWatch o | .ttime o => s3 o
  | .hread o => s1 o
  | .tex o => s3 o.a
  | .boxt o => [(o.sb, o.ty)]
  | .trit o => [(o.a.sb, o.a.ty)]
  | .sysw o | .syswHoldquota o | .syswSpillbase o | .syswSpillsize o | .syswFqbase o | .syswFqctl o
  | .syswTrapbase o | .syswPtroot o | .syswFflags o => [(o.sa, .i64)]
  | .tlbiVa o => s2 o
  | .tlbiAsid o => [(o.sb, o.ty)]
  | .wipe o | .prioXchg o | .prioSet o | .thaw o => s2 o
  | .frz o | .jrnl o | .emit o => s3 o
  | .jtrunc o => s1 o
  | .jpart o => if o.mod == 0 then s2 o else []
  | _ => []

def srcRegs (l : List (Src × Ty)) : List Nat :=
  l.filterMap (fun e => match e.1 with | .reg r => some r.toNat | _ => none)

def groupAt (s : Src) (k : Nat) : List Nat :=
  match s with
  | .reg r => (List.range k).map (fun i => r.toNat + i)
  | _ => []

/-- Source register groups (R51): A of a matrix operation, ACLD's source, PACK, QNT, rays, colours, store data. -/
def srcGroups : Instr → List (List Nat)
  | .pack o => [groupAt o.sa 4]
  | .qnt o => [groupAt o.sa (if o.ty == .f32x2 then 4 else 2)]
  | .mma o | .mperm o | .mmar o =>
    if mmAsrc o.w1 == 0 then [groupAt o.a.sa (mmSteps o.w1 * (mmM o.w1 / 4))] else []
  | .acld o => [groupAt o.a.sa (acGroup o.w1)]
  | .boxt o => [groupAt o.sa 4]
  | .trit o => [groupAt o.a.sa 4]
  | .pxout o => [groupAt o.sa 2]
  | .st o => [groupAt (.reg o.d) o.size.regs]
  | .stt o => [groupAt (.reg o.d) 16]
  | _ => []

/-- Registers read beside sources and groups: D where it is data or is read before it is written, and the side
register pair (R154). -/
def extraReads : Instr → List Nat
  | .bfi o => [o.d.toNat]
  | .qnt o => [o.d.toNat]
  | .cvt o | .cvti o | .cvtEf o => if o.ty.nsub < o.dst.nsub then [o.d.toNat] else []
  | .atomc o | .red o | .faddo o | .redb o => [o.d.toNat]
  | .join o => [o.d.toNat]
  | .mma o | .mmag o | .mmar o =>
    (if mmScale o.w1 == 3 then [o.a.d.toNat] else []) ++
    (if mmFmtA o.w1 == 0x12 || mmFmtB o.w1 == 0x12 then [o.a.d.toNat + 1] else [])
  | _ => []

/-- Width of the parts of a register that is read beside the sources: what a result in flight may leave old or new one by
one (R57). Store data is read by bytes. -/
def sideWidth : Instr → Nat
  | .pack o | .qnt o | .boxt o | .pxout o => o.ty.width
  | .trit o => o.a.ty.width
  | .st _ | .stt _ => 8
  | _ => 64

/-- Every register that the instruction reads. -/
def readRegs (i : Instr) : List Nat := srcRegs (srcsOf i) ++ (srcGroups i).flatten ++ extraReads i

/-- The destination groups: a group of one register is a list of one. -/
def dstGroups : Instr → List (List Nat)
  | .mov o | .iadd o | .isub o | .imul o | .imulh o | .imad o | .imin o | .imax o | .iabs o | .ineg o | .and o | .or o
  | .xor o | .andn o | .shl o | .shr o | .bfe o | .bfi o | .popc o | .clz o | .brev o | .sel o | .lea o | .pspace o
  | .mkaff o | .idot4 o | .fadd o | .fsub o | .fmul o | .ffma o | .fmin o | .fmax o | .fdiv o | .fsqrt o | .frcp o
  | .frsq o | .fexp2 o | .flog2 o | .fsin o | .fcos o | .ftanh o | .frnd o | .fdot2 o | .fclamp o | .fclass o
  | .fscale o | .fsum o | .flerp o | .pack o | .unpk o | .swz o | .decb o | .vqdec o | .qnt o | .rand o | .amax o
  | .shfl o | .shflx o | .vote o | .peers o | .wred o | .wscan o | .hread o | .interp o | .boxt o | .rspawn o
  | .tdep o | .tdepWatch o | .tdec o | .ttime o | .wipe o | .prioXchg o | .prioSet o | .frz o | .thaw o | .jrnl o
  | .jtrunc o | .jpart o => [[o.d.toNat]]
  | .fscs o => [[o.d.toNat, o.d.toNat + 1]]
  | .li o | .iaddi o | .sysr o => [[o.d.toNat]]
  | .liw o => [[o.d.toNat]]
  | .cvt o | .cvti o => [[o.d.toNat]]
  | .cvtEf o => [[o.d.toNat], srcRegs [(o.sc, .f32x2)]]
  | .ld o => [groupAt (.reg o.d) o.size.regs]
  | .atom o | .atomc o | .chain o | .waitm o | .pubv o | .snuff o | .vwait o => [[o.d.toNat]]
  | .ldt o => [groupAt (.reg o.d) 16, groupAt o.sb 1]
  | .call o | .callt o | .launch o | .draw o | .frameb o | .framee o => [[o.d.toNat]]
  | .acst o => [groupAt (.reg o.a.d) (acGroup o.w1)]
  | .cpy o | .cpym o | .cpyg o | .cpyz o | .kvcmt o | .tspawn o => [[o.a.d.toNat]]
  | .qpop o => if o.mod == 0 then [[o.d.toNat]] else []
  | .tex o => if o.a.ty == .f32x2 then [[o.a.d.toNat, o.a.d.toNat + 1]] else [[o.a.d.toNat]]
  | .trit o => [[o.a.d.toNat, o.a.d.toNat + 1]]
  | _ => []

/-- Every register that the instruction writes. -/
def writeRegs (i : Instr) : List Nat := (dstGroups i).flatten

/-- Condition registers read as data (the guard apart) and written. -/
def readConds : Instr → List Nat
  | .sel o => [o.mod.toNat % 4]
  | .vote o => [o.mod.toNat % 4]
  | .clog o => [o.ca.toNat, o.cb.toNat]
  | _ => []

def writeConds : Instr → List Nat
  | .icmp o | .fcmp o => [o.d.toNat % 4]
  | .clog o => [o.d.toNat]
  | _ => []

/-- Conditions that the instruction reads, its guard's among them. -/
def condsRead (i : Instr) : List Nat :=
  (match guardOf i with | .cond _ c => [c.toNat] | .always => []) ++ readConds i

/-- Fixed latency, or none for a scoreboarded instruction (R55). -/
def latency : Instr → Option Nat
  | .fadd o | .fsub o | .fmul o | .ffma o | .fmin o | .fmax o | .fcmp o | .frnd o | .fclamp o | .fclass o | .fscale o
  | .flerp o => some (if o.ty == .f64 then 8 else 6)
  | .fdot2 _ | .pack _ | .unpk _ | .swz _ | .cvtEf _ => some 6
  | .cvt o | .cvti o => some (if o.ty == .f64 || o.dst == .f64 then 8 else 6)
  | .shfl _ | .shflx _ => some 8
  | .fsin _ | .fcos _ | .fscs _ | .fexp2 _ | .flog2 _ | .frcp _ | .frsq _ | .ftanh _ => some 16
  | .fdiv o | .fsqrt o => some (if o.ty == .f64 then 32 else 24)
  | i => if isProgram i && opcode i < 0x20 then some 4 else none

/-- R51: a source group and a destination group that overlap and differ, or that are the same where the description
does not allow it. Single registers are no group unless a group meets them. LD, ST and the lane-wise instructions
read every operand before they write, so equal single registers are legal. -/
def groupsClash (i : Instr) : Bool :=
  let srcs := srcGroups i ++ (srcRegs (srcsOf i)).map (fun r => [r])
  (dstGroups i).any (fun d => srcs.any (fun g =>
    (decide (1 < d.length) || decide (1 < g.length)) && d.any (fun r => g.contains r))) ||
  (match i with
   | .cvtEf o => (srcRegs [(o.sc, .f32x2)]).any (fun r => r == o.d.toNat || (srcRegs [(o.sa, .f32x2)]).contains r)
   | .ldt o => (groupAt (.reg o.d) 16).any (fun r => (groupAt o.sb 1).contains r)
   | _ => false)

/-- Opcodes that are privileged (R52 order 4; R352, R365, R415). -/
def privileged : Instr → Bool
  | .tlbiVa _ | .tlbiAsid _ | .tlbiAll _ | .prioXchg _ | .prioSet _ | .frz _ | .thaw _ | .jpart _ => true
  | _ => false

/-- The opcodes of an access slice (R295). -/
def accessOk (i : Instr) : Bool :=
  decide (opcode i < 0x20) || (match i with
    | .ld _ | .ldq _ | .pref _ | .fence _ | .waitm _ | .bra _ | .join _ | .arrv _ | .exit _ | .sysr _ => true
    | _ => false)

/-- The engine operations (R145). -/
def isEngine : Instr → Bool
  | .mma _ | .mmag _ | .mmar _ | .mperm _ | .acld _ | .acst _ | .acz _ | .maskt _ => true
  | _ => false

/-- The matrix operations (R145). -/
def isMatrix : Instr → Bool
  | .mma _ | .mmag _ | .mmar _ | .mperm _ => true
  | _ => false

/-- The copies (R209, R360). -/
def isCopyOp : Instr → Bool
  | .cpy _ | .cpym _ | .cpyg _ | .cpyz _ | .kvcmt _ | .wipe _ => true
  | _ => false

/-- The cross-lane instructions (R137). -/
def isCross : Instr → Bool
  | .shfl _ | .shflx _ | .vote _ | .peers _ | .wred _ | .wscan _ | .fsum _ | .amax _ => true
  | _ => false

/-- Instructions that take a Mitten entry that stays after their issue (R190, R301, R383). -/
def takesEntry (i : Instr) : Bool :=
  isEngine i || isCopyOp i || (match i with
    | .ld _ | .st _ | .ldq _ | .pref _ | .atom _ | .atomc _ | .red _ | .faddo _ | .chain _ | .redb _ | .stt _ | .ldt _
    | .pubv _ | .snuff _ | .vqdec _ | .qnt _ | .tex _ | .boxt _ | .trit _ | .hread _ | .pxout _ | .launch _ | .draw _
    | .frameb _ | .framee _ | .tspawn _ | .tdep _ | .tdepWatch _ | .tdec _ | .ttime _ | .rspawn _ | .prioXchg _
    | .prioSet _ | .jrnl _ | .emit _ | .jtrunc _ => true
    | _ => false)

/-- Accumulator rows named, as (first, count), by an engine operation (R31, R147, R165). -/
def accRows : Instr → Option (Nat × Nat)
  | .mma o | .mmag o | .mmar o | .mperm o => some (mmAccRow o.w1, mmM o.w1)
  | .acld o | .acst o | .acz o => some (mmAccRow o.w1, acRows o.w1)
  | .maskt o => some (mmAccRow o.w1, 16 * acRows o.w1)
  | _ => none

/-- Instructions of draws only (R301). -/
def drawOnly : Instr → Bool
  | .hread _ | .hrel _ | .interp _ | .ecull _ | .rspawn _ | .pixlk _ | .pixul _ | .pxout _ => true
  | _ => false

/-- Rates that an instruction names; at any other rate it is cause 0x13 (R301). -/
def ratesOk (i : Instr) (rate : Nat) : Bool :=
  match i with
  | .interp _ => rate == 5 || rate == 6
  | .ecull _ => rate == 2 || rate == 3
  | .rspawn _ | .pixlk _ | .pixul _ | .pxout _ => rate == 6
  | _ => true

end Sys2Proof.Machine
end

