-- ==== Sys2Proof/Machine/Num.lean ====
section
/-!
DEFINITION. Exact arithmetic and its one rounding: rational values, the floating formats of R71-R75, the rounding of
R88-R90 with the flags of R91, and the special functions of R96 to 320 binary places (spec/04, spec/05).
-/

namespace Sys2Proof.Machine

/-! ### Flags (R91) -/

abbrev FFlags := BitVec 6
def fInvalid : FFlags := 1
def fDivZero : FFlags := 2
def fOverflow : FFlags := 4
def fUnderflow : FFlags := 8
def fInexact : FFlags := 16
def fSat : FFlags := 32

/-! ### Rational numbers, with a positive denominator -/

structure Q where
  num : Int
  den : Nat
deriving DecidableEq, Repr

def Q.ofInt (i : Int) : Q := { num := i, den := 1 }
def Q.neg (a : Q) : Q := { a with num := -a.num }
def Q.abs (a : Q) : Q := { a with num := a.num.natAbs }
def Q.mul (a b : Q) : Q := { num := a.num * b.num, den := a.den * b.den }

/-- The sum, over the larger denominator where one divides the other. -/
def Q.add (a b : Q) : Q :=
  if a.den = b.den then { num := a.num + b.num, den := a.den }
  else if b.den % a.den = 0 then { num := a.num * (b.den / a.den : Nat) + b.num, den := b.den }
  else if a.den % b.den = 0 then { num := a.num + b.num * (a.den / b.den : Nat), den := a.den }
  else { num := a.num * b.den + b.num * a.den, den := a.den * b.den }

def Q.sub (a b : Q) : Q := a.add b.neg
/-- The quotient by a nonzero number. -/
def Q.div (a b : Q) : Q :=
  if b.num < 0 then { num := -(a.num * b.den), den := a.den * b.num.natAbs }
  else { num := a.num * b.den, den := a.den * b.num.natAbs }

/-- 2 to an integer power. -/
def Q.pow2 (n : Int) : Q :=
  if n < 0 then { num := 1, den := 2 ^ n.natAbs } else { num := 2 ^ n.natAbs, den := 1 }

/-- a × 2^n. -/
def Q.scale (a : Q) (n : Int) : Q :=
  if n < 0 then { a with den := a.den * 2 ^ n.natAbs } else { a with num := a.num * 2 ^ n.natAbs }

def Q.lt (a b : Q) : Bool := decide (a.num * b.den < b.num * a.den)
def Q.le (a b : Q) : Bool := decide (a.num * b.den ≤ b.num * a.den)
def Q.eq (a b : Q) : Bool := decide (a.num * b.den = b.num * a.den)
def Q.isZero (a : Q) : Bool := decide (a.num = 0)
def Q.isNeg (a : Q) : Bool := decide (a.num < 0)
def Q.max (a b : Q) : Q := if a.lt b then b else a
def Q.min (a b : Q) : Q := if b.lt a then b else a

/-- The greatest integer not above a. -/
def Q.floor (a : Q) : Int := a.num / (a.den : Int)

/-- The integer that a rounds to in a mode of R88: 0 nearest even, 1 toward zero, 2 toward +∞, 3 toward -∞. -/
def Q.round (mode : Nat) (a : Q) : Int :=
  let f := a.floor
  let r := a.num - f * a.den
  if r = 0 then f
  else if mode = 0 then
    if 2 * r < a.den then f else if (a.den : Int) < 2 * r then f + 1 else if f % 2 = 0 then f else f + 1
  else if mode = 1 then if f < 0 then f + 1 else f
  else if mode = 2 then f + 1
  else f

/-- ⌊log2 of a positive number⌋. -/
def Q.log2 (a : Q) : Int :=
  let n := a.num.natAbs
  let e : Int := (n.log2 : Int) - (a.den.log2 : Int)
  if (Q.pow2 e).le { num := n, den := a.den } then e else e - 1

/-! ### Values -/

/-- A value of a floating format: a finite value carries the sign of its zero. -/
inductive FVal where
  | nan
  | inf (neg : Bool)
  | fin (neg : Bool) (q : Q)
deriving DecidableEq, Repr

/-- A finite value whose zero is positive. -/
def FVal.ofQ (q : Q) : FVal := .fin q.isNeg q
def FVal.isNan : FVal → Bool
  | .nan => true
  | _ => false
def FVal.isInf : FVal → Bool
  | .inf _ => true
  | _ => false
def FVal.isFin : FVal → Bool
  | .fin _ _ => true
  | _ => false
/-- The sign of a value; a NaN counts as positive. -/
def FVal.isNeg : FVal → Bool
  | .nan => false
  | .inf n => n
  | .fin n q => if q.isZero then n else q.isNeg
def FVal.isZero : FVal → Bool
  | .fin _ q => q.isZero
  | _ => false
def FVal.neg : FVal → FVal
  | .nan => .nan
  | .inf n => .inf (!n)
  | .fin n q => .fin (!n) q.neg
def FVal.abs : FVal → FVal
  | .nan => .nan
  | .inf _ => .inf false
  | .fin _ q => .fin false q.abs
/-- The rational behind a finite value. -/
def FVal.q : FVal → Q
  | .fin _ q => q
  | _ => Q.ofInt 0

/-- An exact product: 0 × ∞ is invalid (R121). -/
def FVal.mul (a b : FVal) : FVal × FFlags :=
  match a, b with
  | .nan, _ => (.nan, 0)
  | _, .nan => (.nan, 0)
  | .fin _ p, .fin _ q => (.fin (a.isNeg != b.isNeg) (p.mul q), 0)
  | _, _ => if a.isZero || b.isZero then (.nan, fInvalid) else (.inf (a.isNeg != b.isNeg), 0)

/-- An exact sum of several values: ∞ - ∞ is invalid, and an exact zero of opposite signs is +0, or -0 in mode 3
(R89, R121). -/
def FVal.sum (mode : Nat) (l : List FVal) : FVal × FFlags :=
  if l.any FVal.isNan then (.nan, 0)
  else
    let pos := l.any (fun v => v.isInf && !v.isNeg)
    let neg := l.any (fun v => v.isInf && v.isNeg)
    if pos && neg then (.nan, fInvalid)
    else if pos then (.inf false, 0)
    else if neg then (.inf true, 0)
    else
      let q := l.foldl (fun s v => s.add v.q) (Q.ofInt 0)
      if q.isZero then
        (.fin (if l.all FVal.isNeg then true else if l.all (fun v => !v.isNeg) then false else mode == 3) q, 0)
      else (.fin q.isNeg q, 0)

/-- a < b as numbers, -0 and +0 alike. -/
def FVal.ltNum (a b : FVal) : Bool :=
  match a, b with
  | .nan, _ => false
  | _, .nan => false
  | .inf n, .inf m => n && !m
  | .inf n, .fin _ _ => n
  | .fin _ _, .inf m => !m
  | .fin _ p, .fin _ q => p.lt q

def FVal.eqNum (a b : FVal) : Bool := !a.isNan && !b.isNan && !(a.ltNum b) && !(b.ltNum a)

/-- a < b with -0 below +0 (R122). -/
def FVal.lt (a b : FVal) : Bool := a.ltNum b || (a.isZero && b.isZero && a.isNeg && !b.isNeg)

/-! ### Formats (R71, R74) -/

/-- A floating format: field widths and bias, whether the all-ones exponent holds infinity and NaN, or how many of the
highest patterns are NaN, and the low bits of its slot that are zero (f19). -/
structure Fmt where
  e    : Nat
  m    : Nat
  bias : Int
  inf  : Bool
  nan  : Bool
  pad  : Nat := 0
deriving DecidableEq, Repr

def fmtF64 : Fmt := { e := 11, m := 52, bias := 1023, inf := true, nan := true }
def fmtF32 : Fmt := { e := 8, m := 23, bias := 127, inf := true, nan := true }
def fmtF19 : Fmt := { e := 8, m := 10, bias := 127, inf := true, nan := true, pad := 13 }
def fmtF16 : Fmt := { e := 5, m := 10, bias := 15, inf := true, nan := true }
def fmtBf16 : Fmt := { e := 8, m := 7, bias := 127, inf := true, nan := true }
def fmtE5m2 : Fmt := { e := 5, m := 2, bias := 15, inf := true, nan := true }
def fmtE4m3 : Fmt := { e := 4, m := 3, bias := 7, inf := false, nan := true }
def fmtE3m4 : Fmt := { e := 3, m := 4, bias := 3, inf := false, nan := false }
def fmtE3m2 : Fmt := { e := 3, m := 2, bias := 3, inf := false, nan := false }
def fmtE2m3 : Fmt := { e := 2, m := 3, bias := 1, inf := false, nan := false }
def fmtE2m1 : Fmt := { e := 2, m := 1, bias := 1, inf := false, nan := false }

/-- The format of a float type. -/
def fmtOfTy : Ty → Fmt
  | .f64 => fmtF64
  | .f19x2 => fmtF19
  | .f16x4 => fmtF16
  | .bf16x4 => fmtBf16
  | .e5m2x8 => fmtE5m2
  | .e4m3x8 => fmtE4m3
  | .e3m4x8 => fmtE3m4
  | .e3m2x8 => fmtE3m2
  | .e2m3x8 => fmtE2m3
  | .e2m1x16 => fmtE2m1
  | _ => fmtF32

/-- The vector type that holds a format code (R69). -/
def tyOfCode (f : Nat) : Ty :=
  [Ty.i64, .f32x2, .f19x2, .f16x4, .bf16x4, .e5m2x8, .e4m3x8, .e3m4x8, .e3m2x8, .e2m3x8, .e2m1x16, .i16x4, .i8x8, .n8x8,
    .i4x16, .n4x16, .t2x32, .b1x64, .vq2x4, .x16x4, .x32x2].getD f .i64

/-- A float type. -/
def tyIsFloat (t : Ty) : Bool := t.isCvtFloat || t == .f64

/-- The pattern of the largest finite magnitude. -/
def Fmt.maxPat (f : Fmt) : Nat :=
  if f.inf then (2 ^ f.e - 1) * 2 ^ f.m - 1 else if f.nan then 2 ^ (f.e + f.m) - 2 else 2 ^ (f.e + f.m) - 1

/-- The value of a magnitude pattern below infinity and NaN (R72). -/
def Fmt.magQ (f : Fmt) (p : Nat) : Q :=
  let e := p / 2 ^ f.m
  let m := p % 2 ^ f.m
  if e = 0 then (Q.ofInt m).scale (1 - f.bias - f.m)
  else (Q.ofInt (2 ^ f.m + m : Nat)).scale (e - f.bias - f.m)

/-- The value of a slot's pattern: bits above the format are ignored, and so are f19's low bits (R73, R81). -/
def Fmt.value (f : Fmt) (slot : Nat) : FVal :=
  let p := slot / 2 ^ f.pad
  let mag := p % 2 ^ (f.e + f.m)
  let neg := p / 2 ^ (f.e + f.m) % 2 == 1
  if f.inf && mag == (2 ^ f.e - 1) * 2 ^ f.m then .inf neg
  else if f.nan && decide (f.maxPat < mag) then .nan
  else .fin neg (if neg then (f.magQ mag).neg else f.magQ mag)

/-- A nonzero pattern with a zero exponent field. -/
def Fmt.isSub (f : Fmt) (slot : Nat) : Bool :=
  let mag := slot / 2 ^ f.pad % 2 ^ (f.e + f.m)
  decide (0 < mag) && decide (mag < 2 ^ f.m)

/-- A subnormal operand is read as zero of its sign under .ftz (R90). -/
def Fmt.read (f : Fmt) (ftz : Bool) (slot : Nat) : FVal :=
  if ftz && f.isSub slot then .fin ((f.value slot).isNeg) (Q.ofInt 0) else f.value slot

/-- The slot of a sign and a magnitude pattern. -/
def Fmt.pattern (f : Fmt) (neg : Bool) (mag : Nat) : Nat :=
  ((if neg then 2 ^ (f.e + f.m) else 0) + mag) * 2 ^ f.pad

/-- The canonical NaN (R74), +0 where the format has none. -/
def Fmt.canonical (f : Fmt) : Nat :=
  if !f.nan then 0
  else if f.inf then f.pattern false ((2 ^ f.e - 1) * 2 ^ f.m + 2 ^ (f.m - 1))
  else f.pattern false (2 ^ (f.e + f.m) - 1)

/-- Rounding mode, .sat and .ftz of R49. -/
structure Rnd where
  mode : Nat
  sat  : Bool
  ftz  : Bool
deriving DecidableEq, Repr

/-- The modifiers of MOD (R49). -/
def rndOf (mod : BitVec 4) : Rnd := { mode := mod.toNat / 4, sat := mod.getLsbD 1, ftz := mod.getLsbD 0 }
/-- Nearest even, no modifier. -/
def rne : Rnd := { mode := 0, sat := false, ftz := false }

/-- The magnitude of a nonzero number in units of the format's last place at its exponent, rounded; the pattern, and
whether it is exact. The pattern may lie above the largest finite one. -/
def Fmt.roundMag (f : Fmt) (mode : Nat) (q : Q) : Nat × Bool :=
  let e := q.abs.log2
  let e := if e < 1 - f.bias then 1 - f.bias else e
  let scaled := q.scale (f.m - e)
  let k := scaled.round mode
  (((e + f.bias - 1) * 2 ^ f.m + k.natAbs).toNat, (Q.ofInt k).eq scaled)

/-- Writes an exact value into a format: R88 rounding, R89 overflow, R90 subnormals, R74 NaN (DEDUCED, log 23). -/
def Fmt.write (f : Fmt) (r : Rnd) (v : FVal) : Nat × FFlags :=
  match v with
  | .nan => if f.nan then (f.canonical, 0) else (0, fInvalid)
  | .inf neg =>
    if f.inf && !r.sat then (f.pattern neg ((2 ^ f.e - 1) * 2 ^ f.m), 0) else (f.pattern neg f.maxPat, fSat)
  | .fin neg q =>
    if q.isZero then (f.pattern neg 0, 0)
    else
      let neg := q.isNeg
      let p := f.roundMag r.mode q
      if f.maxPat < p.1 then
        if f.inf && !r.sat && (r.mode == 0 || (r.mode == 2 && !neg) || (r.mode == 3 && neg)) then
          (f.pattern neg ((2 ^ f.e - 1) * 2 ^ f.m), fOverflow ||| fInexact)
        else (f.pattern neg f.maxPat, fOverflow ||| fInexact ||| fSat)
      else if decide (p.1 < 2 ^ f.m) && r.ftz && p.1 != 0 then (f.pattern neg 0, fUnderflow ||| fInexact)
      else
        (f.pattern neg p.1,
          (if p.2 then 0 else fInexact) ||| (if !p.2 && decide (p.1 < 2 ^ f.m) then fUnderflow else 0))

/-- Rounds through a format and reads the value back. -/
def Fmt.through (f : Fmt) (r : Rnd) (v : FVal) : FVal × FFlags :=
  let p := f.write r v
  (f.value p.1, p.2)

/-! ### Roots and special functions, on exact arguments (R96; DEDUCED, log 14) -/

/-- ⌊√n⌋ by Newton steps from above; `fuel` at least the bit length suffices. -/
def isqrtFrom (n : Nat) : Nat → Nat → Nat
  | 0, x => x
  | fuel + 1, x =>
    let y := (x + n / x) / 2
    if x ≤ y then x else isqrtFrom n fuel y

def isqrt (n : Nat) : Nat := if n = 0 then 0 else isqrtFrom n (n.log2 + 2) (2 ^ (n.log2 / 2 + 1))

/-- √q exactly where it is rational with a power-of-two scale, else a value strictly between the same neighbours of
any format: 200 binary places below the leading one and a sticky bit. -/
def Q.sqrt (q : Q) : Q :=
  let e := q.log2
  let s := (400 : Int) - (if e < 0 then e - 1 else e) / 2 * 2
  let t := q.scale s
  let n := t.floor.natAbs
  let r := isqrt n
  if r * r = n && (Q.ofInt n).eq t then (Q.ofInt r).scale (-(s / 2))
  else ({ num := 2 * r + 1, den := 2 } : Q).scale (-(s / 2))

/-- ⌊π · 2^640⌋ -/
def piNat : Nat := 14333329926761567455775730701799299831126131522901418329710873694248203755857903894978459978948837038337184470360789102305252273090192709030764248428292776480232102476327552185579501988876367276

/-- ⌊ln 2 · 2^640⌋ -/
def ln2Nat : Nat := 3162442850577000144542819255265044123884198300717798677536341180773118696995660441338367561063358767323571958122307070903190084685977847936741854327993944726832264493303953239866611699627604094

/-- Fixed point: 320 binary places. -/
def fxOne : Nat := 2 ^ 320
/-- π and ln 2 as rationals. -/
def qPi : Q := { num := piNat, den := 2 ^ 640 }
def qLn2 : Q := { num := ln2Nat, den := 2 ^ 640 }

/-- A truncated fixed-point value, marked as not exact. -/
def fxQ (n : Nat) : Q := { num := 2 * n + 1, den := 2 ^ 321 }
/-- The fixed-point floor of a non-negative number. -/
def toFx (q : Q) : Nat := (q.scale 320).floor.natAbs

/-- Σ x^k / k! over the terms from t on (exponential series): `fuel` terms. -/
def fxExp (x : Nat) : Nat → Nat → Nat → Nat
  | 0, _, _ => 0
  | fuel + 1, k, t => t + fxExp x fuel (k + 1) (t * x / fxOne / (k + 1))

/-- The alternating series of sine and cosine: term, next divisor. -/
def fxAlt (x2 : Nat) : Nat → Nat → Nat → Bool → Int
  | 0, _, _, _ => 0
  | fuel + 1, k, t, neg =>
    (if neg then -(t : Int) else t) + fxAlt x2 fuel (k + 2) (t * x2 / fxOne / ((k + 1) * (k + 2))) (!neg)

def fxSin (x : Nat) : Nat := (fxAlt (x * x / fxOne) 90 1 x false).toNat
def fxCos (x : Nat) : Nat := (fxAlt (x * x / fxOne) 90 0 fxOne false).toNat

/-- Reduces |x| exactly by multiples of π/2: the quadrant and the remainder (R96). -/
def reduceAngle (x : Q) : Nat × Nat :=
  let n := (x.abs.scale 640).floor.natAbs
  let h := piNat / 2
  (n / h % 4, n % h / fxOne)

/-- A number just inside q: closer to zero by a part too small for any format. -/
def Q.inward (q : Q) : Q := q.mul { num := 2 ^ 200 - 1, den := 2 ^ 200 }
def Q.outward (q : Q) : Q := q.mul { num := 2 ^ 200 + 1, den := 2 ^ 200 }

/-- |q| below 2^-100. -/
def Q.tiny (q : Q) : Bool := q.abs.lt (Q.pow2 (-100))

/-- sin of a number (DEDUCED, log 14). -/
def Q.sin (q : Q) : Q :=
  if q.isZero then q
  else if q.tiny then q.inward
  else
    let r := reduceAngle q
    let v := fxQ (if r.1 % 2 = 0 then fxSin r.2 else fxCos r.2)
    if (decide (2 ≤ r.1)) != q.isNeg then v.neg else v

/-- cos of a number (DEDUCED, log 14). -/
def Q.cos (q : Q) : Q :=
  if q.isZero then Q.ofInt 1
  else if q.tiny then (Q.ofInt 1).inward
  else
    let r := reduceAngle q
    let v := fxQ (if r.1 % 2 = 0 then fxCos r.2 else fxSin r.2)
    if r.1 = 1 || r.1 = 2 then v.neg else v

/-- 2^q (DEDUCED, log 14). -/
def Q.exp2 (q : Q) : Q :=
  let n := q.floor
  let n := if n < -2000 then -2000 else if 2000 < n then 2000 else n
  let f := q.sub (Q.ofInt n)
  if f.isZero then Q.pow2 n
  else if q.tiny then (if q.isNeg then (Q.ofInt 1).inward else (Q.ofInt 1).outward)
  else if (Q.ofInt 1).lt f || f.isNeg then (Q.pow2 n).outward
  else (fxQ (fxExp (toFx (f.mul qLn2)) 90 0 fxOne)).scale n

/-- atanh series: Σ z^(2k+1)/(2k+1), `fuel` terms. -/
def fxAtanh (z2 : Nat) : Nat → Nat → Nat → Nat
  | 0, _, _ => 0
  | fuel + 1, k, t => t / k + fxAtanh z2 fuel (k + 2) (t * z2 / fxOne)

/-- log2 of a positive number: the exponent and 2·atanh((m-1)/(m+1))/ln 2 for m in [1, 2). -/
def Q.lg2 (q : Q) : Q :=
  let e := q.log2
  let m := q.scale (-e)
  let d := m.sub (Q.ofInt 1)
  if d.isZero then Q.ofInt e
  else if e == -1 then
    let z := ((Q.ofInt 1).sub q).div ((Q.ofInt 1).add q)
    let z := toFx z
    (({ num := 2 * fxAtanh (z * z / fxOne) 110 1 z, den := fxOne } : Q).div qLn2).neg
  else
    let z := toFx (d.div (m.add (Q.ofInt 1)))
    (Q.ofInt e).add (({ num := 2 * fxAtanh (z * z / fxOne) 110 1 z, den := fxOne } : Q).div qLn2)

/-- tanh of a number: 1 - 2/(e^(2|x|) + 1). -/
def Q.tanh (q : Q) : Q :=
  if q.isZero then q
  else if q.tiny then q.inward
  else
    let a := q.abs
    let v :=
      if (Q.ofInt 80).lt a then (Q.ofInt 1).inward
      else
        let y := (a.scale 1).div qLn2
        let n := y.floor
        let ex := ({ num := fxExp (toFx ((y.sub (Q.ofInt n)).mul qLn2)) 90 0 fxOne, den := fxOne } : Q).scale n
        (ex.sub (Q.ofInt 1)).div (ex.add (Q.ofInt 1))
    if q.isNeg then v.neg else v

/-! ### Integers (R76, R106) -/

/-- Two's complement or unsigned value of a sub-element of w bits. -/
def intVal (signed : Bool) (w : Nat) (x : Nat) : Int :=
  let x := x % 2 ^ w
  if signed && decide (2 ^ w ≤ 2 * x) then (x : Int) - 2 ^ w else x

/-- wrap of R106. -/
def wrapInt (w : Nat) (v : Int) : Nat := (v % 2 ^ w).toNat
def intMin (signed : Bool) (w : Nat) : Int := if signed then -(2 ^ (w - 1) : Int) else 0
def intMax (signed : Bool) (w : Nat) : Int := if signed then 2 ^ (w - 1) - 1 else 2 ^ w - 1

/-- clampi of R106: the pattern and SAT. -/
def clampInt (signed : Bool) (w : Nat) (v : Int) : Nat × FFlags :=
  if v < intMin signed w then (wrapInt w (intMin signed w), fSat)
  else if intMax signed w < v then (wrapInt w (intMax signed w), fSat)
  else (wrapInt w v, 0)

/-- Wrapped, or clamped under .sat (R108). -/
def fitInt (sat signed : Bool) (w : Nat) (v : Int) : Nat × FFlags :=
  if sat then clampInt signed w v else (wrapInt w v, 0)

/-! ### Sub-elements (R23, R106) -/

/-- sub(x, j) of width w. -/
def sub (x : Word) (j w : Nat) : Nat := x.toNat / 2 ^ (j * w) % 2 ^ w

/-- A register of n sub-elements of width w, each reduced to its width. -/
def packSubs (w : Nat) : List Nat → Nat
  | [] => 0
  | x :: l => x % 2 ^ w + 2 ^ w * packSubs w l

/-- Builds a register from a function of the sub-element index, with the flags ORed. -/
def buildSubs (w n : Nat) (f : Nat → Nat × FFlags) : Word × FFlags :=
  let l := (List.range n).map f
  (BitVec.ofNat 64 (packSubs w (l.map Prod.fst)), l.foldl (fun a x => a ||| x.2) 0)

/-! ### Comparing values -/

def FVal.leNum (a b : FVal) : Bool := a.ltNum b || a.eqNum b

/-- A value of a list. -/
def vAt (l : List FVal) (k : Nat) : FVal := l.getD k .nan

/-- min or max with -0 below +0; a NaN gives the other operand and INVALID (R122). -/
def minmaxVal (isMax : Bool) (a b : FVal) : FVal × FFlags :=
  if a.isNan && b.isNan then (.nan, fInvalid)
  else if a.isNan then (b, fInvalid)
  else if b.isNan then (a, fInvalid)
  else if isMax then (if a.lt b then b else a, 0)
  else (if b.lt a then b else a, 0)

end Sys2Proof.Machine
end

