-- ==== Sys2Proof/Machine/Operands.lean ====
section
/-!
DEFINITION. Reading operands and writing destinations: the constant table (R47), registers at their home rates
(R19, R20), queue pops and peeks (R46), the special sources (R14), shape tags (R25), poison marks (R373) and the
fixed-latency results in flight (R55-R57).
-/

namespace Sys2Proof.Machine

/-! ### The constant table (R47) -/

/-- Entry c for float types. -/
def constQ (c : Nat) : Q :=
  if c < 16 then Q.ofInt c
  else if c < 24 then Q.ofInt (-(c - 15 : Nat))
  else if c < 32 then Q.pow2 (c - 20 : Nat)
  else if c < 48 then Q.pow2 (-(c - 31 : Nat))
  else if c < 56 then { num := 1, den := [3, 5, 6, 7, 9, 10, 12, 255].getD (c - 48) 1 }
  else [qPi, qPi.scale (-1), qPi.scale 1, (Q.ofInt 1).div qPi, (Q.ofInt 1).div (qPi.scale 1), qLn2,
    (Q.ofInt 1).div qLn2, (Q.ofInt 2).sqrt].getD (c - 56) (Q.ofInt 0)

/-- Entry c for integer types. -/
def constInt (c : Nat) : Int :=
  if c < 16 then c
  else if c < 24 then -(c - 15 : Nat)
  else if c < 32 then 2 ^ (c - 20)
  else if c < 48 then 2 ^ (c - 20)
  else if c < 56 then
    [0xFF, 0xFFFF, 0xFFFFFFFF, 0x0F0F0F0F0F0F0F0F, 0x3333333333333333, 0x5555555555555555, 0x00FF00FF00FF00FF,
      0x7FFFFFFFFFFFFFFF].getD (c - 48) 0
  else [-16, -32, -64, -128, -256, -1024, -4096, -65536].getD (c - 56) 0

/-- A constant in every sub-element of a type. -/
def constVal (c : Nat) (ty : Ty) : Word :=
  let v := if tyIsFloat ty then ((fmtOfTy ty).write rne (FVal.ofQ (constQ c))).1 else wrapInt ty.width (constInt c)
  BitVec.ofNat 64 (packSubs ty.width (List.replicate ty.nsub v))

/-! ### Home rates (R16, R19) -/

def State.isDrawProg (s : State) (w : Wave) : Bool := (s.obj w).isDraw

/-- The home rate of a register in a wave: an access wave's registers are its own (R294). -/
def State.homeOf (s : State) (w : Wave) (r : Nat) : Nat :=
  if w.kind == .access then w.rate else (s.obj w).homes.getD r (if s.isDrawProg w then 1 else 0)

/-- Fineness of a rate: in a compute program ln is the finest (R16). -/
def rateRank (isDraw : Bool) (r : Nat) : Nat := if !isDraw && r == 0 then 8 else r

/-- Reading a register of a home rate at a rate (R19). -/
def homeReadOk (isDraw : Bool) (home rate : Nat) : Bool :=
  if isDraw && rate == 7 then home == 7 || home == 1 else decide (rateRank isDraw home ≤ rateRank isDraw rate)

/-! ### Held records (R20, R271) -/

/-- A register's hold-layout entry makes it ray-visible (R66). -/
def CodeObj.rayVisible (o : CodeObj) (r : Nat) : Bool := o.hold.any (fun h => h.reg == r && h.vis)

/-- The record of a coarser element covers an element (R20). -/
def HeldRec.covers (c : HeldRec) (e : Elem) : Bool :=
  match c.rate with
  | 1 => true
  | 2 => c.el.obj == e.obj
  | 3 => c.el.obj == e.obj && c.el.cls == e.cls
  | 4 => c.el.obj == e.obj && c.el.cls == e.cls && c.el.vtx == e.vtx
  | 5 => c.el.obj == e.obj && c.el.cls == e.cls && c.el.tri == e.tri && c.el.cx == e.cx && c.el.cy == e.cy
  | _ => false

/-- The record that holds register r of home rate `home` for an element of a draw wave. -/
def State.heldRec? (s : State) (w : Wave) (e : Elem) (home r : Nat) : Option (Nat × HeldRec) :=
  let o := s.obj w
  s.recs.find? (fun c => c.2.ctx == w.ctx && c.2.rate == home && c.2.isRay == o.rayVisible r &&
    (if home == 1 then c.2.code == o.base && c.2.frame == ((s.draw? w.draw).map (·.frame)).getD 0 else c.2.draw == w.draw) &&
    c.2.covers e)

/-! ### Register values -/

/-- Held values of the launch, gang or workgroup element that covers a compute wave (R18, R20); a poisoned one has its
load's pc + 1 under key 256 + r. -/
def State.heldTable (s : State) (w : Wave) (home : Nat) : Table Word :=
  match s.wg? w.wg with
  | none => []
  | some g =>
    if home == 3 then g.held
    else match s.gang? g.gang with
      | none => []
      | some a => if home == 2 then a.held else ((s.launch? a.launch).map (·.held)).getD []

/-- The register's value is the wave's own, or a wave element's, which the wave keeps (R25). -/
def State.ownReg (s : State) (w : Wave) (r : Nat) : Bool :=
  let h := s.homeOf w r
  h == w.rate || (!s.isDrawProg w && h == 4)

/-- Register r as thread t reads it, all producers complete. -/
def State.regRaw (s : State) (w : Wave) (t r : Nat) : Word :=
  let h := s.homeOf w r
  if s.ownReg w r then w.reg r t
  else if s.isDrawProg w then
    match s.heldRec? w (w.thread t).el h r with
    | some (_, c) => tget 0 c.vals r
    | none => 0
  else tget 0 (s.heldTable w h) r

/-- The load's pc when register r is poisoned for thread t (R373). -/
def State.poisonOf (s : State) (w : Wave) (t r : Nat) : Option Word :=
  let h := s.homeOf w r
  let v :=
    if s.ownReg w r then tget 0 w.poison r
    else if s.isDrawProg w then ((s.heldRec? w (w.thread t).el h r).map (fun c => tget 0 c.2.poison r)).getD 0
    else tget 0 (s.heldTable w h) (256 + r)
  if v = 0 then none else some (v - 1)

/-- Picks each sub-element of one of two words. -/
def mixSubs (width : Nat) (pick : Nat → Bool) (a b : Word) : Word :=
  BitVec.ofNat 64 (packSubs width ((List.range (64 / width)).map
    (fun j => if pick j then sub a j width else sub b j width)))

/-- The place of a free value in the step's free words. -/
def freeAt (k t : Nat) : Nat := (k * 32 + t) * 64

/-- A result in flight is read at too small a distance: each sub-element is free between old and new (R57)
(DEDUCED, log 79). -/
def State.undersized (s : State) (th : Thread) (r width f : Nat) (v : Word) : Word :=
  th.pend.foldr (fun p x => if p.reg == r && decide (p.dist < p.lat) then
    mixSubs width (fun j => s.freeBit (f + j)) p.old x else x) v

/-- Register r as thread t reads it. -/
def State.readReg (s : State) (w : Wave) (t r width f : Nat) : Word :=
  s.undersized (w.thread t) r width f (s.regRaw w t r)

/-- Condition register c as thread t reads it. -/
def State.readCond (s : State) (w : Wave) (t c : Nat) : Bool :=
  let v := s.undersized (w.thread t) (256 + c) 64 (freeAt 28 t + c)
    (if (w.thread t).cond.getLsbD c then 1 else 0)
  v == 1

/-- A thread executes an instruction under its guard (R50). -/
def State.guardHolds (s : State) (w : Wave) (g : Guard) (t : Nat) : Bool :=
  match g with
  | .always => true
  | .cond neg c => s.readCond w t c.toNat != neg

/-! ### Sources (R45, R46) -/

def Wave.queue (w : Wave) (q : Nat) : Queue := w.queues.getD q {}

/-- Lane t of the k-th entry of a queue. -/
def Wave.queueWord (w : Wave) (q k t : Nat) : Word :=
  (((w.queue q).entries.getD k none).getD []).getD t 0

/-- A queue entry: a word for each lane, and, where a load's data was uncorrectable, those lanes and the load's pc. -/
def queueRow (f : Nat → Word) (bad : Lanes) (pc : Word) : List Word :=
  (List.range 32).map f ++ (if bad = 0 then [] else [bad.setWidth 64, pc])

/-- The load's pc when lane t of the k-th entry of a queue is poisoned (R191, R373). -/
def Wave.queuePoison (w : Wave) (q k t : Nat) : Option Word :=
  let e := ((w.queue q).entries.getD k none).getD []
  if (e.getD 32 0).getLsbD t then some (e.getD 33 0) else none

/-- Pops of queue q among the sources. -/
def popsOf (l : List (Src × Ty)) (q : Nat) : Nat :=
  (l.filter (fun e => e.1 == .pop (BitVec.ofNat 3 q))).length

def tidOf (w : Wave) (t : Nat) : Word := BitVec.ofNat 64 (32 * w.idx + t)

/-- The k-th source of the list for thread t. -/
def State.srcVal (s : State) (w : Wave) (t : Nat) (l : List (Src × Ty)) (k : Nat) : Word :=
  match l[k]? with
  | none => 0
  | some (src, ty) =>
    match src with
    | .reg r => s.readReg w t r.toNat ty.width (freeAt k t)
    | .const c => constVal c.toNat ty
    | .pop q => w.queueWord q.toNat (popsOf (l.take k) q.toNat) t
    | .peek q => w.queueWord q.toNat 0 t
    | .lane => BitVec.ofNat 64 t
    | .tid => tidOf w t
    | .wave => BitVec.ofNat 64 w.idx
    | .elem => (w.thread t).elem

/-- The load's pc when the k-th source of the list is a poisoned entry of a queue for thread t (R191). -/
def Wave.srcPoison (w : Wave) (t : Nat) (l : List (Src × Ty)) (k : Nat) : Option Word :=
  match l[k]? with
  | some (.pop q, _) => w.queuePoison q.toNat (popsOf (l.take k) q.toNat) t
  | some (.peek q, _) => w.queuePoison q.toNat 0 t
  | _ => none

/-- All sources of an instruction for thread t, in the order SA, SB, SC. -/
def State.srcVals (s : State) (w : Wave) (i : Instr) (t : Nat) : List Word :=
  (List.range (srcsOf i).length).map (s.srcVal w t (srcsOf i))

/-- A register that an instruction reads beside its sources, in parts of a width (R57). -/
def State.sideVal (s : State) (w : Wave) (width t r : Nat) : Word := s.readReg w t r width (freeAt (32 + r) t)

/-- A register that an instruction reads beside its sources, read whole. -/
def State.regVal (s : State) (w : Wave) (t r : Nat) : Word := s.sideVal w 64 t r

/-- The words of an instruction's register group. -/
def State.groupVals (s : State) (w : Wave) (i : Instr) (t : Nat) (l : List Nat) : List Word := l.map (s.sideVal w (sideWidth i) t)

/-! ### Shape tags (R24, R25) -/

/-- A source's tag in the inference. -/
def State.srcTag (s : State) (w : Wave) (src : Src) (ty : Ty) : Tag :=
  match src with
  | .reg r =>
    let r := r.toNat
    if s.homeOf w r == w.rate then w.tag r
    else if !s.isDrawProg w then .u (s.regRaw w 0 r)
    else
      let l := lanesOf w.present
      let keys := l.map (fun t => (s.heldRec? w (w.thread t).el (s.homeOf w r) r).map Prod.fst)
      if keys.all (fun k => k == keys.headD none) then .u (s.regRaw w (l.headD 0) r) else .g
  | .const c => .u (constVal c.toNat ty)
  | .lane => .a 0 1
  | .tid => .a (BitVec.ofNat 64 (32 * w.idx)) 1
  | .wave => .u (BitVec.ofNat 64 w.idx)
  | .elem =>
    if s.isDrawProg w then .g
    else if w.rate == 0 then .a ((w.thread 0).elem) 1
    else .u ((w.thread 0).elem)
  | .pop _ | .peek _ => .g

/-- The instruction's operands come through registers from an earlier load of the wave (R175). -/
def State.dependent (s : State) (w : Wave) (i : Instr) : Bool :=
  (srcsOf i).any (fun e => match e.1 with | .pop _ | .peek _ => true | _ => false) ||
  (readRegs i).any (fun r => !s.ownReg w r || tget false w.loaded r)

def Tag.isU : Tag → Bool
  | .u _ => true
  | _ => false

/-- Instructions whose one issue gives every executing thread the same value: promises, and what LAUNCH, DRAW, FRAMEB,
FRAMEE and PRIO answer. -/
def oneResult (i : Instr) : Bool :=
  isCopyOp i || (match i with
    | .launch _ | .draw _ | .frameb _ | .framee _ | .prioXchg _ | .prioSet _ | .jrnl _ | .jtrunc _ | .pubv _ | .snuff _ => true
    | _ => false)

/-- Results that are each lane's own (R25): loads, atomics, LEA (R118), what a condition register chooses (DEDUCED,
log 22), and, also where their operands are uniform, cross-lane instructions and system registers (DESIGN CHOICE, log 98). -/
def perLane (i : Instr) : Bool :=
  isCross i || (takesEntry i && !oneResult i) ||
  (match i with | .sysr _ | .acst _ | .interp _ | .lea _ | .sel _ | .waitm _ => true | _ => false)

/-- The affine forms of R25: the operation on base and stride. -/
def affineTag (i : Instr) (a b : Tag) : Option Tag :=
  match i, a, b with
  | .iadd _, .a x d, .u v => some (.a (x + v) d)
  | .iadd _, .u v, .a x d => some (.a (v + x) d)
  | .isub _, .a x d, .u v => some (.a (x - v) d)
  | .isub _, .u v, .a x d => some (.a (v - x) (-d))
  | .imul _, .a x d, .u v => some (.a (x * v) (d * v))
  | .imul _, .u v, .a x d => some (.a (v * x) (v * d))
  | .shl _, .a x d, .u v => if 64 ≤ v.toNat then some (.a 0 0) else some (.a (x <<< v.toNat) (d <<< v.toNat))
  | _, _, _ => none

def is64 : Instr → Bool
  | .iadd o | .isub o | .imul o | .shl o => o.ty == .i64 || o.ty == .n64
  | _ => false

/-- The tag of a result whose value in the lowest executing thread is v (DEDUCED, log 21; DEDUCED, log 22). -/
def State.resultTag (s : State) (w : Wave) (i : Instr) (group : Lanes) (v : Word) : Tag :=
  if group != w.present || guardOf i != .always || perLane i then .g
  else
    let ts := (srcsOf i).map (fun e => s.srcTag w e.1 e.2)
    let extra := (extraReads i ++ (srcGroups i).flatten).map (fun r => s.srcTag w (.reg (BitVec.ofNat 8 r)) .i64)
    match i with
    | .mov _ => ts.headD .g
    | .mkaff _ =>
      match ts with
      | [.u a, .u b] => .a a b
      | _ => .g
    | .callt _ => .u v
    | _ =>
      if (ts ++ extra).all Tag.isU then .u v
      else if is64 i then
        match ts with
        | [a, b] => (affineTag i a b).getD .g
        | _ => .g
      else .g

/-! ### Writing -/

/-- Writes register r of thread t: an undersized write leaves either result from then on (R57); a fixed-latency result
stays in flight (R55; DEDUCED, log 79). -/
def State.writeLane (s : State) (lat : Option Nat) (pc : Word) (w : Wave) (t r : Nat) (v : Word) : Wave :=
  let old := w.reg r t
  let th := w.thread t
  let clash := th.pend.any (fun p => p.reg == r && decide (p.dist < p.lat))
  let v := if clash && s.freeBit (freeAt 29 t + r) then old else v
  let w := w.setReg r t v
  match lat with
  | none => w
  | some l => w.modThread t (fun th => { th with pend := th.pend ++ [{ reg := r, old, dist := 0, lat := l, pc }] })

/-- Writes condition register c of thread t. -/
def State.writeCond (s : State) (lat : Option Nat) (pc : Word) (w : Wave) (t c : Nat) (b : Bool) : Wave :=
  let th := w.thread t
  let old := th.cond.getLsbD c
  let clash := th.pend.any (fun p => p.reg == 256 + c && decide (p.dist < p.lat))
  let b := if clash && s.freeBit (freeAt 29 t + 256 + c) then old else b
  let cond := BitVec.ofNat 4 ((List.range 4).foldl
    (fun a j => a + (if (if j = c then b else th.cond.getLsbD j) then 2 ^ j else 0)) 0)
  w.modThread t (fun th =>
    { th with
      cond := cond
      pend := match lat with
        | none => th.pend
        | some l => th.pend ++ [{ reg := 256 + c, old := if old then 1 else 0, dist := 0, lat := l, pc }] })

/-- Notes whether a register's value comes from a load (R175). -/
def Wave.derive (w : Wave) (r : Nat) (b : Bool) : Wave := { w with loaded := tset false w.loaded r b }

/-- Sets the tag of a written register, and clears its poison mark when the whole register is replaced (R373)
(DEDUCED, log 79). -/
def Wave.stamp (w : Wave) (r : Nat) (tag : Tag) (whole : Bool) : Wave :=
  let w := w.setTag r tag
  if whole then { w with poison := tset 0 w.poison r 0 } else w

end Sys2Proof.Machine
end

