-- ==== Sys2Proof/Machine/Blend.lean ====
section
/-!
DEFINITION. The places, formats and arithmetic of the blend stage (spec/13 R281, R282).
-/

namespace Sys2Proof.Machine

/-- Bytes of a colour. -/
def colourBytes (cfmt : Nat) : Nat := if cfmt = 0 then 4 else if cfmt = 1 then 8 else 16

/-- Number of a sample in the targets. -/
def DrawUnit.sampleAt (d : DrawUnit) (f : Frag) : Nat := (f.py * d.width + f.px) * 2 ^ d.spp + f.smp
def DrawUnit.colourAt (d : DrawUnit) (f : Frag) : Word := addrAdd d.cbase (BitVec.ofNat 64 (d.sampleAt f * colourBytes d.cfmt))
def DrawUnit.depthAt (d : DrawUnit) (f : Frag) : Word := addrAdd d.dbase (BitVec.ofNat 64 (d.sampleAt f * 4))

/-- A step of the blend, rounded to f32. -/
def step32 (v : FVal) : FVal := fmtF32.value (fmtF32.write rne v).1

/-- The channels that a target holds. -/
def readColour (cfmt : Nat) (b : List Byte) : List FVal :=
  let n := leNat b
  (List.range 4).map (fun k =>
    if cfmt = 0 then step32 (.fin false { num := (n / 256 ^ k % 256 : Nat), den := 255 })
    else if cfmt = 1 then fmtF16.value (n / 65536 ^ k % 65536)
    else fmtF32.value (n / (2 ^ 32) ^ k % 2 ^ 32))

/-- One blended channel: source, target, source alpha. A NaN gives the canonical NaN in every blend, and min and max take
from R122 the order alone (DEDUCED, log 24). -/
def blendChannel (blend : Nat) (sv tv sa : FVal) : FVal :=
  if blend = 0 then step32 sv
  else if blend = 1 then step32 (FVal.sum 0 [sv, tv]).1
  else if blend = 2 then
    let k := step32 (FVal.sum 0 [.fin false (Q.ofInt 1), sa.neg]).1
    step32 (FVal.sum 0 [sv, step32 (tv.mul k).1]).1
  else if sv.isNan || tv.isNan then .nan
  else step32 (minmaxVal (blend == 4) sv tv).1

/-- A channel in the colour format (DEDUCED, log 24). -/
def writeChannel (cfmt : Nat) (v : FVal) : Nat :=
  if cfmt = 0 then
    match v with
    | .nan => 0
    | .inf n => if n then 0 else 255
    | .fin _ q => (((q.max (Q.ofInt 0)).min (Q.ofInt 1)).mul (Q.ofInt 255)).round 0 |>.toNat
  else if cfmt = 1 then (fmtF16.write rne v).1
  else (fmtF32.write rne v).1

/-- The bytes of a blended colour. -/
def blendBytes (cfmt blend : Nat) (src tgt : List FVal) : List Byte :=
  let w := if cfmt = 0 then 1 else if cfmt = 1 then 2 else 4
  (List.range 4).flatMap (fun k => toBytes w (writeChannel cfmt (blendChannel blend (vAt src k) (vAt tgt k) (vAt src 3))))

/-- The depth comparison passes. -/
def depthPasses (mode : Nat) (z d : FVal) : Bool :=
  if mode = 1 then z.ltNum d else if mode = 2 then z.leNum d else true

end Sys2Proof.Machine
end

