-- ==== Sys2Proof/Machine/Flags.lean ====
section
/-!
DEFINITION. The sticky flags of a wave and their traps (R91-R94), and the checks that an interrupt of the arithmetic
raises after its results are written.
-/

namespace Sys2Proof.Machine

/-- ORs flags into a wave's sys.fflags (R93; DEDUCED, log 80). -/
def Wave.orFlags (w : Wave) (f : FFlags) : Wave := { w with fflags := w.fflags ||| f.setWidth 64 }

/-- The flags that a result sets: a fixed-latency instruction's at its latency, another's at once (R93). -/
def Wave.setFlags (w : Wave) (lat : Option Nat) (clk : Nat) (lanes : Lanes) (f : FFlags) : Wave :=
  match lat with
  | none => w.orFlags f
  | some n => if f = 0 then w else { w with flying := w.flying ++ [(clk + n, lanes, f)] }

/-- The flags whose tick has come are set. -/
def Wave.landFlags (w : Wave) (due : Nat × Lanes × FFlags → Bool) : Wave :=
  { w.orFlags (w.flying.foldl (fun a x => if due x then a ||| x.2.2 else a) 0) with flying := w.flying.filter (fun x => !due x) }

/-- Those of some flags whose TRAPEN bit is 1 (R94; DEDUCED, log 80). -/
def Wave.trapping (w : Wave) (f : FFlags) : FFlags := f &&& w.fflags.extractLsb' 8 6

/-- What SYSW of sys.fflags keeps: TRAPEN and the flags (R91). -/
def fflagsMask : Word := 0x3F3F

end Sys2Proof.Machine
end

