-- ==== Sys2Proof/Machine/Report.lean ====
section
/-!
DEFINITION. What the S9 itself reads, writes and reports for a context: accesses of its agents, interrupt messages
(R434), global identities (R379) and the context fault queue (R377, R378).
-/

namespace Sys2Proof.Machine

/-! ### Accesses of the S9 for a context -/

/-- A stand-in for a wave of a context that belongs to no workgroup: spaces 0x1, 0x2 and 0xF are closed to it. -/
def agentWave (ctx : Nat) : Wave :=
  { ctx, slot := 0, kind := .compute, wg := 0, idx := 0, core := 0, quad := 0, rate := 0, threads := [] }

/-- Resolves an access that the S9 makes for a context through its page tables or to a node. -/
def State.agentLoc (s : State) (ctx : Nat) (acc : Acc) (spaces : List Nat) (size align : Nat) (p : Word) :
    Except Flt Loc :=
  s.resolve (agentWave ctx) acc spaces size align p 0

/-- Writes the block tags of the blocks of an access (R84). -/
def State.setTags (s : State) (l : Loc) (n : Nat) (tag : BitVec 16) : State :=
  match l.pa? with
  | some pa => { s with btags := (blocksOf pa n).foldl (fun m k => tset 0 m k tag) s.btags }
  | none => s

/-- A store through space 0x4 by what has no tag operand, such as EMIT, PXOUT or a completion word: it writes the tags of
the blocks that it touches (R84), and the spec gives no value (DESIGN CHOICE, log 100). -/
def State.freeTags (s : State) (p : Word) (l : Loc) (n : Nat) : State :=
  if spaceOf p == 4 then s.setTags l n ((s.free (freeAt 340 0)).setWidth 16) else s

/-- A store that the S9 makes for a context: the new state, or the cause that the access met (R229, R377). -/
def State.agentStore (s : State) (ctx : Nat) (spaces : List Nat) (p : Word) (bs : List Byte) : Except Nat State :=
  match s.agentLoc ctx accStore spaces bs.length (min bs.length 8) p with
  | .error f => .error f.cause
  | .ok l =>
    if s.badLoc l bs.length && decide (bs.length < 64) then .error 0x16
    else match s.writeLoc ctx l bs with
      | none => .error 0x05
      | some s => .ok (s.freeTags p l bs.length)

/-- Bytes that the S9 reads for a context, page by page within one access. -/
def State.agentLoad (s : State) (ctx : Nat) (spaces : List Nat) (p : Word) (n align : Nat) :
    Except Nat (List Byte) :=
  match s.agentLoc ctx accLoad spaces n align p with
  | .error f => .error f.cause
  | .ok l => if s.badLoc l n then .error 0x16 else
    match s.readLoc ctx l n 0 with
    | none => .error 0x05
    | some bs => .ok bs

/-! ### Interrupt messages (R434) -/

def irqMessage (kind ctx source : Nat) (value : Nat) : Word :=
  BitVec.ofNat 64 (kind * 2 ^ 56 + ctx % 64 * 2 ^ 50 + source % 4096 * 2 ^ 32 + value % 2 ^ 32)

def State.sendIrq (s : State) (node kind ctx value : Nat) : State :=
  s.emit (.irq node (irqMessage kind ctx (s.nodeOfCtx ctx) value))

/-! ### Global identities (R379) -/

/-- A task identifier (R284). -/
def taskId (lantern slot gen : Nat) : Nat := lantern % 16 * 2 ^ 28 + slot % 2 ^ 14 * 2 ^ 14 + gen % 2 ^ 14

def gidWord (kind ord unit member wave ctx : Nat) : Word :=
  BitVec.ofNat 64 (kind % 4 * 2 ^ 62 + ord % 2 ^ 14 * 2 ^ 48 + unit % 2 ^ 24 * 2 ^ 24 + member % 256 * 2 ^ 16 +
    wave % 256 * 2 ^ 8 + ctx % 64)

/-- The task of a lane of a task wave. -/
def State.taskOf (s : State) (w : Wave) (t : Nat) : Option Task :=
  (s.lanterns[w.core / 24]?).bind (fun l => l.tasks.find? (fun k =>
    k.ctx == w.ctx && (match k.st with | .running wid lane => wid == w.ctx * 16384 + w.slot && lane == t | _ => false)))

/-- The GID of a wave (DEDUCED, log 69). -/
def State.gidOf (s : State) (w : Wave) : Word :=
  match w.kind with
  | .draw =>
    let d := s.draw? w.draw
    gidWord 1 ((d.map (·.ord)).getD 0) ((w.thread 0).elem.toNat) 0 w.idx w.ctx
  | .task =>
    let slot := (w.thread 0).el.task
    let gen := (w.thread 0).el.obj
    gidWord 2 slot (taskId (w.core / 24) slot gen / 256) 0 w.idx w.ctx
  | _ =>
    let g := s.wg? w.wg
    let a := g.bind (fun g => s.gang? g.gang)
    let l := a.bind (fun a => s.launch? a.launch)
    gidWord (if (l.map (·.control)).getD false then 3 else 0) ((l.map (·.ord)).getD 0) ((a.map (·.idx)).getD 0)
      ((g.map (·.member)).getD 0) w.idx w.ctx

/-! ### The context fault queue (R377) -/

/-- The fields of a fault-queue record. -/
structure FaultRec where
  cause : Nat
  flags : Nat
  pc    : Word
  gid   : Word := 0
  addr  : Word := 0
  info  : Word := 0
  mask  : Lanes := 0
  w0    : Word := 0
  w1    : Word := 0
deriving DecidableEq, Repr

def FaultRec.bytes (r : FaultRec) : List Byte :=
  toBytes 8 (r.cause + 256 * r.flags) ++ toBytes 8 r.pc.toNat ++ toBytes 8 r.gid.toNat ++ toBytes 8 r.addr.toNat ++
  toBytes 8 r.info.toNat ++ toBytes 8 r.mask.toNat ++ toBytes 8 r.w0.toNat ++ toBytes 8 r.w1.toNat

/-- Writes a record into the context's ring, or counts it as lost. -/
def State.faultRecord (s : State) (ctx : Nat) (r : FaultRec) : State :=
  match s.ctx? ctx with
  | none => s
  | some c =>
    let len := 2 ^ (c.fqctl.toNat % 16)
    let lost := s.modCtx ctx (fun c => { c with fqlost := c.fqlost + 1, fqhead := c.fqhead + 1 })
    if c.fqbase = 0 || decide (len ≤ (c.fqhead - c.fqtail).toNat) then lost
    else
      match s.agentStore ctx [0] (addrAdd c.fqbase (BitVec.ofNat 64 (64 * (c.fqhead.toNat % len)))) r.bytes with
      | .error _ => lost
      | .ok s =>
        let s := s.modCtx ctx (fun c => { c with fqhead := c.fqhead + 1 })
        if c.fqctl.getLsbD 31 then s.sendIrq (c.fqctl.toNat / 2 ^ 16 % 4096) 1 ctx (c.fqhead + 1).toNat else s

/-! ### Instruction words (R39, R40, R185) -/

/-- The eight words of the 64-byte line at a virtual address, as a core of a context fetches it now
(DESIGN CHOICE, log 85). -/
def State.lineAt (s : State) (ctx core va free : Nat) : Except Flt (List Word × State) :=
  let line := va / 64 * 64
  match s.translate ctx line free with
  | .error f => .error f
  | .ok m =>
    if !m.x then .error { stage := 4, cause := 5 }
    else if (s.served m.pa).isNone then .error { stage := 4, cause := 5 }
    else if s.badPa m.pa 64 then .error { stage := 5, cause := 0x16 }
    else
      let now := (List.range 8).map (fun i => leWord (s.readPa (m.pa + 8 * i) 8))
      match s.icache.find? (fun l => l.core == core && l.asid == ctx && l.va == line) with
      | some l =>
        .ok ((List.range 8).map (fun i =>
          let o := l.words.getD i 0
          let n := now.getD i 0
          if o = n then o else if s.freeBit (free + 8 + i) then o else n), s)
      | none =>
        .ok (now, { s.fillTlb ctx line with
          icache := s.icache ++ [{ core, asid := ctx, va := line, words := now }] })

/-- Two words at a pc: the second only where it lies in the same line (R40; DESIGN CHOICE, log 85). -/
def State.wordsAt (s : State) (w : Wave) (pc : Word) : Except Flt (Word × Word × State) :=
  if spaceOf pc != 0 || decide (5 ≤ pc.toNat / 2 ^ 57 % 8) then .error { stage := 0, cause := 6 }
  else
    match s.lineAt w.ctx w.core (vaOf pc) 64 with
    | .error f => .error f
    | .ok (ws, s) =>
      let k := vaOf pc % 64 / 8
      .ok (ws.getD k 0, ws.getD (k + 1) 0, s)

/-- The words at a pc, as the trap registers show them; zero where they cannot be fetched. -/
def State.instrWords (s : State) (w : Wave) (pc : Word) : Word × Word :=
  match s.wordsAt w pc with
  | .ok (a, b, _) => (a, if twoWords (opcOf a) then b else 0)
  | .error _ => (0, 0)

end Sys2Proof.Machine
end

