-- ==== Sys2Proof/Machine/Start.lean ====
section
/-!
DEFINITION. Starting threads: wave slots (R386), the threads of a compute wave, its access wave (R294), the coarse
elements of a compute launch in their order (R17, R18), and what an exit leaves behind (R20, R307).
-/

namespace Sys2Proof.Machine

/-- The key of a wave (DESIGN CHOICE, log 18). -/
def widOf (ctx slot : Nat) : Nat := ctx * 16384 + slot

/-- The lowest wave slot that no wave of the context has, or none while 16,384 waves exist (R386). -/
def State.freeSlot (s : State) (ctx : Nat) : Option Nat :=
  let used := s.waves.filterMap (fun e => if e.2.ctx == ctx then some e.2.slot else none)
  (List.range (used.length + 1)).find? (fun k => decide (k < 16384) && !used.contains k)

/-- Waves of a context that exist. -/
def State.waveCount (s : State) (ctx : Nat) : Nat := (s.waves.filter (fun e => e.2.ctx == ctx)).length

/-- Compute and access waves of one workgroup of a launch. -/
def Launch.groupWaves (l : Launch) : Nat := (l.wgsize + 31) / 32 * (if l.obj.access.isSome then 2 else 1)

/-- Waves that admitted workgroups of a context will have, and that have not started since a coarse element comes first
(R17). -/
def State.wavesToStart (s : State) (ctx : Nat) : Nat :=
  ((s.wgs.filter (fun e => e.2.ctx == ctx && decide (e.2.coarse < 3) && !e.2.finished)).map (fun e =>
    (((s.gang? e.2.gang).bind (fun a => s.launch? a.launch)).map Launch.groupWaves).getD 0)).sum

/-- Wave slots of a context that its admitted work leaves free (R386). -/
def State.slotsLeft (s : State) (ctx : Nat) : Nat := 16384 - (s.waveCount ctx + s.wavesToStart ctx)

/-- Adds a wave under a free slot of its context. -/
def State.addWave (s : State) (w : Wave) : State :=
  match s.freeSlot w.ctx with
  | none => s
  | some k => { s with waves := s.waves ++ [(widOf w.ctx k, { w with slot := k })] }

/-- The handler address that a wave of an object starts with (R372). -/
def CodeObj.trapStart (o : CodeObj) : Word :=
  match o.trapoff with
  | none => 0
  | some t => o.base + BitVec.ofNat 64 (0x100 + t)

/-- The address of an entry (R64). -/
def CodeObj.at (o : CodeObj) (off : Nat) : Word := o.base + BitVec.ofNat 64 (0x100 + off)

/-- A thread that stands at an entry (DEDUCED, log 20). -/
def freshThread (pc elem : Word) : Thread := { present := true, pc, elem }

def absent : Thread := {}

/-- The threads of the ln rate of a wave: lane t present below the workgroup's size (R11, R17). -/
def lnThreads (pc : Word) (size idx wgIndex : Nat) : List Thread :=
  (List.range 32).map (fun t =>
    if 32 * idx + t < size then freshThread pc (BitVec.ofNat 64 (wgIndex * size + 32 * idx + t)) else absent)

/-- One thread on lane 0. -/
def loneThread (pc elem : Word) : List Thread := freshThread pc elem :: List.replicate 31 absent

/-- sys.wg of a workgroup (R14). -/
def State.wgIndex (s : State) (g : Workgroup) : Nat :=
  match s.gang? g.gang with
  | none => 0
  | some a => a.idx * (((s.launch? a.launch).map (·.gsize)).getD 1) + g.member

/-- The waves of a workgroup, each at its wave entry or at ENTRY[0], and their access waves. -/
def State.startWaves (s : State) (k : Nat) : State :=
  match s.wg? k with
  | none => s
  | some g =>
    match (s.gang? g.gang).bind (fun a => s.launch? a.launch) with
    | none => s
    | some l =>
      let o := l.obj
      let n := s.wgIndex g
      let s := s.modWg k (fun g => { g with coarse := 3 })
      (List.range g.nwave).foldl (fun s i =>
        let base : Wave :=
          { ctx := g.ctx, slot := 0, kind := .compute, wg := k, idx := i, core := g.core, quad := i % 4, rate := 0
            threads := [], trapbase := o.trapStart, admitted := s.dev.clk }
        let wave : Wave :=
          match (o.entry.getD 4 none) with
          | some e => { base with rate := 4, threads := loneThread (o.at e) (BitVec.ofNat 64 (n * g.nwave + i)) }
          | none =>
            match (o.entry.getD 0 none) with
            | some e => { base with threads := lnThreads (o.at e) g.size i n }
            | none => { base with threads := (lnThreads 0 g.size i n).map (fun t => { t with exited := true }) }
        let s := s.addWave wave
        match o.access with
        | some e =>
          let own := (s.waves.getLast?.map Prod.fst).getD 0
          let s := s.addWave { base with
            kind := .access, pair := some own, trapbase := o.trapStart, threads := lnThreads (o.at e) g.size i n }
          let acc := (s.waves.getLast?.map Prod.fst).getD 0
          s.modWave own (fun w => { w with pair := some acc })
        | none => s) s

/-- The wave of a coarse element on a workgroup's core. -/
def State.startCoarse (s : State) (k rate : Nat) (elem : Nat) : State :=
  match s.wg? k with
  | none => s
  | some g =>
    match (s.gang? g.gang).bind (fun a => s.launch? a.launch) with
    | none => s
    | some l =>
      match l.obj.entry.getD rate none with
      | none => s
      | some e =>
        s.addWave { ctx := g.ctx, slot := 0, kind := .coarse, wg := k, idx := 0, core := g.core, quad := 0, rate,
                    threads := loneThread (l.obj.at e) (BitVec.ofNat 64 elem), trapbase := l.obj.trapStart,
                    admitted := s.dev.clk }

/-- Starts what can start of one workgroup: its own element, then its waves. -/
def State.startWg (s : State) (k : Nat) : State :=
  match s.wg? k with
  | none => s
  | some g =>
    match (s.gang? g.gang).bind (fun a => s.launch? a.launch) with
    | none => s
    | some l =>
      if g.finished then s
      else if g.coarse == 0 && (l.obj.entry.getD 3 none).isSome then
        (s.startCoarse k 3 (s.wgIndex g)).modWg k (fun g => { g with coarse := 1 })
      else if g.coarse == 0 || g.coarse == 2 then s.startWaves k
      else s

/-- Starts what can start of an admitted gang (R17, R18): the launch element, the gang's element, then its
workgroups. -/
def State.startGang (s : State) (key : Nat) : State :=
  match s.gang? key with
  | none => s
  | some a =>
    match s.launch? a.launch with
    | none => s
    | some l =>
      let first := a.members.headD 0
      if (l.obj.entry.getD 1 none).isSome && l.coarse != 2 then
        if l.coarse == 0 && a.idx == 0 then
          (s.startCoarse first 1 0).modLaunch a.launch (fun l => { l with coarse := 1 })
        else s
      else if (l.obj.entry.getD 2 none).isSome && a.coarse != 2 then
        if a.coarse == 0 then (s.startCoarse first 2 a.idx).modGang key (fun a => { a with coarse := 1 }) else s
      else a.members.foldl State.startWg s

/-- Values that a coarse compute element leaves: its home-rate registers and poison marks (R20). -/
def heldOf (o : CodeObj) (w : Wave) (t : Table Word) : Table Word :=
  (List.range 256).foldl (fun t r =>
    if o.homes.getD r 0 == w.rate then
      tset 0 (tset 0 t r (w.reg r 0)) (256 + r) (tget 0 w.poison r)
    else t) t

/-- A wave element has exited: its wave goes on with the ln threads, and its registers stay as U (R18, R25). -/
def State.restartLn (s : State) (wid : Nat) : State :=
  match s.wave? wid with
  | none => s
  | some w =>
    match s.wg? w.wg with
    | none => s
    | some g =>
      let o := s.obj w
      let keep := (List.range 256).filter (fun r => o.homes.getD r 0 == 4)
      let regs := keep.foldl (fun m r => (List.range 32).foldl (fun m t => tset 0 m (32 * r + t) (w.reg r 0)) m) []
      let threads := match o.entry.getD 0 none with
        | some e => lnThreads (o.at e) g.size w.idx (s.wgIndex g)
        | none => (lnThreads 0 g.size w.idx (s.wgIndex g)).map (fun t => { t with exited := true })
      s.modWave wid (fun w => { w with
        rate := 0, threads, regs, fenced := regs
        tags := keep.foldl (fun m r => tset (.u 0) m r (.u (w.reg r 0))) []
        poison := w.poison.filter (fun e => keep.contains e.1)
        queues := List.replicate 8 {}, joins := [] })

/-! ### Draw elements (R20, R262, R279) -/

/-- An element's thread has exited: its registers go into its records (R20). -/
def State.holdElement (s : State) (w : Wave) (t : Nat) : State :=
  let o := s.obj w
  let e := (w.thread t).el
  let mine := fun (c : HeldRec) => c.ctx == w.ctx && c.rate == w.rate && c.covers e &&
    (if w.rate == 1 then c.code == o.base && c.frame == ((s.draw? w.draw).map (·.frame)).getD 0 else c.draw == w.draw)
  { s with recs := s.recs.map (fun c =>
      if mine c.2 then
        let rs := (o.hold.filter (fun h => h.rate == w.rate && h.vis == c.2.isRay)).map (·.reg)
        (c.1, { c.2 with
          vals := rs.foldl (fun m r => tset 0 m r (w.reg r t)) c.2.vals
          poison := rs.foldl (fun m r => tset 0 m r (tget 0 w.poison r)) c.2.poison })
      else c) }

def State.modObj (s : State) (u i : Nat) (f : DrawObj → DrawObj) : State :=
  s.modDraw u (fun d => { d with objs := d.objs.map (fun o => if o.idx == i then f o else o) })

def State.modCluster (s : State) (u i j : Nat) (f : Cluster → Cluster) : State :=
  s.modObj u i (fun o => { o with clusters := o.clusters.map (fun c => if c.idx == j then f c else c) })

/-- The fragment of a sample thread. -/
def Frag.isOf (f : Frag) (wid t : Nat) : Bool := f.started && f.wid == wid && f.lane == t

/-- A sample thread has exited: its turn has ended, so it has retired (R279). -/
def State.retireFrag (s : State) (u wid t : Nat) : State :=
  s.modDraw u (fun d => { d with frags := d.frags.filter (fun f => !f.isOf wid t) })

/-- What the exit of a draw thread does beside its held values. -/
def State.exitDraw (s : State) (wid : Nat) (w : Wave) (t : Nat) : State :=
  let th := w.thread t
  let e := th.el
  let s := s.holdElement w t
  match w.rate with
  | 1 =>
    let code := (s.obj w).base
    s.modCtx w.ctx (fun c =>
      let mine := ((s.draw? w.draw).map (·.frame)).getD 0
      let f := fun (f : Frame) => if f.id != mine then f else { f with elements := f.elements.map (fun x => if x.1 == code then (x.1, 2) else x) }
      { c with frame := c.frame.map f, closing := c.closing.map f })
  | 2 => s.modObj w.draw e.obj (fun o => { o with phase := 2, culled := th.culled })
  | 3 => s.modCluster w.draw e.obj e.cls (fun c => { c with phase := 2, culled := c.culled || th.culled })
  | 4 => s.modCluster w.draw e.obj e.cls (fun c => { c with vtxLeft := c.vtxLeft - 1 })
  | 5 => s.modCluster w.draw e.obj e.cls (fun c => { c with coarse := c.coarse.map (fun x =>
      if x.tri == e.tri && x.cx == e.cx && x.cy == e.cy then { x with st := 2 } else x) })
  | 6 => s.retireFrag w.draw wid t
  | _ => s

/-! ### Exits -/

/-- What the exit of a task's thread does (R286, R299). -/
def State.exitTask (s : State) (wid : Nat) (w : Wave) (t : Nat) : State :=
  let lan := w.core / 24
  match s.taskOf w t with
  | none => s
  | some k =>
    let s := s.modLantern lan (fun l => { l with
      tasks := l.tasks.filter (fun x => !(x.slot == k.slot && x.gen == k.gen && x.ctx == k.ctx && x.st == k.st)) })
    if k.watch.isSome && k.settle != 0 then
      { s with
        settling := s.settling ++ [{ id := s.nextKey, ctx := w.ctx, wid, word := k.settle
                                     seqs := (w.mitten.filter (fun e => e.exec.getLsbD t)).map (·.seq) }]
        nextKey := s.nextKey + 1 }
    else s

/-- Ends threads of a wave: they count as exited for every arrival, and what they hold or own goes where it belongs
(R20, R307). -/
def State.exitLanes (s : State) (wid : Nat) (lanes : Lanes) : State :=
  match s.wave? wid with
  | none => s
  | some w =>
    let ls := (lanesOf lanes).filter (fun t => (w.thread t).present && !(w.thread t).exited)
    let s := s.modWave wid (fun w => ls.foldl (fun w t =>
      w.modThread t (fun th => { th with exited := true, wait := .none, pend := [] })) w)
    match w.kind with
    | .draw => ls.foldl (fun s t => s.exitDraw wid w t) s
    | .task => ls.foldl (fun s t => s.exitTask wid w t) s
    | .coarse =>
      if ls.isEmpty then s
      else
        let o := s.obj w
        match s.wg? w.wg with
        | none => s
        | some g =>
          match s.gang? g.gang with
          | none => s
          | some a =>
            if w.rate == 1 then
              let s := s.modLaunch a.launch (fun l => { l with held := heldOf o w l.held, coarse := 2 })
              (s.gangs.filter (fun e => e.2.launch == a.launch)).foldl (fun s e => s.startGang e.1) s
            else if w.rate == 2 then
              (s.modGang g.gang (fun a => { a with held := heldOf o w a.held, coarse := 2 })).startGang g.gang
            else (s.modWg w.wg (fun g => { g with held := heldOf o w g.held, coarse := 2 })).startGang g.gang
    | .access => s
    | .compute =>
      if ls.isEmpty then s
      else if w.rate == 4 then s.restartLn wid
      else
        let done := ((s.wave? wid).map (fun w => w.live == 0)).getD true
        let s := if done then s.modWave wid (fun w => { w with queues := w.queues.map (fun q => { q with entries := [] }) })
          else s
        let all := s.waves.all (fun e => e.2.wg != w.wg || e.2.live == 0)
        if all && s.isControl w then s.modCtx w.ctx (fun c => { c with control := none }) else s

/-- A workgroup has finished: all its waves have started and exited, and their engine operations have committed
(R238). -/
def State.wgFinished (s : State) (k : Nat) : Bool :=
  match s.wg? k with
  | none => true
  | some g => g.finished || (g.coarse == 3 && s.waves.all (fun e => e.2.wg != k || (e.2.live == 0 &&
      e.2.mitten.all (fun m => !isEngine m.ins || m.st == .fault))))

end Sys2Proof.Machine
end

