-- ==== Sys2Proof/Machine/Ops.lean ====
section
/-!
DEFINITION. The shared operations of every instruction: taking a trap and returning from one (R374-R376), termination
(R378), the checks of decode and issue (R52, R57, R373, R46), the waits of R239, and what an issue leaves behind.
-/

namespace Sys2Proof.Machine

/-! ### Traps -/

/-- What a trap tells its handler (R370, R371). -/
structure TrapInfo where
  cause : Nat
  mask  : Lanes
  pc    : Word
  addr  : Word := 0
  info  : Word := 0
  source : Option Word := none
  malformed : Bool := false
  level : Nat := 0
  /-- a deferred fault, with the Mitten record of its issue -/
  deferred : Bool := false
  trec  : List Word := []
  w0    : Word := 0
  w1    : Word := 0
deriving DecidableEq, Repr

/-- sys.tcause (R370). -/
def TrapInfo.tcause (i : TrapInfo) : Word :=
  BitVec.ofNat 64 (i.cause + (if i.deferred then 256 else 0) + (if i.malformed then 512 else 0) +
    1024 * i.level + (if i.source.isSome then 8192 else 0))

/-- The trap registers of a wave that takes a trap (R370). -/
def TrapInfo.regs (i : TrapInfo) : TrapRegs :=
  { tcause := i.tcause, tmask := i.mask.setWidth 64, tpc := i.pc, taddr := i.addr, tinfo := i.info
    tfrom := i.source.getD 0, tword0 := i.w0, tword1 := i.w1, inHandler := true
    trec := if i.deferred then i.trec else List.replicate 8 0 }

/-- The word of a thread's c0-c3 in sys.tcond. -/
def Thread.condWord (t : Thread) : Word := t.cond.setWidth 64

/-- A thread of a wave that enters its handler: its wait ends, its resume pc and conditions are saved (R374)
(DEDUCED, log 38). -/
def Thread.enter (th : Thread) (base resume : Word) : Thread :=
  { th with
    tepc := resume, tcond := th.condWord, stood := th.wait, stoodPc := th.pc, wait := .none
    pc := base, pend := [], readyAt := 0, source := none }

/-- Tickets that a workgroup has taken in the chains of its launch (DEDUCED, log 96). -/
def Launch.ticketsOf (l : Launch) (wg : Nat) : List Loc :=
  l.chains.filterMap (fun c => if c.tickets.any (fun t => t.wg == wg) || c.performed.contains wg then some c.loc else none)

/-- Terminates the workgroup of a wave, or a task wave alone (R378; DEDUCED, log 96). -/
def State.terminate (s : State) (wid : Nat) : State :=
  match s.wave? wid with
  | none => s
  | some w =>
    let mates := (s.waves.filter (fun e => e.2.wg == w.wg)).map Prod.fst
    match w.kind with
    | .task | .draw =>
      mates.foldl (fun s k => (s.exitLanes k (BitVec.allOnes 32)).modWave k (fun w => { w with ended := true })) s
    | _ =>
      let l := s.launchOf w
      let n := ((s.wg? w.wg).map s.wgIndex).getD 0
      let ctl := s.isControl w
      let s := s.modWg w.wg (fun g => { g with finished := true })
      let s := match l with
        | some (u, l) => s.modLaunch u (fun x => { x with terminated := x.terminated ++ [(n, l.ticketsOf n)] })
        | none => s
      let s := mates.foldl (fun s k =>
        match s.wave? k with
        | some v =>
          let s := if v.kind == .coarse then s.exitLanes k (BitVec.allOnes 32) else s
          s.modWave k (fun v => { v with
            ended := true
            queues := v.queues.map (fun q => { q with entries := [] })
            threads := v.threads.map (fun t => if t.present then { t with exited := true, wait := .none, pend := [] } else t) })
        | none => s) s
      if ctl then s.modCtx w.ctx (fun c => { c with control := none }) else s

/-- The gang of a wave, when it runs under the rotation of DET (R243), its coarse and access waves with it. -/
def State.detGang (s : State) (w : Wave) : Option (Nat × Gang) :=
  if s.isDet w && w.kind != .draw && w.kind != .task then
    (s.wg? w.wg).bind (fun g => (s.gang? g.gang).map (fun a => (g.gang, a)))
  else none

/-- The wave's place in its gang's rotation: ascending member and wave index, a wave before its access wave
(DESIGN CHOICE, log 110). -/
def State.place (s : State) (w : Wave) : Nat :=
  64 * (((s.wg? w.wg).map (·.member)).getD 0) + 2 * w.idx + (if w.kind == .access then 1 else 0)

/-- An issue of a wave uses its gang's rotation step (R243). -/
def State.stepUsed (s : State) (wid : Nat) : State :=
  match s.wave? wid with
  | none => s
  | some w =>
    match s.detGang w with
    | none => s
    | some (gk, _) => s.modGang gk (fun a => { a with turn := s.place w + 1 })

/-- A wave takes a trap: the threads of `group` resume at `resume`, every other thread at its own pc. Without a
handler, or inside one, its workgroup is terminated and the fault goes to the context's queue (R374-R378). -/
def State.takeTrap (s : State) (wid : Nat) (group : Lanes) (resume : Nat → Word) (i : TrapInfo) : State :=
  let s := { s with cur := none }.stepUsed wid
  match s.wave? wid with
  | none => s
  | some w =>
    if w.trap.inHandler || w.trapbase = 0 then
      let gid := s.gidOf w
      (s.terminate wid).faultRecord w.ctx
        { cause := i.cause, flags := 2 + (if w.trap.inHandler then 4 else 0) + (if i.deferred then 8 else 0)
          pc := i.pc, gid, addr := i.addr, info := i.info, mask := i.mask, w0 := i.w0, w1 := i.w1 }
    else
      s.modWave wid (fun w => { w.landFlags (fun _ => true) with
        trap := i.regs
        threads := w.threads.mapIdx (fun t th =>
          if th.present && !th.exited then th.enter w.trapbase (if group.getLsbD t then resume t else th.pc) else th) })

/-- Withdraws a thread's arrival at a JOIN, a BAR or a GBAR (R256; DEDUCED, log 38). -/
def State.withdraw (s : State) (wid t : Nat) (wait : Wait) (pc : Word) : State :=
  let bit : Lanes := 1#32 <<< t
  match s.wave? wid with
  | none => s
  | some w =>
    match wait with
    | .join _ => s.modWave wid (fun w => { w with joins := w.joins.map (fun j =>
        if j.pc == pc && j.isOpen then { j with arrived := j.arrived &&& ~~~bit } else j) })
    | .bar n => s.modWg w.wg (fun g => { g with bars := lmod g.bars n (fun b =>
        { b with gens := (b.gens.map (fun x =>
            { x with arrivals := tset 0 x.arrivals wid (tget 0 x.arrivals wid &&& ~~~bit) })).filter (fun x => x.arrivals != []) }) })
    | .gbar =>
      match s.wg? w.wg with
      | none => s
      | some g => s.modGang g.gang (fun a => { a with gbar := tset 0 a.gbar wid (tget 0 a.gbar wid &&& ~~~bit) })
    | _ => s

/-- An arrival that TRET judges (R256). -/
def Wait.isArrival : Wait → Bool
  | .join _ => true
  | .bar _ => true
  | .gbar => true
  | _ => false

def Wait.isJoin : Wait → Bool
  | .join _ => true
  | _ => false

/-- A wait that a return to its instruction restores: an arrival, a CHAIN whose ticket is taken (R200), or an EMIT that
holds its Mitten entry (R422). -/
def Wait.keeps (w : Wait) : Bool := w.isArrival || w == .chain || w == .emit

/-- Closes join records in which no bit is set and at which no thread waits (R250). -/
def Wave.closeJoins (w : Wave) : Wave :=
  { w with joins := w.joins.filter (fun j => j.isOpen && (j.arrived != 0 ||
      w.threads.any (fun t => t.wait.isJoin && t.pc == j.pc))) }

/-- The return of R376: INHANDLER is cleared, conditions and pcs are restored, waits are judged under R256. -/
def State.trapReturn (s : State) (wid : Nat) : State :=
  match s.wave? wid with
  | none => s
  | some w =>
    let live := lanesOf w.live
    let s := live.foldl (fun s t =>
      let th := w.thread t
      if th.stood.isArrival && th.tepc != th.stoodPc then s.withdraw wid t th.stood th.stoodPc else s) s
    s.modWave wid (fun w => ({ w with
      trap := { w.trap with inHandler := false }
      threads := w.threads.map (fun th =>
        if th.present && !th.exited then
          { th with
            pc := th.tepc, cond := th.tcond.setWidth 4, pend := [], readyAt := 0, source := none
            wait := if th.stood.keeps && th.tepc == th.stoodPc then th.stood else .none
            stood := .none, stoodPc := 0 }
        else th) } : Wave).closeJoins)

/-- Threads at a TRET, all that are present and have not exited (R417). -/
def Wave.allAtTret (w : Wave) : Bool :=
  w.trap.inHandler && w.live != 0 && (lanesOf w.live).all (fun t => (w.thread t).wait == .tret)

/-- The rendezvous of TRET (R417): the checks of every sys.tepc, whose failure is a double fault, then the return. A
control wave that returns lets a stalled creation be tried again (R277). -/
def State.tryTret (s : State) (wid : Nat) : State :=
  match s.wave? wid with
  | none => s
  | some w =>
    if !w.allAtTret || w.frozen then s
    else
      let ls := lanesOf w.live
      let space := ls.filter (fun t => spaceOf (w.thread t).tepc != 0)
      let odd := ls.filter (fun t => (w.thread t).tepc.toNat % 8 != 0)
      let bad := if space != [] then space else odd
      match bad with
      | [] =>
        let s := s.trapReturn wid
        if s.isControl w then s.modCtx w.ctx (fun c => { c with holdStalled := false }) else s
      | t :: _ =>
        let pc := (w.thread t).pc
        let ws := s.instrWords w pc
        s.takeTrap wid (maskOf bad) (fun _ => pc)
          { cause := if space != [] then 0x06 else 0x03, mask := maskOf bad, pc, addr := (w.thread t).tepc, info := 3, w0 := ws.1, w1 := ws.2 }

/-- A thread whose wait of some kind is over goes on at the next word. One that stood there when its wave took a trap goes
on there when the handler returns (R256; DEDUCED, log 38). -/
def Thread.released (th : Thread) (p : Wait → Bool) : Thread :=
  let th :=
    if p th.stood && !th.stood.isJoin then
      { th with stood := .none, tepc := if th.tepc == th.stoodPc then th.tepc + 8 else th.tepc }
    else th
  if p th.wait then { th with wait := .none, pc := th.pc + 8 } else th

/-- Lets threads go on past the one-word instruction at which they wait in some way. -/
def State.release (s : State) (wid : Nat) (lanes : Lanes) (p : Wait → Bool) : State :=
  s.modWave wid (fun w => (lanesOf lanes).foldl (fun w t => w.modThread t (fun th =>
    if th.exited then th else th.released p)) w)

/-! ### The issue -/

/-- The issue in progress: the issue, the wave before it, and its executing threads. -/
structure Run where
  c  : Issue
  w  : Wave
  ex : Lanes
deriving DecidableEq, Repr

/-- The threads of the group whose guard passes (R50, R106). -/
def State.executing (s : State) (c : Issue) (w : Wave) (g : Guard) : Lanes :=
  maskOf ((lanesOf c.lanes).filter (fun t => (w.thread t).present && !(w.thread t).exited && s.guardHolds w g t))

def State.run? (s : State) (i : Instr) : Option Run :=
  match s.cur with
  | none => none
  | some c =>
    match s.wave? c.wid with
    | none => none
    | some w => some { c, w, ex := s.executing c w (guardOf i) }

/-- A trap that names the issue's instruction (DEDUCED, log 27). -/
def Run.trap (r : Run) (cause : Nat) (mask : Lanes) : TrapInfo :=
  { cause, mask, pc := r.c.pc, w0 := r.c.w0, w1 := r.c.w1 }

/-- A precise trap of the issue: its group runs the instruction again (R375). -/
def State.precise (s : State) (r : Run) (i : TrapInfo) : State :=
  s.takeTrap r.c.wid r.c.lanes (fun _ => r.c.pc) i

/-- The lowest thread of the issue group. -/
def Run.lowestLane (r : Run) : Nat := (lowest r.c.lanes).getD 0

/-- The lowest executing thread. -/
def Run.low (r : Run) : Nat := (lowest r.ex).getD 0

/-- Registers that the instruction names, the ones of other rates among them (R31). -/
def namedRegs (i : Instr) : List Nat :=
  readRegs i ++ writeRegs i ++ (match i with
    | .hread o => groupAt o.sb 1
    | .interp o => groupAt o.sa 1
    | .rgn o => (rgnRuns o.w1).flatMap (fun r => (List.range r.2).map (fun k => r.1 + k))
    | .ld o | .st o => [o.d.toNat + o.size.regs - 1]
    | _ => [])

/-- The privileged opcodes, by number (R52, R415). -/
def privilegedOpc (n : Nat) : Bool := n == 0xE2 || n == 0xE4 || n == 0xEB || n == 0xEC || n == 0xF0

/-- Legal rates of a program's kind (R16). -/
def rateLegal (isDraw : Bool) (rate : Nat) : Bool := if isDraw then rate != 0 else decide (rate ≤ 4)

/-- The waits that belong to the engine operations (R145). -/
def engineWait : Instr → Bool
  | .opfence _ | .mwait _ => true
  | _ => false

/-- Opcodes that the wave's place closes to it at decode (R145, R194, R199, R200, R295, R301, R324). CHAIN in a
task or draw wave is closed too (DESIGN CHOICE, log 115). -/
def State.placeOk (s : State) (w : Wave) (i : Instr) : Bool :=
  let lnch := s.launchOf w
  let ordinary := w.kind == .compute || w.kind == .coarse
  (w.kind != .access || accessOk i) && (!drawOnly i || s.isDrawProg w) &&
  (match i with
   | .ldq _ => w.kind == .access
   | .faddo _ => ordinary && !s.isControl w && ((lnch.map (fun l => l.2.obj.ordered)).getD false)
   | .chain _ => ordinary
   | .hread o => (s.obj w).hold.any (fun e => e.vis && (groupAt o.sb 1).contains e.reg)
   | _ => (!isEngine i && !engineWait i) || s.isDrawProg w || w.rate == 0)

/-- The checks of R52 on a decoded instruction, in its order; none where they pass. -/
def State.decodeCheck (s : State) (c : Issue) (w : Wave) (i : Instr) : Option Nat :=
  let h := hdrOf i
  let isDraw := s.isDrawProg w
  let n := (s.allot w).n
  let rows := (s.allot w).rows
  if lenOf i == 2 && c.pc.toNat % 64 == 56 then some 0x01
  else if !rateLegal isDraw h.rate.toNat then some 0x01
  else if privileged i && !s.isPriv w then some 0x02
  else if !fieldsOk i || (namedRegs i).any (fun r => decide (n ≤ r)) || !s.placeOk w i ||
      ((accRows i).any (fun a => decide (rows < a.1 + a.2))) then some 0x01
  else if groupsClash i then some 0x0E
  else if (writeRegs i).any (fun r => s.homeOf w r != w.rate) ||
      (readRegs i).any (fun r => !homeReadOk isDraw (s.homeOf w r) w.rate) || !ratesOk i w.rate ||
      (match i with | .interp o => (groupAt o.sa 1).any (fun r => s.homeOf w r != 4) | _ => false) then some 0x13
  else none

/-! ### Scoreboard and queues (R55, R239) -/

/-- An entry's destination is still to be written for one of the lanes. -/
def Entry.pendingFor (e : Entry) (lanes : Lanes) : Bool := e.st != .fault && (e.exec &&& lanes) != 0

/-- A register is an outstanding result for one of the lanes. -/
def Wave.outstanding (w : Wave) (lanes : Lanes) (r : Nat) : Bool :=
  w.mitten.any (fun e => e.dest.contains r && e.pendingFor lanes)

/-- Queues named for popping or peeking. -/
def queuesOf (i : Instr) : List Nat :=
  (srcsOf i).filterMap (fun e => match e.1 with | .pop q | .peek q => some q.toNat | _ => none)

/-- A queue lacks an entry that the instruction takes (R46). -/
def Wave.queueShort (w : Wave) (i : Instr) : Bool :=
  (queuesOf i).any (fun q =>
    let need := max 1 (popsOf (srcsOf i) q)
    decide (need ≤ (w.queue q).depth) && (((w.queue q).entries.take need).length < need ||
      ((w.queue q).entries.take need).any (·.isNone)))

/-- An entry that the instruction takes has not been pushed or reserved: the whole wave stalls (R46). -/
def Wave.queueEmpty (w : Wave) (i : Instr) : Bool :=
  (queuesOf i).any (fun q =>
    let need := max 1 (popsOf (srcsOf i) q)
    decide (need ≤ (w.queue q).depth) && decide ((w.queue q).entries.length < need))

/-- An instruction names more entries of a queue than QCTL has bound (R31, R46). -/
def Wave.beyondQueue (w : Wave) (i : Instr) : Bool :=
  (queuesOf i).any (fun q => decide ((w.queue q).depth < max 1 (popsOf (srcsOf i) q)))

/-- A copy of the wave is in flight. -/
def Wave.copies (w : Wave) : Bool := w.mitten.any (fun e => e.isCopy && e.st != .fault)
/-- An engine operation of the wave has not committed. -/
def Wave.engineBusy (w : Wave) : Bool := w.mitten.any (fun e => isEngine e.ins && e.st != .fault)

/-- The tag register that LD and ST use for lanes whose pointer is in space 0x4 (R189). -/
def State.tagRegs (s : State) (i : Instr) (r : Run) : List Nat :=
  match i with
  | .ld o | .st o =>
    if (lanesOf r.ex).any (fun t => spaceOf ((s.srcVals r.w i t).getD 0 0) == 4) then [o.d.toNat + o.size.regs] else []
  | _ => []

/-- What takes an entry, other than stores and blends, waits until its threads' blends have been sent, so that a thread's
load sees its own target writes (R173; DEDUCED, log 65). -/
def Wave.blendsOwed (w : Wave) (lanes : Lanes) (i : Instr) : Bool :=
  !((i matches .st _) || (i matches .pxout _)) &&
  w.mitten.any (fun e => (e.ins matches .pxout _) && e.st == .issued && e.exec &&& lanes != 0)

/-- The waits that every instruction has before it issues: scoreboard, queue entries, a Mitten entry (R239). -/
def State.commonWait (s : State) (i : Instr) (r : Run) : Bool :=
  let w := r.w
  ((takesEntry i || (i matches .waitm _) || (i matches .vwait _)) && w.blendsOwed r.c.lanes i) ||
  (readRegs i ++ writeRegs i).any (w.outstanding r.c.lanes) || w.queueShort i ||
  (takesEntry i && decide (64 ≤ w.mitten.length)) || (s.tagRegs i r).any (w.outstanding r.c.lanes)

/-! ### Issue checks -/

/-- The undersized uses of a thread (R56): the flights in question. -/
def undersizedUses (i : Instr) (extra : List Nat) (executes : Bool) (th : Thread) : List Pend :=
  let uses := (if executes then extra ++ readRegs i ++ writeRegs i ++ (writeConds i ++ readConds i).map (256 + ·) else []) ++
    (match guardOf i with | .cond _ c => [256 + c.toNat] | .always => [])
  th.pend.filter (fun p => decide (p.dist < p.lat) && uses.contains p.reg)

/-- Stall-count checking is on (R57). -/
def State.stallChecked (s : State) (w : Wave) : Bool :=
  s.isDet w || ((s.ctx? w.ctx).map (fun c => c.ctxctl.getLsbD 0)).getD true

/-- Words as bytes, padded with zeros to a multiple of 64. -/
def pad64 (bs : List Byte) : List Byte := bs ++ List.replicate ((64 - bs.length % 64) % 64) 0

def wordBytes (l : List Word) : List Byte := l.flatMap (fun v => toBytes 8 v.toNat)

/-- One value of each lane, moved by SIZE (DEDUCED, log 26). -/
def laneData (n : Nat) (e : Entry) (f : List Word → List Word) : List Byte :=
  (List.range 32).flatMap (fun t =>
    let bs := wordBytes (f ((aget? e.vals t).getD []))
    (bs ++ List.replicate (n - bs.length) 0).take n)

/-- The operand block of an entry (R384; DEDUCED, log 26). -/
def Entry.operands (e : Entry) : List Byte :=
  let eas := wordBytes ((List.range 32).map (fun t => (aget? e.ea t).getD 0))
  let lowest := (((e.vals.head?).map Prod.snd).getD []).take 4
  match e.ins with
  | .ld _ | .ldq _ => pad64 eas
  | .st o => pad64 (eas ++ laneData o.size.bytes e id)
  | .stt _ => pad64 (eas ++ laneData 128 e (·.take 16))
  | .pxout _ => pad64 (eas ++ laneData 24 e id)
  | .atom o | .red o | .redb o | .faddo o | .chain o => pad64 (eas ++ laneData o.size.bytes e (·.take 1))
  | .atomc o => pad64 (eas ++ laneData o.size.bytes e (·.take 1) ++ laneData o.size.bytes e (·.drop 1))
  | .tspawn _ | .tdep _ | .tdepWatch _ | .tdec _ | .ttime _ | .rspawn _ | .vqdec _ | .qnt _ | .tex _ | .boxt _ | .trit _ | .hread _ =>
    wordBytes ((List.range 32).flatMap (fun t => (List.range 3).map (fun k => ((aget? e.vals t).getD []).getD k 0)))
  | .ldt _ | .pref _ => pad64 eas
  | i => if isEngine i then [] else pad64 (wordBytes (lowest ++ List.replicate (4 - lowest.length) 0) ++ e.record64)

/-- The 64-byte Mitten record (R383), as eight words (DEDUCED, log 26). -/
def Entry.words (w : Wave) (e : Entry) : List Word :=
  let tag := (w.ctx % 64) * 2 ^ 26 + (w.slot % 2 ^ 14) * 2 ^ 12 + e.seq % 4096
  let cls := match e.cls with | .i => 0 | .t => 1 | .s => 2
  let st := match e.st with | .issued => 0 | .sent => 1 | .partly => 2 | .fault => 3
  let oplen := e.operands.length / 64
  let progress := e.copySeq % 1024 + (if e.reissued then 1024 else 0) + e.cursor % 2048 * 2048
  [e.pc, e.w0, e.w1,
   BitVec.ofNat 64 (tag + (cls + 4 * st) * 2 ^ 32 + e.kind * 2 ^ 40 + e.orig * 2 ^ 48 + oplen * 2 ^ 56),
   BitVec.ofNat 64 (e.exec.toNat + e.done.toNat * 2 ^ 32), BitVec.ofNat 64 progress, e.addr, 0]

/-- The address that a deferred fault names: the lowest failing lane's, or the entry's where it has none for each lane
(DEDUCED, log 77). -/
def Entry.faultAddr (e : Entry) : Word :=
  (((lowest (e.exec &&& ~~~e.done)).bind (fun t => aget? e.ea t))).getD e.addr

/-- A deferred fault of an entry, raised at a wait (R368, R370). -/
def Entry.deferred (w : Wave) (e : Entry) : TrapInfo :=
  { cause := 0x14, mask := e.exec &&& ~~~e.done, pc := e.pc, info := BitVec.ofNat 64 e.orig, addr := e.faultAddr
    deferred := true, trec := e.words w, w0 := e.w0, w1 := e.w1 }

/-- Delivers an entry's deferred fault: the entry is freed and the waiting group resumes at its wait (R375). -/
def State.deliver (s : State) (wid : Nat) (group : Lanes) (pc : Word) (e : Entry) : State :=
  match s.wave? wid with
  | none => s
  | some w =>
    (s.modWave wid (fun w => { w with mitten := w.mitten.filter (fun x => x.seq != e.seq) })).takeTrap wid group
      (fun _ => pc) (e.deferred w)

/-- A fault that a wait of the wave may deliver: none inside its handler (R374). -/
def Wave.deliverable (w : Wave) (e : Entry) : Bool := e.st == .fault && !w.trap.inHandler

/-- A fault that waits for the first reader of its destination (R192). -/
def Wave.failedReader (w : Wave) (i : Instr) (lanes : Lanes) : Option Entry :=
  w.mitten.find? (fun e => w.deliverable e && (e.exec &&& lanes) != 0 && (readRegs i).any (e.dest.contains ·))

/-- The pc of the load that poisoned an operand of an instruction for thread t (R373). -/
def State.operandPoison (s : State) (w : Wave) (i : Instr) (data : List Nat) (t : Nat) : Option Word :=
  match data.findSome? (s.poisonOf w t) with
  | some p => some p
  | none => (List.range (srcsOf i).length).findSome? (w.srcPoison t (srcsOf i))

/-- The checks between the waits and the effect: undersized stall counts (0x07), poisoned operands (0x16), a failed
atomic's reader (0x14), unbound queues (0x12). MOV moves a poison mark and does not consume it (R373)
(DEDUCED, log 25). -/
def State.issueCheck (s : State) (i : Instr) (r : Run) : Option State :=
  let w := r.w
  let tags := s.tagRegs i r
  let late := (lanesOf r.c.lanes).filter (fun t =>
    (undersizedUses i tags (r.ex.getLsbD t) (w.thread t)) != [])
  let data := readRegs i ++ (if i matches .st _ then tags else [])
  let mark := s.operandPoison w i data
  let bad := (lanesOf r.ex).filter (fun t => (mark t).isSome)
  match late, s.stallChecked w with
  | t :: _, true =>
    let p := (undersizedUses i tags (r.ex.getLsbD t) (w.thread t)).headD { reg := 0, old := 0, dist := 0, lat := 0, pc := 0 }
    some (s.precise r { r.trap 0x07 (maskOf late) with
      addr := p.pc, info := BitVec.ofNat 64 (p.dist % 256 + 256 * p.lat) })
  | _, _ =>
    if bad != [] && !(i matches .mov _) then
      let t := bad.headD 0
      let src := (mark t).getD 0
      let ws := s.instrWords w src
      some (s.precise r { r.trap 0x16 (maskOf bad) with pc := src, w0 := ws.1, w1 := ws.2 })
    else
      match w.failedReader i r.ex with
      | some e => some (s.deliver r.c.wid r.c.lanes r.c.pc e)
      | none =>
        if r.ex != 0 && w.beyondQueue i then some (s.precise r (r.trap 0x12 r.ex))
        else none

/-! ### What an issue leaves -/

/-- Removes the popped entries (R46). -/
def Wave.popAll (w : Wave) (i : Instr) : Wave :=
  { w with queues := w.queues.mapIdx (fun q x => { x with entries := x.entries.drop (popsOf (srcsOf i) q) }) }

/-- A thread after an issue of its group: distances grow by 1 + STALL (R56), the next issue waits for the stall. -/
def Thread.advance (th : Thread) (stall clk : Nat) (pc : Word) (source : Option Word) : Thread :=
  { th with
    pc, source, readyAt := clk + stall + 1
    pend := (th.pend.map (fun p => { p with dist := p.dist + stall + 1 })).filter (fun p => decide (p.dist < p.lat)) }

/-- A wave after an issue of some of its lanes: retirement, issue turn, queue pops and the Y hint (R42, R240, R241). -/
def Wave.issueDone (w : Wave) (i : Instr) (lanes : Lanes) (det : Bool) (clk : Nat) : Wave :=
  { w.popAll i with
    retired := w.retired + 1
    lastLane := (lowest lanes).getD 31
    overdue := w.overdue.filter (fun e => !lanes.getLsbD e.1)
    readySince := w.readySince.filter (fun e => !lanes.getLsbD e.1)
    yieldAt := if (hdrOf i).y && opcode i / 32 != 5 && !det then clk + 1 else w.yieldAt }

/-- The port through which a wave issues: its core's access front end (R294), or its quadrant. -/
def Wave.port (w : Wave) : Nat := 5 * w.core + (if w.kind == .access then 0 else w.quad + 1)

/-- The bookkeeping of one issue: its wave, the partition's issue slots, free values, the quadrant's issue slot. -/
def State.account (s : State) (i : Instr) (r : Run) : State :=
  let s := (s.modWave r.c.wid (fun w => w.issueDone i r.c.lanes (s.isDet w) s.dev.clk)).stepUsed r.c.wid
  let s := match (s.ctx? r.w.ctx).map (·.part) with
    | some p => s.modPart p (fun p => { p with used := p.used + 1 })
    | none => s
  { s.useFree with cur := none, issued := s.issued ++ [r.w.port] }

/-- The threads of a group that have not exited go on, each to its next pc. -/
def Wave.advanceAll (w : Wave) (i : Instr) (lanes : Lanes) (clk : Nat) (next : Nat → Word × Option Word) : Wave :=
  (lanesOf lanes).foldl (fun w t => w.modThread t (fun th =>
    if th.exited then th else th.advance (hdrOf i).stall.toNat clk (next t).1 (next t).2)) w

/-- Ends an issue whose threads go to `next`. -/
def State.finishTo (s : State) (i : Instr) (r : Run) (next : Nat → Word × Option Word) : State :=
  (s.modWave r.c.wid (fun w => w.advanceAll i r.c.lanes s.dev.clk next)).account i r

/-- The pc after an instruction (R39). -/
def nextPc (i : Instr) (r : Run) : Word := r.c.pc + BitVec.ofNat 64 (8 * lenOf i)

/-- Ends an issue whose threads go on at the next pc. -/
def State.finish (s : State) (i : Instr) (r : Run) : State := s.finishTo i r (fun _ => (nextPc i r, none))

/-- Ends an issue whose executing threads stop at the instruction with a wait; the others go on. -/
def State.finishWait (s : State) (i : Instr) (r : Run) (wait : Nat → Wait) : State :=
  (s.modWave r.c.wid (fun w => (lanesOf r.ex).foldl (fun w t => w.modThread t (fun th => { th with wait := wait t })) w)).finishTo
    i r (fun t => if r.ex.getLsbD t then (r.c.pc, (r.w.thread t).source) else (nextPc i r, none))

/-- The whole issue of an instruction: checks of decode, waits, checks of issue, then its effect. -/
def State.issue (s : State) (i : Instr) (wait : State → Run → Bool) (body : State → Run → State) :
    Host.Outcome State Fault Refusal :=
  match s.run? i with
  | none => .next { s with cur := none }
  | some r =>
    match s.decodeCheck r.c r.w i with
    | some cause => .next (s.precise r (r.trap cause r.c.lanes))
    | none =>
      if s.commonWait i r || wait s r then .next { s with cur := none }
      else
        match s.issueCheck i r with
        | some s' => .next s'
        | none => .next (body s r)

def noWait (_ : State) (_ : Run) : Bool := false

/-! ### Lane-wise results -/

/-- A lane's results: registers and flags. -/
abbrev LaneRes := Nat × List (Nat × Word) × FFlags

/-- The registers of lane results written, with their tags and poison marks (R25, R107, R373). -/
def State.writeRegsOf (s : State) (i : Instr) (r : Run) (lat : Option Nat) (res : List LaneRes) : State :=
  let whole := r.ex == r.w.present
  s.modWave r.c.wid (fun w =>
    let w := res.foldl (fun w l => l.2.1.foldl (fun w x => s.writeLane lat r.c.pc w l.1 x.1 x.2) w) w
    match res with
    | [] => w
    | l :: _ => l.2.1.foldl (fun w x => (w.stamp x.1 (s.resultTag r.w i r.ex x.2) whole).derive x.1
        (s.dependent r.w i || (!whole && tget false w.loaded x.1))) w)

/-- Sets the flags of results, ends the issue, and traps where TRAPEN asks for it, after every result (R93, R94)
(DEDUCED, log 80). -/
def State.flagsAndFinish (s : State) (i : Instr) (r : Run) (fl : List (Nat × FFlags)) : State :=
  let all := fl.foldl (fun a x => a ||| x.2) 0
  let mask := maskOf ((fl.filter (fun x => r.w.trapping x.2 != 0)).map Prod.fst)
  let lat := if mask = 0 then latency i else none
  let s := (s.modWave r.c.wid (fun w => w.setFlags lat s.dev.clk r.c.lanes all)).finish i r
  if mask = 0 then s else s.takeTrap r.c.wid r.c.lanes (fun _ => nextPc i r) (r.trap 0x0F mask)

/-- The effect of a lane-wise instruction. -/
def State.commitRegs (s : State) (i : Instr) (r : Run) (res : List LaneRes) : State :=
  (s.writeRegsOf i r (latency i) res).flagsAndFinish i r (res.map (fun l => (l.1, l.2.2)))

/-- A lane-wise instruction: each executing thread computes from its sources (R106, R107). -/
def State.laneOp (s : State) (i : Instr) (f : State → Run → Nat → List Word → List (Nat × Word) × FFlags) :
    Host.Outcome State Fault Refusal :=
  s.issue i noWait (fun s r => s.commitRegs i r ((lanesOf r.ex).map (fun t => (t, f s r t (s.srcVals r.w i t)))))

/-- A lane-wise instruction that writes a condition register (R115, R117, R123). -/
def State.condOp (s : State) (i : Instr) (c : Nat) (f : State → Run → Nat → List Word → Bool × FFlags) :
    Host.Outcome State Fault Refusal :=
  s.issue i noWait (fun s r =>
    let res := (lanesOf r.ex).map (fun t => (t, f s r t (s.srcVals r.w i t)))
    (s.modWave r.c.wid (fun w => res.foldl (fun w x => s.writeCond (latency i) r.c.pc w x.1 c x.2.1) w)).flagsAndFinish
      i r (res.map (fun x => (x.1, x.2.2))))

/-! ### Mitten entries (R383) -/

/-- The lowest free entry of a wave. -/
def Wave.freeEntry (w : Wave) : Nat :=
  ((List.range 65).find? (fun k => !w.mitten.any (fun e => e.slot == k))).getD 64

/-- Adds an entry for the issue. -/
def Wave.addEntry (w : Wave) (e : Entry) : Wave :=
  { w with mitten := w.mitten ++ [{ e with slot := w.freeEntry, seq := w.seqNext }], seqNext := (w.seqNext + 1) % 4096 }

/-- An entry that its issue both takes and frees (R302). -/
def Wave.passEntry (w : Wave) : Wave := { w with seqNext := (w.seqNext + 1) % 4096 }

/-- The entry of an issue, its progress aside. -/
def Run.entry (r : Run) (i : Instr) (cls : MClass) (kind : Nat) : Entry :=
  { slot := 0, seq := 0, pc := r.c.pc, w0 := r.c.w0, w1 := r.c.w1, ins := i, cls, kind, exec := r.ex }

/-- Destination registers of an undersized write that keep the earlier result: a free choice (R57; DEDUCED, log 79). -/
def State.keptRegs (s : State) (w : Wave) (e : Entry) : List (Nat × Nat) :=
  (lanesOf e.exec).flatMap (fun t => (e.dest.filter (fun d =>
    (w.thread t).pend.any (fun p => p.reg == d && decide (p.dist < p.lat)) && s.freeBit (freeAt 29 t + d))).map (t, ·))

def State.addEntry (s : State) (r : Run) (e : Entry) : State :=
  s.modWave r.c.wid (fun w => w.addEntry { e with keeps := s.keptRegs w e, uni := oneResult e.ins && (s.resultTag r.w e.ins r.ex 0).isU })

/-- Changes the entry of a sequence number. -/
def Wave.modEntry (w : Wave) (seq : Nat) (f : Entry → Entry) : Wave :=
  { w with mitten := w.mitten.map (fun e => if e.seq == seq then f e else e) }
def Wave.dropEntry (w : Wave) (seq : Nat) : Wave := { w with mitten := w.mitten.filter (fun e => e.seq != seq) }
def Wave.entry? (w : Wave) (seq : Nat) : Option Entry := w.mitten.find? (fun e => e.seq == seq)

/-! ### Address checks of an instruction (R367) -/

/-- The lane whose check fails first in R367's order, with every lane that fails that check. -/
def worstFault (l : List (Nat × Flt)) : Option (Flt × List Nat) :=
  match l.foldl (fun (b : Option Flt) x =>
      match b with
      | none => some x.2
      | some y => if x.2.stage < y.stage then some x.2 else some y) none with
  | none => none
  | some f => some (f, (l.filter (fun x => x.2.stage == f.stage)).map Prod.fst)

/-- The trap of an address fault (R370, R371; DEDUCED, log 27; DEDUCED, log 78). -/
def Run.fltTrap (r : Run) (f : Flt) (kind : Nat) (mask : Lanes) (addr : Word) : TrapInfo :=
  { r.trap f.cause mask with
    addr, malformed := f.malformed, level := f.level
    info := if decide (3 ≤ f.cause) && decide (f.cause ≤ 6) then BitVec.ofNat 64 (if f.walkEntry then 6 else kind) else 0 }

/-- Raises the fault of a list of lane faults, if there is one: (lane, address, fault) (DEDUCED, log 27). -/
def State.raise (s : State) (r : Run) (kind : Nat) (l : List (Nat × Word × Flt)) : Option State :=
  match worstFault (l.map (fun x => (x.1, x.2.2))) with
  | none => none
  | some (f, lanes) =>
    match l.find? (fun x => x.2.2.stage == f.stage) with
    | none => none
    | some x => some (s.precise r (r.fltTrap x.2.2 kind (maskOf lanes) x.2.1))

/-- Fills the translation buffers for the addresses of an access (R349). -/
def State.touch (s : State) (ctx : Nat) (l : List Word) : State :=
  l.foldl (fun s p => if spaceOf p == 0 || spaceOf p == 4 || spaceOf p == 5 then s.fillTlb ctx (vaOf p) else s) s

end Sys2Proof.Machine
end

