-- ==== Sys2Proof/Machine/Access.lean ====
section
/-!
DEFINITION. The memory accesses of instructions: effective addresses (R188), the checks of every lane (R191, R367),
loads with forwarding from the store queue, the sending of stores (R173, R193), and the tag records of class T (R387).
-/

namespace Sys2Proof.Machine

/-! ### Addresses -/

/-- ea of R188: a base and a signed index with the offset, in units of the access size. -/
def eaOf (o : OpM) (v : List Word) : Word :=
  addrAdd (v.getD 0 0) ((v.getD 1 0 + o.off.signExtend 64) * BitVec.ofNat 64 o.size.bytes)

/-- Resolves the accesses of lanes, (lane, address) each: the faults, and the locations. -/
def State.resolveAll (s : State) (w : Wave) (acc : Acc) (spaces : List Nat) (size align : Nat) (l : List (Nat × Word)) :
    List (Nat × Word × Flt) × List (Nat × Loc) :=
  l.foldr (fun x p =>
    match s.resolve w acc spaces size align x.2 (freeAt 300 x.1) with
    | .error f => ((x.1, x.2, f) :: p.1, p.2)
    | .ok loc => (p.1, (x.1, loc) :: p.2)) ([], [])

/-- Checks the accesses of an issue: its precise fault, or its locations with the translation buffers filled. -/
def State.checked (s : State) (r : Run) (acc : Acc) (spaces : List Nat) (size align : Nat) (l : List (Nat × Word))
    (body : State → List (Nat × Loc) → State) : State :=
  let p := s.resolveAll r.w acc spaces size align l
  match s.raise r acc.kind p.1 with
  | some s' => s'
  | none => body (s.touch r.w.ctx (l.map Prod.snd)) p.2

/-- The (lane, address) pairs of an issue. -/
def State.addrs (s : State) (i : Instr) (r : Run) (f : List Word → Word) : List (Nat × Word) :=
  (lanesOf r.ex).map (fun t => (t, f (s.srcVals r.w i t)))

/-! ### Loads -/

/-- The bytes of a store entry's lane. -/
def Entry.storeBytes (e : Entry) (t : Nat) : List Byte :=
  let n := match e.ins with
    | .st o => o.size.bytes
    | _ => 128
  (((aget? e.vals t).getD []).flatMap (fun v => toBytes 8 v.toNat)).take n

/-- Distance from one location to another of the same memory, if there is one. -/
def Loc.offset : Loc → Loc → Option Int
  | .mem a, .mem b => some ((b : Int) - a)
  | .spad g a, .spad h b => if g = h then some ((b : Int) - a) else none
  | .node n a, .node m b => if n = m then some ((b : Int) - a) else none
  | _, _ => none

/-- Bytes `new` at a distance from the start of `old` laid over it. -/
def overlay (old : List Byte) (d : Int) (new : List Byte) : List Byte :=
  old.mapIdx (fun i b => if d ≤ i ∧ (i : Int) < d + new.length then new.getD (i - d).toNat b else b)

/-- The data of a tile store: lane k's 128 bytes at 128 × k (R204). -/
def Entry.tileBytes (e : Entry) : List Byte :=
  (List.range 32).flatMap (fun k => if e.exec.getLsbD k then e.storeBytes k else List.replicate 128 0)

/-- What a store of the wave writes for thread t: its own lane, or the tile that the whole wave stores. -/
def Entry.ownWrite (e : Entry) (t : Nat) : Option (Loc × List Byte) :=
  match e.ins with
  | .st _ => (aget? e.loc t).map (fun p => (p, e.storeBytes t))
  | .stt _ => e.loc.head?.map (fun x => (x.2, e.tileBytes))
  | _ => none

/-- A thread's load sees its own stores that are still in the FIFO (R173). -/
def Wave.forward (w : Wave) (t : Nat) (l : Loc) (bs : List Byte) : List Byte :=
  w.mitten.foldl (fun bs e =>
    if e.st == .issued then
      match e.ownWrite t with
      | some p =>
        match l.offset p.1 with
        | some d => overlay bs d p.2
        | none => bs
      | none => bs
    else bs) bs

/-- The block tag of a location, as thread t sees it (R84, R85; DESIGN CHOICE, log 2). -/
def State.tagAt (s : State) (w : Wave) (t : Nat) (l : Loc) : Word :=
  match l.pa? with
  | some pa =>
    w.mitten.foldl (fun v e =>
      match e.ins with
      | .st o =>
        if e.st == .issued && spaceOf ((aget? e.ea t).getD 0) == 4 &&
            (((aget? e.loc t).bind Loc.pa?).map (fun q => q / 64 == pa / 64)).getD false then
          (((aget? e.vals t).getD []).getD o.size.regs 0) &&& 0xFFFF
        else v
      | _ => v) ((tget 0 s.btags (pa / 64)).setWidth 64)
  | none => 0

/-- How a thread's load looks at memory: under DET, and through space 0x4, whose data and tag are one unit (R85), at the
newest writes; else at what its core has seen, after a dependency or not (R175; DESIGN CHOICE, log 91). -/
def State.viewOf (s : State) (w : Wave) (i : Instr) (p : Word) : Option Bool :=
  if s.isDet w || spaceOf p == 4 then none else some (s.dependent w i)

/-- The bytes that thread t loads; a node that refuses gives none (DESIGN CHOICE, log 9). -/
def State.loadBytes (s : State) (w : Wave) (t : Nat) (l : Loc) (n : Nat) (view : Option Bool) : Option (List Byte) :=
  (match l, view with
   | .mem pa, some dep => some (s.viewPa w.core dep pa n (freeAt 312 t))
   | _, _ => s.readLoc w.ctx l n (freeAt 310 t)).map (w.forward t l)

/-- What the core of a load has seen after it (R171). -/
def State.afterLoad (s : State) (w : Wave) (t : Nat) (l : Loc) (n : Nat) (view : Option Bool) : State :=
  match l, view with
  | .mem pa, some dep => s.afterView w.core dep pa n (freeAt 312 t)
  | .mem pa, none => let ks := s.placeWords pa n; s.sees w.core (fun h => ks.contains h.word)
  | _, _ => s

/-- The journal records that a core has issued happen before what acquires its release (R422; DEDUCED, log 53). -/
def State.releaseRecords (s : State) (core : Nat) : State :=
  if s.ctxs.all (fun e => e.2.journal.isNone) then s
  else
    { s with ctxs := s.ctxs.map (fun e => (e.1, { e.2 with journal := e.2.journal.map (fun j =>
        { j with recs := j.recs.map (fun r => if r.core == core then { r with rel := true } else r) }) })) }

/-- A release of a wave at a scope: for other cores (R176), for the matrix engines of other workgroups (R164) and for the
records of the journal (R422). -/
def State.releaseAs (s : State) (w : Wave) (scope : Nat) : State :=
  let s := (s.push w.core scope).releaseRecords w.core
  if scope < 2 || w.loose.isEmpty then s
  else s.modWave (widOf w.ctx w.slot) (fun w => { w with loose := w.loose.map (fun x => { x with rel := max x.rel scope }) })

/-- The release of a format M instruction, if it is one (R176). -/
def State.releaseBy (s : State) (w : Wave) (o : OpM) : State := if o.ord.isRel then s.releaseAs w o.scope.num else s

/-- The acquire of a format M instruction, if it is one (R176). -/
def State.acquireBy (s : State) (w : Wave) (o : OpM) : State := if o.ord.isAcq then s.acquire w.core o.scope.num else s

/-- Splits bytes into registers of eight bytes, the last filled with zeros (R189). -/
def wordsOf (n : Nat) (bs : List Byte) : List Word := (List.range n).map (fun i => leWord ((bs.drop (8 * i)).take 8))

/-! ### Flits from other nodes (R406) -/

/-- A flit has come from a node. -/
def State.hear (s : State) (node : Nat) : State :=
  { s with ctxs := s.ctxs.map (fun (e : Nat × Ctx) => (e.1, { e.2 with journal := e.2.journal.map (fun j =>
      if j.partner == node then { j with heard := s.dev.clk } else j) })) }

/-- The nodes that an entry's accesses reach. -/
def State.farNodes (s : State) (w : Wave) (e : Entry) : List Nat :=
  let ptrs := if e.isCopy then ((e.vals.head?.map Prod.snd).getD []).filter (fun p => spaceOf p == 3) else []
  (e.loc.map Prod.snd ++ (s.resolveAll w accLoad [3] 1 1 (ptrs.map (fun p => (0, p)))).2.map Prod.snd).filterMap (fun l =>
    match l with
    | .node n _ => some n
    | _ => none)

/-- The port by which a node outside this S9 is reached retrains, and carries nothing (R411; DESIGN CHOICE, log 40). -/
def State.portBusy (s : State) (eth : Bool) (node : Nat) : Bool :=
  (s.partOfNode node).isNone &&
  (if eth then s.dev.ethernet[Config.portOf node % 32]? else s.dev.fabric[Config.portOf node % 18]?).any (·.retraining)

/-- Some port retrains. -/
def State.retrains (s : State) : Bool := s.dev.fabric.any (·.retraining)

/-- An entry's traffic waits for a port. -/
def State.farBusy (s : State) (w : Wave) (e : Entry) : Bool := s.retrains && (s.farNodes w e).any (s.portBusy false)

/-- The responses that complete an entry are flits of their nodes. -/
def State.heardFrom (s : State) (w : Wave) (e : Entry) : State := (s.farNodes w e).foldl State.hear s

/-! ### Class T records (R386, R387) -/

def tagWord (w : Wave) (seq : Nat) : Nat := w.ctx % 64 * 2 ^ 26 + w.slot % 2 ^ 14 * 2 ^ 12 + seq % 4096

/-- The memory side that serves a location: its 64-byte block. -/
def Loc.store : Loc → Nat
  | .mem a => a / 64
  | .spad _ a => a / 64
  | .node _ a => a / 64
  | .comp a => a / 64
  | .closed a _ => a / 64

/-- The HBM channel of a physical address, 32 × stack + channel (R440); none for the CXL tier. -/
def channelOf (pa : Nat) : Option Nat :=
  let f := pa % Config.dieBytes / 65536
  if pa / Config.dieBytes < 4 then some (32 * (3 * (pa / Config.dieBytes) + f % 3) + f / 3 % 32) else none

/-- The tag store that a T access reaches (R387): ATOM, ATOMC and RED are performed at the last-level cache, whose slice
is the issuing lantern's, and so is what lies in the CXL tier; the others reach the HBM channel (DESIGN CHOICE, log 102). -/
def State.tagPlace (s : State) (w : Wave) (i : Instr) (l : Loc) : Option Nat :=
  let slice := 1000 + w.core / 24
  match l.pa? with
  | none => none
  | some pa =>
    match i with
    | .atom _ | .atomc _ | .red _ => some slice
    | _ => some ((channelOf (s.place? pa)).getD slice)

/-- Tag stores whose 4,096 entries are all in use (R387). -/
def State.fullPlaces (s : State) : List Nat :=
  let l := s.tagrecs.filterMap (·.place)
  if l.length < 4096 then [] else l.eraseDups.filter (fun c => decide (4096 ≤ l.count c))

/-- A T access finds room in the tag stores that it reaches. -/
def State.tagRoom (s : State) (w : Wave) (i : Instr) (l : List Loc) : Bool :=
  let full := s.fullPlaces
  full.isEmpty || l.all (fun x => ((s.tagPlace w i x).map (fun c => !full.contains c)).getD true)

/-- Tag stores that would keep more than 3,072 pinned records (R387). -/
def State.surplusPlaces (s : State) : List Nat :=
  let l := (s.tagrecs.filter (·.pinned)).filterMap (·.place)
  l.eraseDups.filter (fun c => decide (3072 < l.count c))

def State.pinSurplus (s : State) : Bool := !s.surplusPlaces.isEmpty

/-- The newest pinned record of a tag store that would keep too many has a tag: its result returns first (R387). -/
def State.surplusTag (s : State) (tag : Nat) : Bool :=
  s.surplusPlaces.any (fun c => ((s.tagrecs.filter (fun r => r.pinned && r.place == some c)).getLast?.map (·.tag)) == some tag)

/-- A T access was sent to a node that is not an S9, which keeps no tags (R388). -/
def State.tagless (s : State) (e : Entry) : Bool :=
  e.cls == .t && (e.st == .sent || e.st == .partly) && e.loc.any (fun x =>
    match x.2 with
    | .node n _ => (s.partOfNode n).isNone && !Config.nodeIsS9 n
    | _ => false)

/-- Records a T access where it is performed. -/
def State.noteTag (s : State) (w : Wave) (i : Instr) (seq : Nat) (l : List Loc) : State :=
  { s with tagrecs := s.tagrecs ++ (l.map (fun x => (x.store, s.tagPlace w i x))).eraseDups.map (fun k =>
      { store := k.1, tag := tagWord w seq, ctx := w.ctx, place := k.2 }) }

/-- Frees the records of a T access whose result the core has. -/
def State.dropTag (s : State) (w : Wave) (seq : Nat) : State :=
  { s with tagrecs := s.tagrecs.filter (fun r => r.tag != tagWord w seq) }

/-! ### Sending stores (R173, R193) -/

/-- The core whose writes other cores need not see at once: none under DET (R243). -/
def State.writer (s : State) (w : Wave) : Option Nat := if s.isDet w then none else some w.core

/-- The write of one lane of a store: the state, or the cause that it meets at the memory side (R191). -/
def State.storeLane (s : State) (ctx : Nat) (core : Option Nat) (l : Loc) (bs : List Byte) : Except Nat State :=
  let s := s.cure ((l.pa?.map (fun pa => (pa, bs.length))).toList)
  if s.badLoc l bs.length then .error 0x16
  else
    let s := match l, core with
      | .mem pa, some c => s.hideFrom c pa bs.length
      | _, _ => s
    match s.writeLoc ctx l bs with
    | some s => .ok s
    | none => .error 0x05

/-- One sample at the blend stage: the state, or the cause that a target met (R282). -/
def State.blendSample (s : State) (w : Wave) (d : DrawUnit) (e : Entry) (t : Nat) (colour : Loc) : Except Nat State :=
  let n := colourBytes d.cfmt
  let v := (aget? e.vals t).getD []
  let ch := fun (r k : Nat) => fmtF32.value (sub (v.getD r 0) k 32)
  let z := (v.getD 2 0).toNat
  let put := fun (s : State) (k : Nat) (l : Loc) (bs : List Byte) =>
    (s.storeLane w.ctx (s.writer w) l bs).map (fun s => s.freeTags ((aget? e.ea k).getD 0) l bs.length)
  let write := fun (s : State) =>
    if s.badLoc colour n then .error 0x16
    else put s t colour (blendBytes d.cfmt d.blend [ch 0 0, ch 0 1, ch 1 0, ch 1 1]
      (readColour d.cfmt ((s.readLoc w.ctx colour n (freeAt 345 0)).getD [])))
  match aget? e.loc (t + 32) with
  | none => write s
  | some l =>
    if s.badLoc l 4 then .error 0x16
    else if depthPasses d.depth (fmtF32.value z) (fmtF32.value (leNat ((s.readLoc w.ctx l 4 (freeAt 344 0)).getD []))) then
      match write s with
      | .error c => .error c
      | .ok s => put s (t + 32) l (toBytes 4 z)
    else .ok s

/-- The version word of a tile location (DESIGN CHOICE, log 2). -/
def State.version (s : State) (l : Loc) : Word := (l.pa?.map (fun pa => tget 0 s.vers (pa / 4096))).getD 0

def State.setVersion (s : State) (l : Loc) (v : Word) : State :=
  match l.pa? with
  | some pa => { s with vers := tset 0 s.vers (pa / 4096) v }
  | none => s

/-- What a tile store makes of a version word (R204). -/
def storedVersion (sb old : Word) : Word := (sb &&& 0x80000000FFFFFFFF) ||| (old &&& 0x4000000000000000)

/-- SB of a tile store. -/
def Entry.versionSb (e : Entry) : Word := ((aget? e.vals 0).getD []).getD 16 0

/-- The version word of a tile as the wave sees it: after its own tile stores that are still in the FIFO (R173). -/
def State.versionAt (s : State) (w : Wave) (l : Loc) : Word :=
  w.mitten.foldl (fun v e =>
    if e.st == .issued && (e.ins matches .stt _) && e.loc.head?.map Prod.snd == some l then storedVersion e.versionSb v else v)
    (s.version l)

/-- Keeps the words that a store of a wave replaces, for the matrix engines, which need not see it before an OPFENCE
(R164). -/
def State.loosen (s : State) (w : Wave) (l : Loc) (n : Nat) : State :=
  if s.isDet w then s
  else
    s.modWave (widOf w.ctx w.slot) (fun v => (l.wordsOf n).foldl (fun v x =>
      if v.loose.any (fun y => y.loc == x && y.rel == 0) then v
      else { v with loose := v.loose ++ [{ loc := x, old := leWord ((s.readLoc w.ctx x 8 0).getD []) }] }) v)

/-- Performs one lane of a store entry. -/
def State.sendLane (s : State) (w : Wave) (e : Entry) (t : Nat) : Except Nat State :=
  match aget? e.loc t, e.ins with
  | some l, .st o =>
    match (s.loosen w l o.size.bytes).storeLane w.ctx (s.writer w) l (e.storeBytes t) with
    | .error c => .error c
    | .ok s =>
      if spaceOf ((aget? e.ea t).getD 0) == 4 then
        .ok (s.setTags l o.size.bytes ((((aget? e.vals t).getD []).getD o.size.regs 0).setWidth 16))
      else .ok s
  | some l, .stt _ =>
    -- the whole tile and its version word as one unit (R204)
    match (s.loosen w l 4096).storeLane w.ctx (s.writer w) l e.tileBytes with
    | .error c => .error c
    | .ok s => .ok (s.setVersion l (storedVersion e.versionSb (s.version l)))
  | some l, .pxout _ =>
    -- a release at gang scope: the end of the turn (R279; DEDUCED, log 65)
    match s.draw? w.draw with
    | none => .ok s
    | some d => (s.blendSample w d e t l).map (fun s => s.push w.core 3)
  | _, _ => .ok s

/-- The lanes of a store entry that make accesses of their own. -/
def Entry.sends (e : Entry) : List Nat :=
  if e.ins matches .stt _ then (lanesOf e.exec).take 1 else lanesOf e.exec

/-- The ranges of device memory that a store writes. -/
def Entry.ranges (e : Entry) : List (Nat × Nat) :=
  (e.sends.filterMap (fun t => e.ownWrite t)).filterMap (fun x => x.1.pa?.map (fun pa => (pa, x.2.length)))

/-- Sends one store entry: each lane in ascending order (R174; DESIGN CHOICE, log 19), after the release that it may be.
A block that its lanes write whole is no longer uncorrectable (R412; DEDUCED, log 95). -/
def State.sendStore (s : State) (wid : Nat) (w : Wave) (e : Entry) : State :=
  let s := match e.ins with
    | .st o | .stt o => s.releaseBy w o
    | _ => s
  let s := s.cure e.ranges
  let p := (e.sends).foldl (fun (p : State × Lanes × Nat) t =>
    match p.1.sendLane w e t with
    | .ok s => (s, p.2)
    | .error c => (p.1, p.2.1 ||| 1#32 <<< t, c)) (s, (0, 0))
  let s := p.1.noteTag w e.ins e.seq ((e.sends ++ e.sends.map (· + 32)).filterMap (aget? e.loc))
  s.modWave wid (fun w => w.modEntry e.seq (fun e =>
    if p.2.1 = 0 then { e with st := .sent, cls := .t }
    else { e with st := .fault, cls := .t, orig := p.2.2, done := e.exec &&& ~~~p.2.1 }))

/-- A store entry still in the FIFO. -/
def Entry.inFifo (e : Entry) : Bool := e.cls == .s && e.st == .issued

/-- A store can be sent: the tag stores have room (R387), and its port carries traffic (R411). -/
def State.sendable (s : State) (w : Wave) (e : Entry) : Bool := s.tagRoom w e.ins (e.loc.map Prod.snd) && !s.farBusy w e

/-- The stores of a list, in order, as far as they can be sent. -/
def State.sendAll (s : State) (wid : Nat) (w : Wave) : List Entry → State
  | [] => s
  | e :: l => if s.sendable w e then (s.sendStore wid w e).sendAll wid w l else s

/-- Sends every store that is in a wave's FIFO, in order (DESIGN CHOICE, log 19). -/
def State.drainWave (s : State) (wid : Nat) : State :=
  match s.wave? wid with
  | none => s
  | some w => s.sendAll wid w (w.mitten.filter Entry.inFifo)

/-- Sends the oldest store of a wave's FIFO (DESIGN CHOICE, log 19); a frozen wave's stays (R187). -/
def State.drainOne (s : State) (wid : Nat) : State :=
  match s.wave? wid with
  | none => s
  | some w =>
    match (if w.frozen then none else w.mitten.find? Entry.inFifo) with
    | none => s
    | some e => if s.sendable w e then s.sendStore wid w e else s

end Sys2Proof.Machine
end

