-- ==== Sys2Proof/Machine/Place.lean ====
section
/-!
DEFINITION. Room on cores (R30, R235), the requests of ACQ and the return of REL (spec/02 R32-R34, spec/15 R311).
-/

namespace Sys2Proof.Machine

/-! ### What a core holds -/

/-- The code object of a workgroup or wave group. -/
def State.objOfWg (s : State) (g : Workgroup) : CodeObj :=
  match s.gang? g.gang with
  | none => {}
  | some a =>
    match s.launch? a.launch with
    | some l => l.obj
    | none => ((s.draw? a.launch).map (·.obj)).getD {}

/-- The allotment that a workgroup holds. -/
def State.allotOf (s : State) (g : Workgroup) : Allot := if g.full then (s.objOfWg g).full else (s.objOfWg g).prologue

/-- Waves of a workgroup on quadrant q: wave w is on quadrant (quad + w) mod 4 (R10). -/
def wavesOn (quad nwave q : Nat) : Nat := (nwave + 3 - (q + 4 - quad % 4) % 4) / 4

/-- What workgroups hold of one core: granules, and waves, slots, rows and queue entries of each quadrant. -/
def load (l : List (Allot × Nat × Nat)) (q : Nat) : Nat × Nat × Nat × Nat × Nat :=
  l.foldl (fun (p : Nat × Nat × Nat × Nat × Nat) x =>
    let k := wavesOn x.2.1 x.2.2 q
    (p.1 + x.1.spad, p.2.1 + k, p.2.2.1 + k * x.1.g, p.2.2.2.1 + k * x.1.rows, p.2.2.2.2 + k * x.1.q)) (0, 0, 0, 0, 0)

/-- Workgroups, as (allotment, first quadrant, waves), fit one core together. -/
def fitsCore (l : List (Allot × Nat × Nat)) : Bool :=
  (List.range 4).all (fun q =>
    let p := load l q
    decide (p.1 ≤ Config.granulesPerCore) && decide (p.2.1 ≤ Config.wavesPerQuadrant) &&
    decide (p.2.2.1 ≤ Config.slotsPerQuadrant) && decide (p.2.2.2.1 ≤ Config.rowsPerQuadrant) &&
    decide (p.2.2.2.2 ≤ Config.queueEntriesPerQuadrant))

/-- A gang holds its cores: it is admitted, or frozen and not yet saved. -/
def Gang.holds (a : Gang) : Bool := a.st == .admitted || a.st == .frozen

/-- What is on a core, but for some workgroups. -/
def State.onCore (s : State) (core : Nat) (except : Nat → Workgroup → Bool) : List (Allot × Nat × Nat) :=
  (s.wgs.filter (fun e => e.2.core == core && !except e.1 e.2 && ((s.gang? e.2.gang).map Gang.holds).getD false)).map
    (fun e => (s.allotOf e.2, e.2.quad, e.2.nwave))

/-- A core is active: its place of the ring has a physical core (R12) that is not failing (R399). -/
def State.activeCore (s : State) (core : Nat) : Bool :=
  ((s.lanterns[core / 24]?).map (fun l => l.ring.any (fun e => e.1 == core % 24) && !l.failing.contains (core % 24))).getD false

/-- An ACQ request waits on a core (R34). -/
def State.acqWaits (s : State) (core : Nat) : Bool :=
  s.wgs.any (fun e => e.2.core == core && !e.2.finished && ((s.gang? e.2.gang).map (fun a => a.acqAt.isSome && a.holds)).getD false)

/-- A core has room for one more workgroup (R235). -/
def State.coreFits (s : State) (core : Nat) (a : Allot) (quad nwave : Nat) : Bool :=
  s.activeCore core && !s.acqWaits core && fitsCore ((a, quad, nwave) :: s.onCore core (fun _ _ => false))

/-- The lanterns of a partition, ascending. -/
def State.partLanterns (s : State) (p : Nat) : List Nat :=
  ((s.parts[p]?).map (fun p => p.dies.flatMap (fun d => (List.range 4).map (4 * d + ·)))).getD []

/-- The ring positions of a lantern that have a core, ascending: a ring of their own where one is missing (R12, R399)
(DEDUCED, log 74). -/
def State.positions (s : State) (lan : Nat) : List Nat := ((s.lanterns[lan]?).map (fun l => l.ring.map Prod.fst)).getD []

/-- The cores of the n members of a gang from the i-th position of a lantern on. -/
def ringCores (lan : Nat) (ps : List Nat) (i n : Nat) : List Nat :=
  (List.range n).map (fun m => 24 * lan + ps.getD ((i + m) % max 1 ps.length) 0)

/-- The first placement of members, as (allotment, first quadrant, waves), on a lantern (R235): their cores. -/
def State.placeOn (s : State) (lan : Nat) (ms : List (Allot × Nat × Nat)) : Option (List Nat) :=
  let ps := s.positions lan
  if ps.length < ms.length then none
  else
    (List.range ps.length).findSome? (fun i =>
      let cs := ringCores lan ps i ms.length
      if (cs.zip ms).all (fun x => s.coreFits x.1 x.2.1 x.2.2.1 x.2.2.2) then some cs else none)

def State.partOfCtx (s : State) (ctx : Nat) : Nat := ((s.ctx? ctx).map (·.part)).getD 0

/-! ### ACQ (R32, R34) -/

/-- Places a gang's request once every member that has not finished has placed its own. -/
def State.placeAcq (s : State) (gk : Nat) : State :=
  match s.gang? gk with
  | none => s
  | some a =>
    let ms := a.members.filter (fun k => !s.wgFinished k)
    let ok := fun (k : Nat) => ((s.wg? k).map (·.acqAt)).getD false
    if a.acqAt.isNone && !ms.isEmpty && ms.all ok && a.st == .admitted then
      { s.modGang gk (fun a => { a with acqAt := some s.nextKey }) with nextKey := s.nextKey + 1 }
    else s

/-- Gangs with a request on a core, oldest first. -/
def State.requests (s : State) (core : Nat) : List (Nat × Gang) :=
  let l := s.gangs.filter (fun e => e.2.acqAt.isSome && e.2.st == .admitted &&
    e.2.members.any (fun k => ((s.wg? k).map (fun g => g.core == core && !g.finished)).getD false))
  let before := fun (a b : Nat × Gang) => decide (a.2.acqAt.getD 0 < b.2.acqAt.getD 0)
  l.foldl (fun acc e => acc.filter (fun x => before x e) ++ [e] ++ acc.filter (fun x => !before x e)) []

/-- The members of a gang that wait, with their cores. -/
def State.acqMembers (s : State) (a : Gang) : List (Nat × Workgroup) :=
  a.members.filterMap (fun k => match s.wg? k with
    | some g => if s.wgFinished k then none else some (k, g)
    | none => none)

/-- A gang's members have room for their full allotments, with `gone` out of the way. -/
def State.acqFits (s : State) (a : Gang) (gone : Workgroup → Bool) : Bool :=
  (s.acqMembers a).all (fun m => fitsCore (((s.objOfWg m.2).full, m.2.quad, m.2.nwave) ::
    s.onCore m.2.core (fun k g => k == m.1 || gone g)))

/-- The oldest request of a core, when it is the oldest on all its cores. -/
def State.oldestRequest (s : State) (core : Nat) : Option (Nat × Gang) :=
  match (s.requests core).head? with
  | none => none
  | some e => if (s.acqMembers e.2).all (fun m => ((s.requests m.2.core).head?.map Prod.fst) == some e.1) then some e else none

/-- Threads of a wave that wait in one way, released past their instruction. -/
def State.releaseWave (s : State) (wid : Nat) (p : Wait → Bool) : State :=
  match s.wave? wid with
  | none => s
  | some w => s.release wid w.present p

/-- Zeroes what a wave holds beyond an allotment: registers and accumulator rows. -/
def Wave.cut (w : Wave) (p : Allot) : Wave :=
  { w with
    regs := w.regs.filter (fun e => decide (e.1 < 32 * p.n))
    tags := w.tags.filter (fun e => decide (e.1 < p.n))
    poison := w.poison.filter (fun e => decide (e.1 < p.n))
    loaded := w.loaded.filter (fun e => decide (e.1 < p.n))
    acc := w.acc.filter (fun e => decide (e.1 < 256 * p.rows)) }

/-- Zeroes what a workgroup and its waves hold beyond their prologue allotment. -/
def State.cutWg (s : State) (k : Nat) (p : Allot) : State :=
  let s := s.modWg k (fun g => { g with spad := g.spad.filter (fun e => decide (e.1 < 256 * p.spad)) })
  { s with waves := s.waves.map (fun e => if e.2.wg == k && e.2.kind != .access then (e.1, e.2.cut p) else e) }

/-- Every waiting member is granted (R32): what is new in its allotment is zero. -/
def State.grantAcq (s : State) (gk : Nat) (a : Gang) : State :=
  let ms := (s.acqMembers a).map Prod.fst
  let s := ms.foldl (fun s k =>
    match s.wg? k with
    | none => s
    | some g => (s.cutWg k (s.objOfWg g).prologue).modWg k (fun g => { g with full := true, acqAt := false })) s
  let s := s.modGang gk (fun a => { a with acqAt := none })
  (s.waves.filter (fun e => ms.contains e.2.wg)).foldl (fun s e => s.releaseWave e.1 (· == .acq)) s

/-! ### REL (R33, R311) -/

/-- Wipes what a wave returns (R33): registers, rows and queue entries beyond the prologue allotment. -/
def Wave.shrink (w : Wave) (p : Allot) : Wave :=
  let depths := (w.queues.map (·.depth)).mapIdx (fun i _ => ((w.queues.take (i + 1)).map (·.depth)).sum)
  { w.cut p with
    queues := w.queues.mapIdx (fun i q => if p.q < depths.getD i 0 then {} else q)
    latchA := {}, latchB := {} }

/-- The waves that a gang's REL gathers. -/
def State.relWaves (s : State) (a : Gang) : List (Nat × Wave) :=
  s.waves.filter (fun e => a.members.contains e.2.wg && e.2.kind != .access && e.2.live != 0)

/-- Accesses whose results or stores still reach what a REL returns. -/
def Entry.reaches (e : Entry) : Bool := e.inFifo || (e.dest != [] && !(e.ins matches .chain _))

/-- Every wave has reached REL, and no engine operation or copy of them is unfinished, nor a load, a result or a store that
would reach what is returned (DEDUCED, log 39). -/
def State.relReady (s : State) (a : Gang) : Bool :=
  let l := s.relWaves a
  l.any (fun e => e.2.threads.any (fun t => t.wait == .rel)) &&
  l.all (fun e => e.2.threads.any (fun t => t.wait == .rel && !t.exited) &&
    e.2.mitten.all (fun m => m.st == .fault || !(isEngine m.ins || m.isCopy || m.reaches)))

/-- Returns a gang to its prologue allotments, once its REL is complete (DEDUCED, log 39). -/
def State.tryRel (s : State) (gk : Nat) : State :=
  match s.gang? gk with
  | none => s
  | some a =>
    if !s.relReady a || a.st != .admitted then s
    else
      let s := a.members.foldl (fun s k =>
        match s.wg? k with
        | none => s
        | some g =>
          if g.finished || !g.full then s
          else
            let p := (s.objOfWg g).prologue
            let s := (s.cutWg k p).modWg k (fun g => { g with full := false, acqAt := false })
            { s with waves := s.waves.map (fun e =>
                if e.2.wg == k && e.2.kind != .access then (e.1, e.2.shrink p) else e) }) s
      let s := s.modGang gk (fun a => { a with acqAt := none })
      (s.waves.filter (fun e => a.members.contains e.2.wg)).foldl (fun s e => s.releaseWave e.1 (· == .rel)) s

/-! ### Retired gangs (R238) -/

/-- A retired gang's waves keep their identities until their Mittens are empty; then nothing of it remains. -/
def State.reapGang (s : State) (gk : Nat) (a : Gang) : State :=
  if a.st != .retired then s
  else
    let s := { s with waves := s.waves.filter (fun e => !(a.members.contains e.2.wg && e.2.mitten.isEmpty)) }
    if s.waves.any (fun e => a.members.contains e.2.wg) then s
    else
      let own := ((s.launch? a.launch).map (fun l => l.isTask || l.control)).getD false
      { s with
        wgs := s.wgs.filter (fun e => !a.members.contains e.1)
        gangs := adel s.gangs gk
        launches := if own then adel s.launches a.launch else s.launches }

def State.reap (s : State) : State := s.gangs.foldl (fun s e => s.reapGang e.1 e.2) s

/-- What the allotment logic does in every cycle: requests that have become complete, and RELs. -/
def State.allotCycle (s : State) : State :=
  s.gangs.foldl (fun s e => (s.placeAcq e.1).tryRel e.1) s

end Sys2Proof.Machine
end

