-- ==== Sys2Proof/Machine/Object.lean ====
section
/-!
DEFINITION. Code objects as LAUNCH, DRAW, TSPAWN, TTIME and the management transactions read them (R64-R68).
-/

namespace Sys2Proof.Machine

/-- A little-endian field of a record. -/
def fieldAt (b : List Byte) (off n : Nat) : Nat := leNat ((b.drop off).take n)

/-- An offset field: none for 0xFFFFFFFF. -/
def offsetAt (b : List Byte) (off : Nat) : Option Nat := if fieldAt b off 4 = 0xFFFFFFFF then none else some (fieldAt b off 4)

/-- An allotment record (R65). -/
def allotAt (b : List Byte) (off : Nat) : Allot :=
  { n := 8 * fieldAt b off 1, rows := 16 * fieldAt b (off + 1) 1, g := fieldAt b (off + 2) 2, spad := fieldAt b (off + 4) 2
    q := fieldAt b (off + 6) 1 }

/-- A held-layout entry (R66). -/
def holdAt (b : List Byte) (off : Nat) : HoldEntry :=
  { reg := fieldAt b off 1, rate := fieldAt b (off + 1) 1, vis := fieldAt b (off + 2) 1 % 2 == 1, scope := fieldAt b (off + 3) 1
    slot := fieldAt b (off + 4) 2 }

/-- The code object of a header and its held-layout table. -/
def codeObj (base : Word) (h hold : List Byte) : CodeObj :=
  { base, isDraw := fieldAt h 5 1 == 1, det := fieldAt h 6 2 % 2 == 1, sliced := fieldAt h 6 2 / 2 % 2 == 1
    ordered := fieldAt h 6 2 / 4 % 2 == 1, ncore := fieldAt h 8 2, ftablen := fieldAt h 10 2, textsize := fieldAt h 12 4
    entry := (List.range 8).map (fun k => offsetAt h (16 + 4 * k)), access := offsetAt h 0x30, trapoff := offsetAt h 0x34
    ftaboff := fieldAt h 0x38 4, prologue := allotAt h 0x40, full := allotAt h 0x50
    split := (List.range 16).map (fun k => fieldAt h (0x60 + 2 * k) 2)
    homes := (List.range 256).map (fun k => fieldAt h 0x80 96 / 2 ^ (3 * k) % 8)
    hold := (List.range (hold.length / 8)).map (fun k => holdAt hold (8 * k)) }

/-- Reads n bytes for a context in accesses of at most 64 bytes, from an address that is a multiple of 8. -/
def State.agentBytes (s : State) (ctx : Nat) (spaces : List Nat) (p : Word) (n : Nat) : Except Nat (List Byte) :=
  (List.range ((n + 7) / 8)).foldl (fun (a : Except Nat (List Byte)) k =>
    match a with
    | .error c => .error c
    | .ok b =>
      match s.agentLoad ctx spaces (addrAdd p (BitVec.ofNat 64 (8 * k))) 8 8 with
      | .error c => .error c
      | .ok x => .ok (b ++ x)) (.ok [])

/-- A code object as LAUNCH, DRAW, TSPAWN and the management transactions read it: its header, its held-layout table and
its fields, or none where it cannot be read. A HOLDOFF that is no multiple of 8 names no table (DESIGN CHOICE, log 113). -/
def State.readObj (s : State) (ctx : Nat) (code : Word) : Option (List Byte × List Byte × CodeObj) :=
  if spaceOf code != 0 || code.toNat % 64 != 0 then none
  else
    match s.agentBytes ctx [0] code 256 with
    | .error _ => none
    | .ok h =>
      let off := fieldAt h 0xE8 4
      if off % 8 != 0 then some (h, [], codeObj code h [])
      else
        match s.agentBytes ctx [0] (code + BitVec.ofNat 64 off) (if off = 0 then 0 else 8 * fieldAt h 0xEC 2) with
        | .error _ => none
        | .ok t => some (h, t, codeObj code h t)

/-- An allotment within its ranges (R30, R65). -/
def Allot.ok (a : Allot) : Bool :=
  decide (8 ≤ a.n) && decide (a.n ≤ 256) && decide (a.rows ≤ 128) && decide (1 ≤ a.g) && decide (a.g ≤ a.n) &&
  decide (a.spad ≤ 3072) && decide (a.q ≤ 64)

def Allot.le (a b : Allot) : Bool :=
  decide (a.n ≤ b.n) && decide (a.rows ≤ b.rows) && decide (a.g ≤ b.g) && decide (a.spad ≤ b.spad) && decide (a.q ≤ b.q)

def offsetOk (size : Nat) : Option Nat → Bool
  | none => true
  | some x => x % 8 == 0 && decide (x < size)

/-- The first of R68's checks that a code object fails, by its number from 1, or 0 (DEDUCED, log 41). Only
ENTRY[0]-ENTRY[7] count as its entries (DESIGN CHOICE, log 114). -/
def objCheck (h hold : List Byte) (o : CodeObj) : Nat :=
  let flags := fieldAt h 6 2
  let entries := o.entry
  let has := fun (k : Nat) => (entries.getD k none).isSome
  if fieldAt h 0 4 != 0x33484B53 || fieldAt h 4 1 != 3 || decide (1 < fieldAt h 5 1) then 1
  else if flags / 8 != 0 || fieldAt h 0x47 9 != 0 || fieldAt h 0x57 9 != 0 || fieldAt h 0xEE 18 != 0 ||
      (List.range (hold.length / 8)).any (fun k => decide (1 < fieldAt hold (8 * k + 2) 1) || fieldAt hold (8 * k + 6) 2 != 0) then 2
  else if (if o.det then decide (o.ncore = 0) || decide (384 < o.ncore) else o.ncore != 0) then 3
  else if !(entries ++ [o.access, o.trapoff]).all (offsetOk o.textsize) then 4
  else if (if o.isDraw then has 0 else has 5 || has 6 || has 7) then 5
  else if o.sliced != o.access.isSome then 6
  else if !entries.any (·.isSome) then 7
  else if !o.prologue.ok || !o.full.ok || !o.prologue.le o.full then 8
  else if !o.homes.all (rateLegal o.isDraw) then 9
  else if fieldAt h 0xE0 8 != 0 && fieldAt h 0xE0 8 != o.base.toNat then 10
  else 0

/-- Status of the object behind a CODE field: 0x0B where it cannot be read, else R68's checks. -/
def State.objStatus (s : State) (ctx : Nat) (code : Word) : Nat × CodeObj :=
  match s.readObj ctx code with
  | none => (0x0B, {})
  | some (h, t, o) => (objCheck h t o, o)

/-- One workgroup with its full allotment fits an empty core (R227 0x10; DEDUCED, log 41). -/
def fitsEmpty (o : CodeObj) (nwave : Nat) : Bool := fitsCore [(o.full, 0, nwave)]

end Sys2Proof.Machine
end

