-- ==== Sys2Proof/Machine/Spawn.lean ====
section
/-!
DEFINITION. What TSPAWN, TTIME and TDEP.watch are about to create, and the room that they wait for (spec/14 R284,
R285, R289, R297, spec/15 R318-R321).
-/

namespace Sys2Proof.Machine

/-! ### Tasks -/

/-- A counter name lies in the context's grant. -/
def State.granted (s : State) (ctx ctr : Nat) : Bool :=
  ((s.ctx? ctx).map (fun c => c.grant.any (fun g =>
    g.1 == ctr / 4096 % 16 && decide (g.2.1 ≤ ctr % 4096) && decide (ctr % 4096 ≤ g.2.2)))).getD false

/-- Tasks that occupy slots. -/
def Lantern.slotted (l : Lantern) : List Task := l.tasks.filter (fun k => k.st != .held)

/-- A task code object (R285). -/
def CodeObj.isTaskObj (o : CodeObj) : Bool :=
  !o.isDraw && (o.entry.getD 0 none).isSome && (o.entry.drop 1).all (·.isNone) && !o.sliced && !o.det &&
  o.prologue == o.full && fitsEmpty o 1

/-- The status of a task entry, 0x01 to 0x03, and its code object (R320). -/
def State.entryStatus (s : State) (ctx : Nat) (e : Word) : Nat × CodeObj :=
  if spaceOf e != 0 || e.toNat % 64 != 0 then (1, {})
  else
    let p := s.objStatus ctx e
    if p.1 != 0 then (2, {}) else if p.2.isTaskObj then p else (3, {})

/-- One lane's task: the lane, its lantern, its status and the task. -/
structure Spawn where
  lane : Nat
  lan  : Nat
  status : Nat
  task : Task
deriving DecidableEq, Repr

/-- The fields of word 1 of TSPAWN (R318). -/
def spawnPrio (w1 : Word) : Nat := w1.toNat / 2 ^ 58 % 32
def spawnBinds (w1 : Word) : Bool := w1.getLsbD 63

/-- What a TSPAWN creates. -/
def State.spawns (s : State) (o : OpX) (r : Run) : List Spawn :=
  (lanesOf r.ex).map (fun t =>
    let v := s.srcVals r.w (.tspawn o) t
    let ctr := (v.getD 2 0).toNat % 65536
    let p := s.entryStatus r.w.ctx (v.getD 0 0)
    { lane := t, lan := if spawnBinds o.w1 then ctr / 4096 else r.w.core / 24, status := p.1
      task := { slot := 0, gen := 0, ctx := r.w.ctx, entry := v.getD 0 0, obj := p.2, arg := v.getD 1 0
                prio := spawnPrio o.w1, st := if spawnBinds o.w1 then .pending ctr else .ready } })

/-- The tick at which the timer wheel releases a task of release time T (R289; DEDUCED, log 42). -/
def wheelTick (now T : Nat) : Nat := max ((T + 99) / 100 * 100) ((now / 100 + 1) * 100)

/-- What a TTIME creates (R319). -/
def State.timedSpawns (s : State) (o : OpA) (r : Run) : List Spawn :=
  (lanesOf r.ex).map (fun t =>
    let v := s.srcVals r.w (.ttime o) t
    let a := v.getD 0 0
    let prio := a.toNat % 32
    let entry := a - BitVec.ofNat 64 (a.toNat % 64)
    let p := if a.getLsbD 5 || decide (24 ≤ prio) then (4, {}) else s.entryStatus r.w.ctx entry
    { lane := t, lan := r.w.core / 24, status := p.1
      task := { slot := 0, gen := 0, ctx := r.w.ctx, entry, obj := p.2, arg := v.getD 1 0, prio
                st := .timed (wheelTick s.dev.ptp (v.getD 2 0).toNat) } })

/-- Held instances of contexts that are not frozen. -/
def State.heldOn (s : State) (l : Lantern) : List Task :=
  l.tasks.filter (fun k => k.st == .held && ((s.ctx? k.ctx).map (fun c => c.st == .running)).getD false)

def Task.isTimed (k : Task) : Bool :=
  match k.st with
  | .timed _ => true
  | _ => false

/-- Some lantern lacks room for the tasks that an instruction would create: slots, which held instances take first
(R298), or entries of the timer wheel (R289). -/
def State.spawnWait (s : State) (l : List Spawn) : Bool :=
  let made := l.filter (fun x => x.status == 0)
  s.lanterns.zipIdx.any (fun e =>
    let mine := made.filter (fun x => x.lan == e.2)
    let timed := mine.filter (fun x => x.task.isTimed)
    !mine.isEmpty &&
      (decide (Config.taskSlots < e.1.slotted.length + (s.heldOn e.1).length + mine.length) ||
        (!timed.isEmpty && decide (Config.timerEntries < (e.1.tasks.filter Task.isTimed).length + timed.length))))

/-- A precise fault of a placement that is no memory access: sys.tinfo's KIND is free (DESIGN CHOICE, log 30). -/
def State.grantTrap (s : State) (r : Run) (mask : Lanes) : State :=
  (s.precise r { r.trap 0x05 mask with info := BitVec.ofNat 64 ((s.free (freeAt 340 0)).toNat % 8) }).useFree

/-- The fault of a TSPAWN or TTIME (R320): a priority that is closed to the wave, a counter outside the grant. -/
def State.spawnFault (s : State) (r : Run) (prio ctr : Nat → Option Nat) : Option State :=
  let high := (lanesOf r.ex).filter (fun t => ((prio t).map (fun p => decide (p < 4))).getD false)
  let closed := (lanesOf r.ex).filter (fun t => ((ctr t).map (fun c => !s.granted r.w.ctx c)).getD false)
  if !high.isEmpty && !(s.isPriv r.w && s.isControl r.w) then some (s.precise r (r.trap 0x02 (maskOf high)))
  else if !closed.isEmpty then some (s.grantTrap r (maskOf closed))
  else none

/-- The fault of a TSPAWN. -/
def State.tspawnFault (s : State) (o : OpX) (r : Run) : Option State :=
  s.spawnFault r (fun _ => some (spawnPrio o.w1)) (fun t =>
    if spawnBinds o.w1 then some (((s.srcVals r.w (.tspawn o) t).getD 2 0).toNat % 65536) else none)

/-- The fault of a TTIME. -/
def State.ttimeFault (s : State) (o : OpA) (r : Run) : Option State :=
  s.spawnFault r (fun t => some (((s.srcVals r.w (.ttime o) t).getD 0 0).toNat % 32)) (fun _ => none)

/-- TSPAWN waits for task slots (R284). -/
def tspawnWait (o : OpX) (s : State) (r : Run) : Bool := (s.tspawnFault o r).isNone && s.spawnWait (s.spawns o r)
/-- TTIME waits for task slots and the timer wheel (R284, R289). -/
def ttimeWait (o : OpA) (s : State) (r : Run) : Bool := (s.ttimeFault o r).isNone && s.spawnWait (s.timedSpawns o r)

/-! ### Watches -/

/-- TDEP.watch: the lanes' counters, tiles and settle groups. -/
def State.watchOps (s : State) (o : OpA) (r : Run) : List (Nat × Nat × Word × Word) :=
  (lanesOf r.ex).map (fun t =>
    let v := s.srcVals r.w (.tdepWatch o) t
    (t, (v.getD 0 0).toNat % 65536, v.getD 1 0, v.getD 2 0))

/-- The check of a TDEP.watch's addresses: its faults by KIND, and the tiles' locations. -/
def State.watchLocs (s : State) (o : OpA) (r : Run) : List (Nat × Word × Flt) × List (Nat × Word × Flt) × List (Nat × Loc) :=
  let l := s.watchOps o r
  let tiles := s.resolveAll r.w accLoad [0, 4] 4096 4096 (l.map (fun x => (x.1, x.2.2.1)))
  let words := s.resolveAll r.w accAtomic [0, 4] 8 8 ((l.filter (fun x => x.2.2.2 != 0)).map (fun x => (x.1, x.2.2.2)))
  (tiles.1, words.1, tiles.2)

/-- A watch is registered on a tile of version word w (R297). -/
def registers (w : Word) : Bool := !w.getLsbD 62 && !w.getLsbD 63

/-- TDEP.watch waits while a lantern lacks room for its watches (R297). -/
def tdepWatchWait (o : OpA) (s : State) (r : Run) : Bool :=
  let p := s.watchLocs o r
  let l := s.watchOps o r
  let new := (l.filter (fun x => ((aget? p.2.2 x.1).map (fun loc => registers (s.version loc))).getD false)).map (·.2.1 / 4096)
  p.1.isEmpty && p.2.1.isEmpty && l.all (fun x => s.granted r.w.ctx x.2.1) &&
  s.lanterns.zipIdx.any (fun e => new.contains e.2 &&
    decide (Config.watches < e.1.watches.length + (new.filter (· == e.2)).length))

end Sys2Proof.Machine
end

