-- ==== Sys2Proof/Machine/Waits.lean ====
section
/-!
DEFINITION. The waits that an instruction has before it issues, beside the scoreboard, the queues and the Mitten
(R239).
-/

namespace Sys2Proof.Machine

/-! ### Queue loads, fences and promises -/

/-- LDQ waits while its queue is full (R194). -/
def ldqWait (o : OpM) (s : State) (r : Run) : Bool :=
  match r.w.pair.bind s.wave? with
  | none => false
  | some v =>
    let q := v.queue (o.d.toNat % 8)
    decide (0 < q.depth) && decide (q.depth ≤ q.entries.length)

/-- Stores and atomics whose acknowledgement a releasing fence waits for (DEDUCED, log 112). -/
def Entry.fenced (e : Entry) : Bool :=
  match e.ins with
  | .st _ | .stt _ | .red _ | .atom _ | .atomc _ | .faddo _ | .chain _ | .pubv _ | .snuff _ | .pxout _ | .emit _ => true
  | _ => false

/-- The entries of a wave that a FENCE covers for some of its executing threads. -/
def fenceCovers (o : OpM) (lanes : Lanes) (e : Entry) : Bool :=
  (e.exec &&& lanes) != 0 && ((o.ord.isRel && e.fenced) || (o.off.getLsbD 0 && e.ins matches .redb _))

/-- FENCE waits until every covered entry is acknowledged or applied (DEDUCED, log 112). -/
def fenceWait (o : OpM) (_ : State) (r : Run) : Bool :=
  r.w.mitten.any (fun e => fenceCovers o r.ex e && e.st != .fault)

/-- The copy that a promise still names (DEDUCED, log 87). -/
def Wave.promised (w : Wave) (p : Word) : Option Entry :=
  w.mitten.find? (fun e => e.isCopy && e.slot == p.toNat / 2 ^ 58 && e.copySeq == p.toNat / 2 ^ 48 % 1024)

/-- sys.clk has passed a promise's DUE (DEDUCED, log 87). -/
def State.duePassed (s : State) (p : Word) : Bool :=
  decide ((s.dev.clk + 2 ^ 48 - p.toNat % 2 ^ 48) % 2 ^ 48 < 2 ^ 47)

/-- WAITP waits for the actual completion: .hard, DET, or a copy reissued at a restore. -/
def State.waitsHard (s : State) (o : OpC) (w : Wave) (e : Entry) : Bool := o.tgt.getLsbD 0 || s.isDet w || e.reissued

/-- The promise that a WAITP names: the lowest executing thread's (R301). -/
def State.promiseOf (s : State) (o : OpC) (r : Run) : Word := s.srcVal r.w r.low (srcsOf (.waitp o)) 0

/-- The unfinished copy that a WAITP waits for. -/
def State.waitpCopy (s : State) (o : OpC) (r : Run) : Option Entry :=
  if r.ex = 0 then none else r.w.promised (s.promiseOf o r)

/-- WAITP does not go on yet: the copy is unfinished, and its DUE has not passed or does not count. -/
def waitpWait (o : OpC) (s : State) (r : Run) : Bool :=
  match s.waitpCopy o r with
  | none => false
  | some e => e.st != .fault && (s.waitsHard o r.w e || !s.duePassed (s.promiseOf o r))

/-! ### Tag stores (R387) -/

/-- A T access waits while a tag store that it reaches is full: at the memory side, which this model shows as a wait
before the issue (DESIGN CHOICE, log 102). -/
def tagWait (i : Instr) (spaces : List Nat) (s : State) (r : Run) : Bool :=
  !s.fullPlaces.isEmpty &&
  (r.w.mitten.any Entry.inFifo ||
   !s.tagRoom r.w i ((s.resolveAll r.w accAtomic spaces 1 1 (s.addrs i r (fun v => v.getD 0 0))).2.map Prod.snd))

/-! ### The matrix engine (R162, R163) -/

/-- Engine operations of a wave that have not committed. -/
def Wave.uncommitted (w : Wave) : List Entry := w.mitten.filter (fun e => isEngine e.ins && e.st != .fault)

/-- MWAIT waits while more than N operations are uncommitted. -/
def mwaitWait (o : OpX) (_ : State) (r : Run) : Bool := decide (o.a.mod.toNat < r.w.uncommitted.length)

/-- OPFENCE waits for the group's results and for the wave's earlier stores. -/
def opfenceWait (_ : State) (r : Run) : Bool :=
  r.w.mitten.any (fun e => (e.dest != [] && e.pendingFor r.c.lanes) || e.inFifo)

/-! ### EXIT (R307) -/

/-- The EXIT ends the last present threads of its wave. -/
def lastExit (r : Run) : Bool := r.w.live &&& ~~~r.ex == 0

/-- Operations that the last exit waits for (DEDUCED, log 32). -/
def exitAwaits (e : Entry) : Bool := isEngine e.ins || e.isCopy || e.ins matches .redb _

/-- Entries whose faults go to the fault queue once the wave has exited (R378). -/
def storeFault (e : Entry) : Bool :=
  match e.ins with
  | .st _ | .stt _ | .red _ | .pxout _ | .emit _ => true
  | _ => false

/-- EXIT waits for the results of its threads, whose registers keep their values (R20), and the last one for engine
operations, copies and REDBs (DEDUCED, log 32). -/
def exitWait (_ : State) (r : Run) : Bool :=
  r.w.mitten.any (fun e => (e.dest != [] && e.pendingFor r.ex) || (lastExit r && exitAwaits e && e.st != .fault))

/-! ### JOIN and ARRV (R249) -/

/-- The pc a signed number of words away. -/
def pcPlus (pc : Word) (tgt : BitVec 27) : Word := pc + tgt.signExtend 64 * 8

/-- A JOIN or ARRV that names a pc without a record stops while all eight records are in use. -/
def recordWait (r : Run) (pc : Word) : Bool :=
  !r.w.joins.any (fun j => j.pc == pc) && decide (8 ≤ r.w.joins.length)

def joinWait (_ : State) (r : Run) : Bool := recordWait r r.c.pc
def arrvWait (o : OpC) (_ : State) (r : Run) : Bool := r.ex != 0 && recordWait r (pcPlus r.c.pc o.tgt)

/-! ### LAUNCH and DRAW (R228) -/

/-- Launches and draws of a context that are placed and not complete. -/
def State.placedCount (s : State) (ctx : Nat) : Nat :=
  (s.launches.filter (fun e => e.2.ctx == ctx && !e.2.control && !e.2.isTask && !e.2.gone)).length +
  (s.draws.filter (fun e => e.2.ctx == ctx && !e.2.gone)).length

/-- A LAUNCH or DRAW waits while its context has 256 of them. -/
def placeWait (s : State) (r : Run) : Bool := r.ex != 0 && decide (256 ≤ s.placedCount r.w.ctx)

/-! ### Draws -/

/-- Rays of a lantern that have been spawned and have not started (R328). -/
def State.raysOn (s : State) (lan : Nat) : Nat := (s.draws.map (fun e => (e.2.rays.filter (fun x => x.lantern == lan)).length)).sum

/-- RSPAWN waits for room among the lantern's 65,536 rays, where it raises no fault. -/
def rspawnWait (s : State) (r : Run) : Bool :=
  let n := (lanesOf r.ex).length
  match s.draw? r.w.draw with
  | none => false
  | some d =>
    decide (0 < n) && (d.obj.entry.getD 7 none).isSome && decide (d.rayCount + n ≤ 2 ^ 31) &&
    decide (65536 < s.raysOn (r.w.core / 24) + n)

/-- The fragment of a sample thread (R279). -/
def State.fragOf (s : State) (w : Wave) (wid t : Nat) : Option Frag := (s.draw? w.draw).bind (fun d => d.frags.find? (fun f => f.isOf wid t))

/-- Executing threads whose turn has not begun (DEDUCED, log 65). -/
def State.turnless (s : State) (r : Run) : Lanes :=
  maskOf ((lanesOf r.ex).filter (fun t => ((s.fragOf r.w r.c.wid t).map (fun f => f.turn == 0)).getD false))

/-- PIXLK and PXOUT wait for the turn: until some executing thread has it, or is past it (R279). -/
def turnWait (s : State) (r : Run) : Bool := r.ex != 0 && s.turnless r == r.ex

/-! ### System registers and TLBI -/

/-- Instructions of the issue group that have not set their flags: SYSR and SYSW of sys.fflags wait for them (R93). -/
def flagsOwed (clk : Nat) (r : Run) : Bool :=
  r.w.flying.any (fun x => decide (clk < x.1) && x.2.1 &&& r.c.lanes != 0) ||
  r.w.mitten.any (fun e => e.st != .fault && e.flags.any (fun x => r.c.lanes.getLsbD x.1 && x.2 != 0)) ||
  r.w.uncommitted.any (fun e => e.exec &&& r.c.lanes != 0) || r.w.owed.any (fun x => x.atWait && x.lanes &&& r.c.lanes != 0)

def sysrWait (o : OpI) (s : State) (r : Run) : Bool := o.imm.toNat == 0x018 && flagsOwed s.dev.clk r
def syswWait (o : OpI) (s : State) (r : Run) : Bool := o.imm.toNat == 0x018 && flagsOwed s.dev.clk r

/-- The translations that a TLBI drops (R352). -/
def tlbiHits (i : Instr) (s : State) (r : Run) (t : Tlb) : Bool :=
  let v := s.srcVals r.w i r.low
  match i with
  | .tlbiVa _ =>
    let va := vaOf (v.getD 0 0)
    t.asid == (v.getD 1 0).toNat % 64 && decide (t.va ≤ va) && decide (va < t.va + t.size)
  | .tlbiAsid _ => t.asid == (v.getD 0 0).toNat % 64
  | _ => r.w.ctx == 0 || (t.asid != 0 && ((s.ctx? t.asid).map (fun c => c.part == s.partOfCtx r.w.ctx)).getD true)

/-- Accesses that wait at the memory side for a turn: REDBs, FADDO contributions and CHAIN tickets, with their contexts
(DEDUCED, log 45). -/
def State.waitingAccesses (s : State) : List (Nat × Loc) :=
  s.waves.flatMap (fun e =>
    if e.2.frozen then [] else e.2.mitten.flatMap (fun m =>
      if m.ins matches .redb _ && m.st != .fault then
        (m.loc.filter (fun x => m.exec.getLsbD x.1 && !m.done.getLsbD x.1)).map (fun x => (e.2.ctx, x.2)) else [])) ++
  s.launches.flatMap (fun e => e.2.faddo.map (fun c => (e.2.ctx, c.loc)) ++
    (e.2.chains.filter (fun c => !c.tickets.isEmpty)).map (fun c => (e.2.ctx, c.loc)))

/-- TLBI waits until every such access through a translation that it drops has been performed (DEDUCED, log 71). -/
def tlbiWait (i : Instr) (s : State) (r : Run) : Bool :=
  let drops := s.tlb.filter (tlbiHits i s r)
  r.ex != 0 && s.waitingAccesses.any (fun x =>
    match x.2 with
    | .mem pa => drops.any (fun t => t.asid == x.1 && decide (t.pa ≤ pa) && decide (pa < t.pa + t.size))
    | _ => false)

/-! ### The journal (R403) -/

/-- Every slot of the journal is taken. -/
def Journal.isFull (j : Journal) : Bool := decide (2 ^ j.log2 ≤ j.next - j.head)

/-- JRNL and JTRUNC wait while the journal is full, where they raise no fault. -/
def journalWait (s : State) (r : Run) : Bool :=
  r.ex != 0 && (((s.ctx? r.w.ctx).bind (·.journal)).map (fun j => !j.lost && j.isFull)).getD false

/-- The condition under which an instruction does not issue yet. -/
def waitOf (i : Instr) (s : State) (r : Run) : Bool :=
  match i with
  | .ldq o => ldqWait o s r
  | .atom _ | .atomc _ | .red _ | .faddo _ | .chain _ | .redb _ | .pubv _ | .snuff _ => tagWait i [0, 1, 2, 3, 4] s r
  | .fence o => fenceWait o s r
  | .waitp o => waitpWait o s r
  | .mwait o => mwaitWait o s r
  | .opfence _ => opfenceWait s r
  | .exit _ => exitWait s r
  | .launch _ => placeWait s r
  | .draw _ => placeWait s r
  | .join _ => joinWait s r
  | .arrv o => arrvWait o s r
  | .tspawn o => tspawnWait o s r
  | .rspawn _ => rspawnWait s r
  | .sysr o => sysrWait o s r
  | .syswFflags o => syswWait o s r
  | .tlbiVa _ => tlbiWait i s r
  | .tlbiAsid _ => tlbiWait i s r
  | .tlbiAll _ => tlbiWait i s r
  | .pixlk _ => turnWait s r
  | .pxout _ => turnWait s r
  | .ttime o => ttimeWait o s r
  | .tdepWatch o => tdepWatchWait o s r
  | .jrnl _ => journalWait s r
  | .jtrunc _ => journalWait s r
  | _ => false

end Sys2Proof.Machine
end

