-- ==== Sys2Proof/Machine/Integer.lean ====
section
/-!
DEFINITION. Class 000: moves, integer arithmetic, bits and shifts, conditions, addresses (spec/06 R110-R120).
-/

namespace Sys2Proof.Machine

/-- The k-th operand word. -/
def arg (v : List Word) (k : Nat) : Word := v.getD k 0

/-- Sub-element j of the k-th operand read as an integer of the type (R106). -/
def ival (ty : Ty) (v : List Word) (k j : Nat) : Int := intVal ty.isSigned ty.width (sub (arg v k) j ty.width)

/-- Sub-element j of the k-th operand as an unsigned number. -/
def uval (ty : Ty) (v : List Word) (k j : Nat) : Nat := sub (arg v k) j ty.width

/-- One result register. -/
def one (d : BitVec 8) (x : Word × FFlags) : List (Nat × Word) × FFlags := ([(d.toNat, x.1)], x.2)

/-- Exact integer results, wrapped or clamped (R108). -/
def intOp (o : OpA) (f : List Word → Nat → Int) (v : List Word) : List (Nat × Word) × FFlags :=
  one o.d (buildSubs o.ty.width o.ty.nsub (fun j => fitInt (o.mod.getLsbD 1) o.ty.isSigned o.ty.width (f v j)))

/-- Bit patterns per sub-element, without flags. -/
def bitOp (o : OpA) (f : List Word → Nat → Nat) (v : List Word) : List (Nat × Word) × FFlags :=
  one o.d (buildSubs o.ty.width o.ty.nsub (fun j => (f v j, 0)))

/-- A whole-word result without flags. -/
def wordOp (d : BitVec 8) (x : Word) : List (Nat × Word) × FFlags := ([(d.toNat, x)], 0)

/-- NOP (R110). -/
def execNop (o : OpA) (s : State) : Host.Outcome State Fault Refusal :=
  s.laneOp (.nop o) (fun _ _ _ _ => ([], 0))

/-- The poison mark that MOV moves, of any lane's source (R373; DEDUCED, log 25). -/
def State.movePoison (s : State) (r : Run) (o : OpA) : State :=
  match (lanesOf r.ex).findSome? (s.operandPoison r.w (.mov o) (readRegs (.mov o))) with
  | some pc => s.modWave r.c.wid (fun w => { w with poison := tset 0 w.poison o.d.toNat (pc + 1) })
  | none => s

/-- MOV (R110): the 64 bits and the tag of its source, and its poison mark (DEDUCED, log 25). -/
def execMov (o : OpA) (s : State) : Host.Outcome State Fault Refusal :=
  s.issue (.mov o) noWait (fun s r =>
    (s.commitRegs (.mov o) r ((lanesOf r.ex).map (fun t => (t, wordOp o.d (arg (s.srcVals r.w (.mov o) t) 0))))).movePoison
      r o)

/-- LI (R110). -/
def execLi (o : OpI) (s : State) : Host.Outcome State Fault Refusal :=
  s.laneOp (.li o) (fun _ _ _ _ => wordOp o.d (o.imm.signExtend 64))

/-- LIW (R110). -/
def execLiw (o : OpL) (s : State) : Host.Outcome State Fault Refusal :=
  s.laneOp (.liw o) (fun _ _ _ _ => wordOp o.d o.lit)

/-- IADD (R111). -/
def execIadd (o : OpA) (s : State) : Host.Outcome State Fault Refusal :=
  s.laneOp (.iadd o) (fun _ _ _ => intOp o (fun v j => ival o.ty v 0 j + ival o.ty v 1 j))

/-- ISUB (R111). -/
def execIsub (o : OpA) (s : State) : Host.Outcome State Fault Refusal :=
  s.laneOp (.isub o) (fun _ _ _ => intOp o (fun v j => ival o.ty v 0 j - ival o.ty v 1 j))

/-- IMUL (R111). -/
def execImul (o : OpA) (s : State) : Host.Outcome State Fault Refusal :=
  s.laneOp (.imul o) (fun _ _ _ => intOp o (fun v j => ival o.ty v 0 j * ival o.ty v 1 j))

/-- IMULH (R111): the high half of the product. -/
def execImulh (o : OpA) (s : State) : Host.Outcome State Fault Refusal :=
  s.laneOp (.imulh o) (fun _ _ _ => intOp o (fun v j => ival o.ty v 0 j * ival o.ty v 1 j / 2 ^ o.ty.width))

/-- IMAD (R111). -/
def execImad (o : OpA) (s : State) : Host.Outcome State Fault Refusal :=
  s.laneOp (.imad o) (fun _ _ _ => intOp o (fun v j => ival o.ty v 0 j * ival o.ty v 1 j + ival o.ty v 2 j))

/-- IADDI (R110). -/
def execIaddi (o : OpI) (s : State) : Host.Outcome State Fault Refusal :=
  s.laneOp (.iaddi o) (fun _ _ _ v => wordOp o.d (arg v 0 + o.imm.signExtend 64))

/-- IMIN (R111). -/
def execImin (o : OpA) (s : State) : Host.Outcome State Fault Refusal :=
  s.laneOp (.imin o) (fun _ _ _ => intOp o (fun v j => min (ival o.ty v 0 j) (ival o.ty v 1 j)))

/-- IMAX (R111). -/
def execImax (o : OpA) (s : State) : Host.Outcome State Fault Refusal :=
  s.laneOp (.imax o) (fun _ _ _ => intOp o (fun v j => max (ival o.ty v 0 j) (ival o.ty v 1 j)))

/-- IABS (R111). -/
def execIabs (o : OpA) (s : State) : Host.Outcome State Fault Refusal :=
  s.laneOp (.iabs o) (fun _ _ _ => intOp o (fun v j => ((ival o.ty v 0 j).natAbs : Int)))

/-- INEG (R111). -/
def execIneg (o : OpA) (s : State) : Host.Outcome State Fault Refusal :=
  s.laneOp (.ineg o) (fun _ _ _ => intOp o (fun v j => -(ival o.ty v 0 j)))

/-- AND (R113). -/
def execAnd (o : OpA) (s : State) : Host.Outcome State Fault Refusal :=
  s.laneOp (.and o) (fun _ _ _ v => wordOp o.d (arg v 0 &&& arg v 1))

/-- OR (R113). -/
def execOr (o : OpA) (s : State) : Host.Outcome State Fault Refusal :=
  s.laneOp (.or o) (fun _ _ _ v => wordOp o.d (arg v 0 ||| arg v 1))

/-- XOR (R113). -/
def execXor (o : OpA) (s : State) : Host.Outcome State Fault Refusal :=
  s.laneOp (.xor o) (fun _ _ _ v => wordOp o.d (arg v 0 ^^^ arg v 1))

/-- ANDN (R113). -/
def execAndn (o : OpA) (s : State) : Host.Outcome State Fault Refusal :=
  s.laneOp (.andn o) (fun _ _ _ v => wordOp o.d (arg v 0 &&& ~~~(arg v 1)))

/-- SHL (R113). -/
def execShl (o : OpA) (s : State) : Host.Outcome State Fault Refusal :=
  s.laneOp (.shl o) (fun _ _ _ => bitOp o (fun v j =>
    if o.ty.width ≤ uval o.ty v 1 j then 0 else uval o.ty v 0 j * 2 ^ uval o.ty v 1 j))

/-- SHR (R113): logical for n types, arithmetic for i types. -/
def execShr (o : OpA) (s : State) : Host.Outcome State Fault Refusal :=
  s.laneOp (.shr o) (fun _ _ _ => bitOp o (fun v j =>
    wrapInt o.ty.width (ival o.ty v 0 j / 2 ^ min (uval o.ty v 1 j) o.ty.width)))

/-- bfe of R114. -/
def bfeVal (signed : Bool) (w a off len : Nat) : Nat :=
  if w ≤ off ∨ len = 0 then 0
  else
    let len := min len (w - off)
    wrapInt w (intVal signed len (a / 2 ^ off))

/-- bfi of R114. -/
def bfiVal (w d a off len : Nat) : Nat :=
  if w ≤ off ∨ len = 0 then d
  else
    let len := min len (w - off)
    let top := d / 2 ^ (off + len) * 2 ^ (off + len)
    top + a % 2 ^ len * 2 ^ off + d % 2 ^ off

/-- BFE (R114). -/
def execBfe (o : OpA) (s : State) : Host.Outcome State Fault Refusal :=
  s.laneOp (.bfe o) (fun _ _ _ => bitOp o (fun v j =>
    bfeVal o.ty.isSigned o.ty.width (uval o.ty v 0 j) (uval o.ty v 1 j) (uval o.ty v 2 j)))

/-- BFI (R114): reads vD. -/
def execBfi (o : OpA) (s : State) : Host.Outcome State Fault Refusal :=
  s.laneOp (.bfi o) (fun s r t v =>
    let d := s.readReg r.w t o.d.toNat o.ty.width (freeAt 3 t)
    bitOp o (fun v j => bfiVal o.ty.width (sub d j o.ty.width) (uval o.ty v 0 j) (uval o.ty v 1 j) (uval o.ty v 2 j)) v)

/-- Ones among the low w bits. -/
def onesOf (w x : Nat) : Nat := ((List.range w).filter (fun i => x.testBit i)).length

/-- Leading zeros of w bits. -/
def leadingZeros (w x : Nat) : Nat := if x % 2 ^ w = 0 then w else w - 1 - (x % 2 ^ w).log2

/-- The low w bits reversed. -/
def reverseBits (w x : Nat) : Nat := ((List.range w).map (fun i => if x.testBit i then 2 ^ (w - 1 - i) else 0)).sum

/-- POPC (R113). -/
def execPopc (o : OpA) (s : State) : Host.Outcome State Fault Refusal :=
  s.laneOp (.popc o) (fun _ _ _ => bitOp o (fun v j => onesOf o.ty.width (uval o.ty v 0 j)))

/-- CLZ (R113). -/
def execClz (o : OpA) (s : State) : Host.Outcome State Fault Refusal :=
  s.laneOp (.clz o) (fun _ _ _ => bitOp o (fun v j => leadingZeros o.ty.width (uval o.ty v 0 j)))

/-- BREV (R113). -/
def execBrev (o : OpA) (s : State) : Host.Outcome State Fault Refusal :=
  s.laneOp (.brev o) (fun _ _ _ => bitOp o (fun v j => reverseBits o.ty.width (uval o.ty v 0 j)))

/-- Any or all of the sub-elements (R115). -/
def anyAll (all : Bool) (n : Nat) (f : Nat → Bool) : Bool :=
  if all then (List.range n).all f else (List.range n).any f

/-- The relations of R115. -/
def intRel (k : Nat) (a b : Int) : Bool :=
  match k with
  | 0 => a == b
  | 1 => a != b
  | 2 => decide (a < b)
  | 3 => decide (a ≤ b)
  | 4 => decide (b < a)
  | _ => decide (b ≤ a)

/-- ICMP (R115). -/
def execIcmp (o : OpA) (s : State) : Host.Outcome State Fault Refusal :=
  s.condOp (.icmp o) (o.d.toNat % 4) (fun _ _ _ v =>
    (anyAll (o.mod.getLsbD 3) o.ty.nsub (fun j => intRel (o.mod.toNat % 8) (ival o.ty v 0 j) (ival o.ty v 1 j)), 0))

/-- SEL (R116). -/
def execSel (o : OpA) (s : State) : Host.Outcome State Fault Refusal :=
  s.laneOp (.sel o) (fun s r t v =>
    wordOp o.d (if s.readCond r.w t (o.mod.toNat % 4) then arg v 0 else arg v 1))

/-- LEA (R118). -/
def execLea (o : OpA) (s : State) : Host.Outcome State Fault Refusal :=
  s.laneOp (.lea o) (fun _ _ _ v => wordOp o.d (addrAdd (arg v 0) ((arg v 1 <<< o.mod.toNat) + arg v 2)))

/-- PSPACE (R119). -/
def execPspace (o : OpA) (s : State) : Host.Outcome State Fault Refusal :=
  s.laneOp (.pspace o) (fun _ _ _ v =>
    wordOp o.d (o.mod ++ (arg v 1).extractLsb' 0 3 ++ (arg v 0).extractLsb' 0 57))

/-- MKAFF (R120). -/
def execMkaff (o : OpA) (s : State) : Host.Outcome State Fault Refusal :=
  s.laneOp (.mkaff o) (fun _ _ t v => wordOp o.d (arg v 0 + BitVec.ofNat 64 t * arg v 1))

/-- IDOT4 (R112). -/
def execIdot4 (o : OpA) (s : State) : Host.Outcome State Fault Refusal :=
  s.laneOp (.idot4 o) (fun _ _ _ v =>
    one o.d (buildSubs 32 2 (fun j =>
      fitInt (o.mod.getLsbD 1) o.ty.isSigned 32 (intVal o.ty.isSigned 32 (sub (arg v 2) j 32) +
        ((List.range 4).map (fun i => ival o.ty v 0 (4 * j + i) * ival o.ty v 1 (4 * j + i))).sum))))

/-- CLOG (R117): the truth table's bit 2·cA + cB. -/
def execClog (o : OpClog) (s : State) : Host.Outcome State Fault Refusal :=
  s.condOp (.clog o) o.d.toNat (fun s r t _ =>
    let a := s.readCond r.w t o.ca.toNat
    let b := s.readCond r.w t o.cb.toNat
    (o.tt.getLsbD ((if a then 2 else 0) + (if b then 1 else 0)), 0))

end Sys2Proof.Machine
end

