-- ==== Sys2Proof/Machine/Float.lean ====
section
/-!
DEFINITION. Class 001: floating arithmetic, comparison, classification and the special functions (spec/06 R121-R126,
spec/05 R96).
-/

namespace Sys2Proof.Machine

/-- Sub-element j of the k-th operand as a value of the type, subnormals flushed under .ftz (R90, R106). -/
def fvalOf (ty : Ty) (ftz : Bool) (v : List Word) (k j : Nat) : FVal := (fmtOfTy ty).read ftz (sub (arg v k) j ty.width)

/-- An exact value rounded into the type, with the flags found before. -/
def putF (ty : Ty) (r : Rnd) (x : FVal × FFlags) : Nat × FFlags :=
  let p := (fmtOfTy ty).write r x.1
  (p.1, p.2 ||| x.2)

/-- A float instruction per sub-element. -/
def floatOp (o : OpA) (f : Rnd → List Word → Nat → FVal × FFlags) (v : List Word) : List (Nat × Word) × FFlags :=
  one o.d (buildSubs o.ty.width o.ty.nsub (fun j => putF o.ty (rndOf o.mod) (f (rndOf o.mod) v j)))

/-- a × b + c exactly: a NaN operand gives NaN without a flag (R121). -/
def fmaVal (mode : Nat) (a b c : FVal) : FVal × FFlags :=
  if a.isNan || b.isNan || c.isNan then (.nan, 0)
  else
    let p := a.mul b
    if p.1.isNan then p else FVal.sum mode [p.1, c]

/-- FADD (R121). -/
def execFadd (o : OpA) (s : State) : Host.Outcome State Fault Refusal :=
  s.laneOp (.fadd o) (fun _ _ _ => floatOp o (fun r v j =>
    FVal.sum r.mode [fvalOf o.ty r.ftz v 0 j, fvalOf o.ty r.ftz v 1 j]))

/-- FSUB (R121). -/
def execFsub (o : OpA) (s : State) : Host.Outcome State Fault Refusal :=
  s.laneOp (.fsub o) (fun _ _ _ => floatOp o (fun r v j =>
    FVal.sum r.mode [fvalOf o.ty r.ftz v 0 j, (fvalOf o.ty r.ftz v 1 j).neg]))

/-- FMUL (R121). -/
def execFmul (o : OpA) (s : State) : Host.Outcome State Fault Refusal :=
  s.laneOp (.fmul o) (fun _ _ _ => floatOp o (fun r v j => (fvalOf o.ty r.ftz v 0 j).mul (fvalOf o.ty r.ftz v 1 j)))

/-- FFMA (R121). -/
def execFfma (o : OpA) (s : State) : Host.Outcome State Fault Refusal :=
  s.laneOp (.ffma o) (fun _ _ _ => floatOp o (fun r v j =>
    fmaVal r.mode (fvalOf o.ty r.ftz v 0 j) (fvalOf o.ty r.ftz v 1 j) (fvalOf o.ty r.ftz v 2 j)))

/-- FMIN (R122). -/
def execFmin (o : OpA) (s : State) : Host.Outcome State Fault Refusal :=
  s.laneOp (.fmin o) (fun _ _ _ => floatOp o (fun r v j =>
    minmaxVal false (fvalOf o.ty r.ftz v 0 j) (fvalOf o.ty r.ftz v 1 j)))

/-- FMAX (R122). -/
def execFmax (o : OpA) (s : State) : Host.Outcome State Fault Refusal :=
  s.laneOp (.fmax o) (fun _ _ _ => floatOp o (fun r v j =>
    minmaxVal true (fvalOf o.ty r.ftz v 0 j) (fvalOf o.ty r.ftz v 1 j)))

/-- fmin(fmax(a, b), c); SAT when a is no NaN and the result differs from it (R122). -/
def clampVal (a b c : FVal) : FVal × FFlags :=
  let x := minmaxVal true a b
  let y := minmaxVal false x.1 c
  (y.1, x.2 ||| y.2 ||| (if !a.isNan && (y.1.isNan || y.1.lt a || a.lt y.1) then fSat else 0))

/-- FCLAMP (R122). -/
def execFclamp (o : OpA) (s : State) : Host.Outcome State Fault Refusal :=
  s.laneOp (.fclamp o) (fun _ _ _ => floatOp o (fun r v j =>
    clampVal (fvalOf o.ty r.ftz v 0 j) (fvalOf o.ty r.ftz v 1 j) (fvalOf o.ty r.ftz v 2 j)))

/-- The relations of R123 and their INVALID. -/
def floatRel (k : Nat) (a b : FVal) : Bool × FFlags :=
  let un := a.isNan || b.isNan
  let fl := if un && decide (2 ≤ k) && decide (k ≤ 5) then fInvalid else 0
  (match k with
   | 0 => a.eqNum b
   | 1 => !(a.eqNum b)
   | 2 => a.ltNum b
   | 3 => a.ltNum b || a.eqNum b
   | 4 => b.ltNum a
   | 5 => b.ltNum a || a.eqNum b
   | 6 => un
   | _ => !un, fl)

/-- FCMP (R123). -/
def execFcmp (o : OpA) (s : State) : Host.Outcome State Fault Refusal :=
  s.condOp (.fcmp o) (o.d.toNat % 4) (fun _ _ _ v =>
    let rel := fun j => floatRel (o.mod.toNat % 8) (fvalOf o.ty false v 0 j) (fvalOf o.ty false v 1 j)
    (anyAll (o.mod.getLsbD 3) o.ty.nsub (fun j => (rel j).1),
      (List.range o.ty.nsub).foldl (fun a j => a ||| (rel j).2) 0))

/-- The class bit of a pattern (R124). -/
def classOf (f : Fmt) (slot : Nat) : Nat :=
  match f.value slot with
  | .nan => 2 ^ 8
  | .inf n => if n then 1 else 2 ^ 7
  | .fin n q =>
    if q.isZero then (if n then 2 ^ 3 else 2 ^ 4)
    else if f.isSub slot then (if n then 2 ^ 2 else 2 ^ 5)
    else if n then 2 else 2 ^ 6

/-- FCLASS (R124). -/
def execFclass (o : OpA) (s : State) : Host.Outcome State Fault Refusal :=
  s.laneOp (.fclass o) (fun _ _ _ => bitOp o (fun v j => classOf (fmtOfTy o.ty) (uval o.ty v 0 j)))

/-- a × 2^n; ±∞ and ±0 unchanged (R121). -/
def scaleVal (a : FVal) (n : Int) : FVal :=
  let n := max (-5000) (min 5000 n)
  match a with
  | .fin neg q => if q.isZero then a else .fin neg (q.scale n)
  | _ => a

/-- FSCALE (R121): SB is a signed integer of the sub-element's width. -/
def execFscale (o : OpA) (s : State) : Host.Outcome State Fault Refusal :=
  s.laneOp (.fscale o) (fun _ _ _ => floatOp o (fun r v j =>
    (scaleVal (fvalOf o.ty r.ftz v 0 j) (intVal true o.ty.width (sub (arg v 1) j o.ty.width)), 0)))

/-- a + c × (b - a), exactly a at c = 0 and b at c = 1 for finite a and b (R121). -/
def lerpVal (mode : Nat) (a b c : FVal) : FVal × FFlags :=
  if a.isNan || b.isNan || c.isNan then (.nan, 0)
  else if a.isFin && b.isFin && c.isZero then (a, 0)
  else if a.isFin && b.isFin && c.isFin && c.q.eq (Q.ofInt 1) then (b, 0)
  else
    let d := FVal.sum mode [b, a.neg]
    if d.1.isNan then d
    else
      let p := c.mul d.1
      if p.1.isNan then p else FVal.sum mode [a, p.1]

/-- FLERP (R121). -/
def execFlerp (o : OpA) (s : State) : Host.Outcome State Fault Refusal :=
  s.laneOp (.flerp o) (fun _ _ _ => floatOp o (fun r v j =>
    lerpVal r.mode (fvalOf o.ty r.ftz v 0 j) (fvalOf o.ty r.ftz v 1 j) (fvalOf o.ty r.ftz v 2 j)))

/-- An integral value in a rounding mode (R121). -/
def integralVal (mode : Nat) (a : FVal) : FVal :=
  match a with
  | .fin neg q => .fin neg (Q.ofInt (q.round mode))
  | _ => a

/-- FRND (R121): sets no flag. -/
def execFrnd (o : OpA) (s : State) : Host.Outcome State Fault Refusal :=
  s.laneOp (.frnd o) (fun _ _ _ => bitOp o (fun v j =>
    ((fmtOfTy o.ty).write rne (integralVal (o.mod.toNat / 4) (fvalOf o.ty false v 0 j))).1))

/-- c + a0·b0 + a1·b1 exactly (R121). -/
def dot2Val (mode : Nat) (a0 b0 a1 b1 c : FVal) : FVal × FFlags :=
  if [a0, b0, a1, b1, c].any FVal.isNan then (.nan, 0)
  else
    let p := a0.mul b0
    let q := a1.mul b1
    if p.1.isNan || q.1.isNan then (.nan, fInvalid) else FVal.sum mode [c, p.1, q.1]

/-- FDOT2 (R121): SC and vD are f32x2. -/
def execFdot2 (o : OpA) (s : State) : Host.Outcome State Fault Refusal :=
  s.laneOp (.fdot2 o) (fun _ _ _ v =>
    let r := rndOf o.mod
    one o.d (buildSubs 32 2 (fun j =>
      putF .f32x2 r (dot2Val r.mode (fvalOf o.ty r.ftz v 0 (2 * j)) (fvalOf o.ty r.ftz v 1 (2 * j))
        (fvalOf o.ty r.ftz v 0 (2 * j + 1)) (fvalOf o.ty r.ftz v 1 (2 * j + 1)) (fvalOf .f32x2 r.ftz v 2 j)))))

/-! ### Special functions (R96, R125) -/

/-- a / b. -/
def divVal (a b : FVal) : FVal × FFlags :=
  if a.isNan || b.isNan then (.nan, 0)
  else
    let neg := a.isNeg != b.isNeg
    if (a.isInf && b.isInf) || (a.isZero && b.isZero) then (.nan, fInvalid)
    else if a.isInf then (.inf neg, 0)
    else if b.isInf || a.isZero then (.fin neg (Q.ofInt 0), 0)
    else if b.isZero then (.inf neg, fDivZero)
    else (.fin neg (a.q.div b.q), 0)

/-- √a. -/
def sqrtVal (a : FVal) : FVal × FFlags :=
  if a.isNan then (.nan, 0)
  else if a.isZero then (a, 0)
  else if a.isNeg then (.nan, fInvalid)
  else if a.isInf then (a, 0)
  else (.ofQ a.q.sqrt, 0)

/-- 1 / a. -/
def rcpVal (a : FVal) : FVal × FFlags :=
  if a.isNan then (.nan, 0)
  else if a.isZero then (.inf a.isNeg, fDivZero)
  else if a.isInf then (.fin a.isNeg (Q.ofInt 0), 0)
  else (.ofQ ((Q.ofInt 1).div a.q), 0)

/-- 1 / √a. -/
def rsqVal (a : FVal) : FVal × FFlags :=
  if a.isNan then (.nan, 0)
  else if a.isZero then (.inf a.isNeg, fDivZero)
  else if a.isNeg then (.nan, fInvalid)
  else if a.isInf then (.fin false (Q.ofInt 0), 0)
  else (.ofQ ((Q.ofInt 1).div a.q).sqrt, 0)

/-- 2^a. -/
def exp2Val (a : FVal) : FVal × FFlags :=
  match a with
  | .nan => (.nan, 0)
  | .inf n => (if n then .fin false (Q.ofInt 0) else .inf false, 0)
  | .fin _ q => (.ofQ q.exp2, 0)

/-- log2 a. -/
def log2Val (a : FVal) : FVal × FFlags :=
  if a.isNan then (.nan, 0)
  else if a.isZero then (.inf true, fDivZero)
  else if a.isNeg then (.nan, fInvalid)
  else if a.isInf then (a, 0)
  else (.ofQ a.q.lg2, 0)

/-- sin a. -/
def sinVal (a : FVal) : FVal × FFlags :=
  match a with
  | .nan => (.nan, 0)
  | .inf _ => (.nan, fInvalid)
  | .fin n q => (if q.isZero then .fin n q else .ofQ q.sin, 0)

/-- cos a. -/
def cosVal (a : FVal) : FVal × FFlags :=
  match a with
  | .nan => (.nan, 0)
  | .inf _ => (.nan, fInvalid)
  | .fin _ q => (.ofQ q.cos, 0)

/-- tanh a. -/
def tanhVal (a : FVal) : FVal × FFlags :=
  match a with
  | .nan => (.nan, 0)
  | .inf n => (.ofQ (Q.ofInt (if n then -1 else 1)), 0)
  | .fin n q => (if q.isZero then .fin n q else .ofQ q.tanh, 0)

/-- A special function of one operand. -/
def specialOp (o : OpA) (f : FVal → FVal × FFlags) : List Word → List (Nat × Word) × FFlags :=
  floatOp o (fun r v j => f (fvalOf o.ty r.ftz v 0 j))

/-- FDIV (R125). -/
def execFdiv (o : OpA) (s : State) : Host.Outcome State Fault Refusal :=
  s.laneOp (.fdiv o) (fun _ _ _ => floatOp o (fun r v j => divVal (fvalOf o.ty r.ftz v 0 j) (fvalOf o.ty r.ftz v 1 j)))

/-- FSQRT (R125). -/
def execFsqrt (o : OpA) (s : State) : Host.Outcome State Fault Refusal :=
  s.laneOp (.fsqrt o) (fun _ _ _ => specialOp o sqrtVal)

/-- FRCP (R125). -/
def execFrcp (o : OpA) (s : State) : Host.Outcome State Fault Refusal :=
  s.laneOp (.frcp o) (fun _ _ _ => specialOp o rcpVal)

/-- FRSQ (R125). -/
def execFrsq (o : OpA) (s : State) : Host.Outcome State Fault Refusal :=
  s.laneOp (.frsq o) (fun _ _ _ => specialOp o rsqVal)

/-- FEXP2 (R125). -/
def execFexp2 (o : OpA) (s : State) : Host.Outcome State Fault Refusal :=
  s.laneOp (.fexp2 o) (fun _ _ _ => specialOp o exp2Val)

/-- FLOG2 (R125). -/
def execFlog2 (o : OpA) (s : State) : Host.Outcome State Fault Refusal :=
  s.laneOp (.flog2 o) (fun _ _ _ => specialOp o log2Val)

/-- FSIN (R125). -/
def execFsin (o : OpA) (s : State) : Host.Outcome State Fault Refusal :=
  s.laneOp (.fsin o) (fun _ _ _ => specialOp o sinVal)

/-- FCOS (R125). -/
def execFcos (o : OpA) (s : State) : Host.Outcome State Fault Refusal :=
  s.laneOp (.fcos o) (fun _ _ _ => specialOp o cosVal)

/-- FSCS (R125, R126): the sine into vD, the cosine into vD+1. -/
def execFscs (o : OpA) (s : State) : Host.Outcome State Fault Refusal :=
  s.laneOp (.fscs o) (fun _ _ _ v =>
    let a := specialOp o sinVal v
    let b := specialOp { o with d := o.d + 1 } cosVal v
    (a.1 ++ b.1, a.2 ||| b.2))

/-- FTANH (R125). -/
def execFtanh (o : OpA) (s : State) : Host.Outcome State Fault Refusal :=
  s.laneOp (.ftanh o) (fun _ _ _ => specialOp o tanhVal)

end Sys2Proof.Machine
end

