-- ==== Sys2Proof/Machine/Issue.lean ====
section
/-!
DEFINITION. Fetching (R17, R39, R40, R185, R303), the groups that can issue (R239) and the passing of a cycle.
-/

namespace Sys2Proof.Machine

/-! ### Fetch -/

/-- What fetch finds at a group's pc. -/
inductive Fetched where
  /-- nothing to issue -/
  | idle
  /-- a step of its own: a trap, or a word of another rate passed over -/
  | moved (s : State)
  /-- an instruction to execute -/
  | run (i : Instr) (s : State)
deriving DecidableEq, Repr

/-- The trap of a fetch (R303, R370; DEDUCED, log 92). -/
def State.fetchTrap (s : State) (wid : Nat) (w : Wave) (lanes : Lanes) (pc : Word) (f : Flt) : State :=
  let t := (lowest lanes).getD 0
  s.takeTrap wid lanes (fun _ => pc)
    { cause := f.cause, mask := lanes, pc, addr := pc, source := (w.thread t).source, malformed := f.malformed, level := f.level
      info := if f.cause == 0x16 then 1 else if f.walkEntry then 6 else 3 }

/-- Moves a group past a word of another rate (R17). -/
def State.passOver (s : State) (wid : Nat) (lanes : Lanes) (len : Nat) : State :=
  s.modWave wid (fun w => (lanesOf lanes).foldl (fun w t => w.modThread t (fun th =>
    { th with pc := th.pc + BitVec.ofNat 64 (8 * len), source := none })) w)

/-- Fetches and decodes for a group. A two-word instruction that straddles a line is illegal before its rate is looked at
(R40; DESIGN CHOICE, log 99). -/
def State.fetchGroup (s : State) (wid : Nat) (w : Wave) (lanes : Lanes) (pc : Word) : Fetched :=
  match s.wordsAt w pc with
  | .error f => .moved (s.fetchTrap wid w lanes pc f)
  | .ok (w0, w1, s) =>
    let two := twoWords (opcOf w0)
    let c : Issue := { wid, lanes, pc, w0, w1 := if two then w1 else 0 }
    let ill := fun (cause : Nat) => Fetched.moved (s.takeTrap wid lanes (fun _ => pc)
      { cause, mask := lanes, pc, w0, w1 := c.w1 })
    let rate := (decHdr w0).rate.toNat
    match decodeWords w0 w1 with
    | .error .reservedOpcode => ill 0x01
    | .error _ =>
      if two && pc.toNat % 64 == 56 then ill 0x01
      else if !rateLegal (s.isDrawProg w) rate then ill 0x01
      else if rate != w.rate then .moved (s.passOver wid lanes (if two then 2 else 1))
      else if privilegedOpc (opcOf w0).toNat && !s.isPriv w then ill 0x02
      else ill 0x01
    | .ok i =>
      if two && pc.toNat % 64 == 56 then ill 0x01
      else if !rateLegal (s.isDrawProg w) rate then ill 0x01
      else if rate != w.rate && !(i matches .ill) then .moved (s.passOver wid lanes (if two then 2 else 1))
      else .run i { s with cur := some c }

/-- A group stands at a word that fetch passes over (R17). -/
def State.otherRateAt (s : State) (w : Wave) (pc : Word) : Bool :=
  match s.wordsAt w pc with
  | .error _ => false
  | .ok (w0, w1, _) =>
    let rate := (decHdr w0).rate.toNat
    rate != w.rate && rateLegal (s.isDrawProg w) rate && !(twoWords (opcOf w0) && pc.toNat % 64 == 56) &&
    (match decodeWords w0 w1 with
     | .error .reservedOpcode => false
     | .error _ => true
     | .ok i => !(i matches .ill))

/-! ### Ready groups (R239) -/

/-- A wait that stops its whole wave (R32, R311). -/
def Wait.stopsWave : Wait → Bool
  | .acq => true
  | .rel => true
  | _ => false

/-- The issue groups of a wave that no wait holds: equal pcs (R10), lowest lane first. None while a TDEC's results are out,
which disables fetch (R287). -/
def Wave.groups (w : Wave) (clk : Nat) : List (Lanes × Word) :=
  if w.threads.any (fun t => !t.exited && t.wait.stopsWave) || w.mitten.any (fun e => e.ins matches .tdec _ && e.st == .sent) then [] else
  let idle := (List.range 32).filter (fun t =>
    let th := w.thread t
    th.present && !th.exited && th.wait == .none)
  let pcs := (idle.map (fun t => (w.thread t).pc)).eraseDups
  (pcs.map (fun pc => (idle.filter (fun t => (w.thread t).pc == pc), pc))).filterMap (fun g =>
    if g.1.all (fun t => decide ((w.thread t).readyAt ≤ clk)) then some (maskOf g.1, g.2) else none)

/-- How a group stands. -/
inductive Standing where
  | ready
  /-- waits for a scoreboard, a Mitten entry, or work of its wave that is under way -/
  | held
  /-- stopped at a wait whose condition is false -/
  | stopped
  /-- takes an entry of an empty queue, which stalls its wave (R46) -/
  | empty
deriving DecidableEq, Repr

/-- Waits that only the wave's own earlier work ends: they hold the rotation's step (R243; DEDUCED, log 84). -/
def ownWait : Instr → Bool
  | .fence _ | .waitp _ | .mwait _ | .opfence _ | .exit _ | .sysr _ | .syswFflags _ => true
  | _ => false

/-- How a group stands (R239, R243, R46). -/
def State.standing (s : State) (wid : Nat) (w : Wave) (g : Lanes × Word) : Standing :=
  match s.fetchGroup wid w g.1 g.2 with
  | .run i s' =>
    match s'.run? i with
    | none => .ready
    | some r =>
      if (s'.decodeCheck r.c r.w i).isSome then .ready
      else if w.queueEmpty i then .empty
      else if s'.commonWait i r then .held
      else if waitOf i s' r then (if ownWait i then .held else .stopped)
      else .ready
  | _ => .ready

/-- The groups of a wave that can issue: none while one of them stalls the wave at an empty queue (R46). -/
def State.readyGroups (s : State) (wid : Nat) (w : Wave) (clk : Nat) : List (Lanes × Word) :=
  let l := (w.groups clk).map (fun g => (g, s.standing wid w g))
  if l.any (fun x => x.2 == .empty) then [] else (l.filter (fun x => x.2 == .ready)).map Prod.fst

/-- The context level that a core uses (R240): an old one until the core has switched, and at most 600 ns (R245;
DEDUCED, log 72). -/
def State.levelOn (s : State) (core ctx : Nat) : Nat :=
  let o := tget 0 s.oldLevels (64 * core + ctx)
  if o = 0 || decide (o / 64 ≤ s.dev.clk) then ((s.ctx? ctx).map (·.level)).getD 0 else o % 64 - 1

def Wave.runs (w : Wave) : Bool := !w.frozen && !w.ended && w.live != 0

/-! ### Cycles -/

/-- sys.ptp after one more tick: 5/6 ns at 1.2 GHz, with one nanosecond of a slew in 2,401 ticks, less than 500 ppm; it
never decreases (R438; DEDUCED, log 94). -/
def Device.nextPtp (d : Device) : Device :=
  let f := d.ptpFrac + 5
  let due := (d.clk + 1) % 2401 == 0
  let more := due && decide (0 < d.slew)
  let less := due && decide (d.slew < 0) && decide (6 ≤ f)
  let ptp := d.ptp + f / 6 + (if more then 1 else 0) - (if less then 1 else 0)
  { d with
    clk := d.clk + 1, ptpFrac := f % 6, ptp
    wheelAt := if ptp / 100 = d.ptp / 100 then d.wheelAt else d.clk + 1
    slew := d.slew - (if more then 1 else 0) + (if less then 1 else 0) }

/-- A gang of a deterministic object is running. -/
def State.detRuns (s : State) : Bool := s.waves.any (fun e => e.2.runs && s.isDet e.2)

/-- The highest commitment whose window is open at a tick (R247). -/
def State.floorAt (s : State) (clk : Nat) : Nat :=
  (s.parts.flatMap (fun p => (p.floors.filter (fun f => decide (f.1 ≤ clk) && decide (clk < f.1 + Config.ticks1us))).map Prod.snd)).foldl max 0

/-- The clock: 1.2 GHz while deterministic work runs, else no lower than the commitments of open windows (R7, R247). -/
def State.clockAt (s : State) (clk mhz : Nat) : Nat := if s.detRuns then 1200 else max mhz (s.floorAt clk)

/-- One tick of sys.clk (DEDUCED, log 94). -/
def State.cycle (s : State) : State :=
  let clk := s.dev.clk + 1
  let ready := fun (e : Nat × Wave) =>
    if e.2.runs && decide (2 ≤ e.2.threads.length) then (s.readyGroups e.1 e.2 clk).filterMap (fun g => lowest g.1) else []
  { s with
    dev := { s.dev.nextPtp with clockMHz := s.clockAt clk s.dev.clockMHz }
    issued := []
    waves := s.waves.map (fun e =>
      let now := ready e
      (e.1, { e.2.landFlags (fun x => decide (x.1 < clk)) with
        readySince := now.foldl (fun t l => tset 0 t l (let o := tget 0 e.2.readySince l; if o = 0 then clk else o)) [] })) }

end Sys2Proof.Machine
end

