-- ==== Sys2Proof/Machine/LoadStore.lean ====
section
/-!
DEFINITION. Loads, stores, queue loads and prefetches, and the events that finish them (spec/09 R188-R196, R191).
-/

namespace Sys2Proof.Machine

/-- A precise fault of the tag register that an access through space 0x4 uses: beyond the wave's registers, of another
home rate, or, for a load, over an operand (R31, R51, R189). -/
def State.tagRegFault (s : State) (i : Instr) (r : Run) : Option State :=
  match s.tagRegs i r with
  | [] => none
  | d :: _ =>
    let mask := maskOf ((lanesOf r.ex).filter (fun t => spaceOf ((s.srcVals r.w i t).getD 0 0) == 4))
    let isLoad := i matches .ld _
    if (s.allot r.w).n ≤ d then some (s.precise r (r.trap 0x01 mask))
    else if isLoad && (readRegs i).any (fun x => (writeRegs i ++ [d]).contains x) then some (s.precise r (r.trap 0x0E mask))
    else if (isLoad && s.homeOf r.w d != r.w.rate) || !homeReadOk (s.isDrawProg r.w) (s.homeOf r.w d) r.w.rate then
      some (s.precise r (r.trap 0x13 mask))
    else none

/-- Ends the issue of a memory instruction, whose entry is made where a thread executes. -/
def State.finishEntry (s : State) (i : Instr) (r : Run) (e : Entry) : State :=
  (if r.ex = 0 then s else s.addEntry r e).finish i r

/-- The sampled data of a load: each lane's words, the lanes that a node refused, and those whose data is bad
(DESIGN CHOICE, log 9). -/
def State.sample (s : State) (i : Instr) (r : Run) (n : Nat) (ea : List (Nat × Word)) (locs : List (Nat × Loc))
    (regs : Nat → List Byte → List Word) : List (Nat × List Word) × Lanes × Lanes :=
  let data := locs.map (fun l => (l.1, s.loadBytes r.w l.1 l.2 n (s.viewOf r.w i ((aget? ea l.1).getD 0))))
  (data.map (fun d => (d.1, regs d.1 (d.2.getD []))),
   maskOf ((data.filter (fun d => d.2.isNone)).map Prod.fst),
   maskOf ((locs.filter (fun l => s.badLoc l.2 n)).map Prod.fst))

/-- The reads of a load or an atomic are performed: what its core has seen (R171), and the acquire that it may be. -/
def State.loaded (s : State) (i : Instr) (r : Run) (o : OpM) (n : Nat) (ea : List (Nat × Word)) (locs : List (Nat × Loc)) : State :=
  (locs.foldl (fun s l => s.afterLoad r.w l.1 l.2 n (s.viewOf r.w i ((aget? ea l.1).getD 0))) s).acquireBy r.w o

/-- Writes the lanes of an entry's result (R193), with their flags (R93), the tag of R25 and the poison marks of bad data
(R373). A register that an undersized producer keeps is not written (R57). -/
def Entry.write (s : State) (e : Entry) (lanes bad : Lanes) (w : Wave) : Wave :=
  let w := (lanesOf lanes).foldl (fun w t =>
    (e.dest.zip ((aget? e.res t).getD [])).foldl (fun w x =>
      if e.keeps.contains (t, x.1) then w else s.writeLane none e.pc w t x.1 x.2) w) w
  let w := w.orFlags (e.flags.foldl (fun a x => if lanes.getLsbD x.1 then a ||| x.2 else a) 0)
  let whole := lanes == w.present
  e.dest.foldl (fun w d =>
    if lanes = 0 then w
    else
      let w := w.stamp d (if e.uni && lanes == e.exec then .u (w.reg d ((lowest lanes).getD 0)) else .g) whole
      let w := w.derive d true
      if bad &&& lanes = 0 then w else { w with poison := tset 0 w.poison d (e.pc + 1) }) w

/-- A deferred fault of a wave that has exited goes to the fault queue, and its entry is freed (R191, R378). -/
def State.lateFault (s : State) (wid seq : Nat) : State :=
  match s.wave? wid with
  | none => s
  | some w =>
    match w.entry? seq with
    | none => s
    | some e =>
      if w.live = 0 && e.st == .fault then
        let s := s.modWave wid (fun w => w.dropEntry seq)
        s.faultRecord w.ctx { cause := 0x14, flags := 9, pc := e.pc, gid := s.gidOf w, addr := e.faultAddr
                              info := BitVec.ofNat 64 e.orig, mask := e.exec &&& ~~~e.done, w0 := e.w0, w1 := e.w1 }
      else s

def ldSpaces : List Nat := [0, 1, 2, 3, 4, 5, 15]
def stSpaces : List Nat := [0, 1, 2, 3, 4, 15]

/-- LD (R193): the data of every executing lane is taken here and written by LOAD_COMPLETE (DESIGN CHOICE, log 9). -/
def execLd (o : OpM) (s : State) : Host.Outcome State Fault Refusal :=
  s.issue (.ld o) noWait (fun s r =>
    match s.tagRegFault (.ld o) r with
    | some s' => s'
    | none =>
      let ea := s.addrs (.ld o) r (eaOf o)
      s.checked r accLoad ldSpaces o.size.bytes o.size.bytes ea (fun s locs =>
        let p := s.sample (.ld o) r o.size.bytes ea locs (fun t bs =>
          let ws := wordsOf o.size.regs bs
          if spaceOf ((aget? ea t).getD 0) == 4 then ws ++ [s.tagAt r.w t ((aget? locs t).getD (.mem 0))] else ws)
        let s := s.loaded (.ld o) r o o.size.bytes ea locs
        let tagged := s.tagRegs (.ld o) r
        let e : Entry :=
          { r.entry (.ld o) .i 0 with
            addr := (ea.head?.map Prod.snd).getD 0, ea, loc := locs, res := p.1, bad := p.2.2
            dest := groupAt (.reg o.d) o.size.regs ++ tagged }
        if p.2.1 = 0 then s.finishEntry (.ld o) r e
        else
          let ok := r.ex &&& ~~~p.2.1
          (s.modWave r.c.wid (Entry.write s e ok p.2.2)).finishEntry (.ld o) r
            { e with st := .fault, orig := 0x05, done := ok }))

/-- ST (R193): the data enters the wave's FIFO. -/
def execSt (o : OpM) (s : State) : Host.Outcome State Fault Refusal :=
  s.issue (.st o) noWait (fun s r =>
    match s.tagRegFault (.st o) r with
    | some s' => s'
    | none =>
      let ea := s.addrs (.st o) r (eaOf o)
      s.checked r accStore stSpaces o.size.bytes o.size.bytes ea (fun s locs =>
        let regs := groupAt (.reg o.d) o.size.regs ++ s.tagRegs (.st o) r
        s.finishEntry (.st o) r
          { r.entry (.st o) .s 1 with
            addr := (ea.head?.map Prod.snd).getD 0, ea, loc := locs
            vals := (lanesOf r.ex).map (fun t => (t, s.groupVals r.w (.st o) t regs)) }))

/-- Adds an entry to a queue of a wave. -/
def Wave.enqueue (w : Wave) (q : Nat) (x : Option (List Word)) : Wave :=
  { w with queues := lmod w.queues q (fun k => { k with entries := k.entries ++ [x] }) }

/-- LDQ (R194): reserves an entry of the paired wave's queue, which LOAD_COMPLETE fills. An issue in which no thread
executes pushes zeros. -/
def execLdq (o : OpM) (s : State) : Host.Outcome State Fault Refusal :=
  s.issue (.ldq o) (ldqWait o) (fun s r =>
    let q := o.d.toNat % 8
    match r.w.pair.bind s.wave? with
    | none => s.finish (.ldq o) r
    | some v =>
      if (v.queue q).depth = 0 then (if r.ex = 0 then s.finish (.ldq o) r else s.precise r (r.trap 0x12 r.ex))
      else if r.ex = 0 then
        (s.modWave (r.w.pair.getD 0) (fun v => v.enqueue q (some (List.replicate 32 0)))).finish (.ldq o) r
      else
        let ea := s.addrs (.ldq o) r (eaOf o)
        s.checked r accLoad [0, 1, 2, 3, 4, 5] o.size.bytes o.size.bytes ea (fun s locs =>
            let p := s.sample (.ldq o) r o.size.bytes [] locs (fun _ bs => wordsOf 1 bs)
            let s := s.loaded (.ldq o) r o o.size.bytes [] locs
            let s := s.modWave (r.w.pair.getD 0) (fun v => v.enqueue q none)
            s.finishEntry (.ldq o) r
              { r.entry (.ldq o) .i 0 with
                addr := (ea.head?.map Prod.snd).getD 0, ea, loc := locs, res := p.1, queue := some q, bad := p.2.2
                st := if p.2.1 = 0 then .issued else .fault
                orig := if p.2.1 = 0 then 0 else 0x05
                done := if p.2.1 = 0 then 0 else r.ex &&& ~~~p.2.1 }))

/-- PREF (R195): never faults; the translation buffers may keep what its walk found (DESIGN CHOICE, log 86). Its entry is
freed when the lines have arrived. -/
def execPref (o : OpM) (s : State) : Host.Outcome State Fault Refusal :=
  s.issue (.pref o) noWait (fun s r =>
    let ea := s.addrs (.pref o) r (eaOf o)
    (s.touch r.w.ctx (ea.map Prod.snd)).finishEntry (.pref o) r
      { r.entry (.pref o) .i 0 with addr := (ea.head?.map Prod.snd).getD 0, ea })

/-- Fills the k-th reserved entry of a queue. -/
def fillNone (v : List Word) : Nat → List (Option (List Word)) → List (Option (List Word))
  | _, [] => []
  | 0, none :: l => some v :: l
  | k + 1, none :: l => none :: fillNone v k l
  | k, some x :: l => some x :: fillNone v k l

/-- Fills the queue entry that an LDQ reserved. -/
def State.fillQueue (s : State) (w : Wave) (e : Entry) (q : Nat) : State :=
  let mine := w.mitten.filter (fun x => x.queue == some q)
  let k := (mine.findIdx? (fun x => x.seq == e.seq)).getD 0
  let row := queueRow (fun t => ((aget? e.res t).getD []).getD 0 0) e.bad e.pc
  match w.pair with
  | none => s
  | some p => s.modWave p (fun v => { v with
      queues := lmod v.queues q (fun x => { x with entries := fillNone row k x.entries }) })

/-- Entries of class I whose result waits for LOAD_COMPLETE: loads, PREF, and the instructions that read pages, textures,
held records and ray data (R109, R190, R301). -/
def completes (i : Instr) : Bool :=
  match i with
  | .ld _ | .ldt _ | .pref _ | .vqdec _ | .qnt _ | .tex _ | .boxt _ | .trit _ | .hread _ => true
  | _ => false

/-- An instruction of class T that its issue performs (R301): ATOMIC_RESULT_RETURN writes its results and frees its entry. -/
def State.answerTagged (s : State) (i : Instr) (r : Run) (vals : List (Nat × List Word)) (res : List LaneRes) : State :=
  if r.ex = 0 then s.finish i r
  else
    s.finishEntry i r
      { r.entry i .t 5 with
        st := .sent, vals, dest := (res.head?.map (fun l => l.2.1.map Prod.fst)).getD []
        res := res.map (fun l => (l.1, l.2.1.map Prod.snd)) }

/-- The sources of every executing lane, as an operand block keeps them (R384). -/
def State.laneVals (s : State) (i : Instr) (r : Run) : List (Nat × List Word) := (lanesOf r.ex).map (fun t => (t, s.srcVals r.w i t))

/-- The lowest executing thread's D, SA, SB and SC (R384). -/
def State.lowVals (s : State) (i : Instr) (r : Run) (d : BitVec 8) : List (Nat × List Word) :=
  [(r.low, s.regVal r.w r.low d.toNat :: s.srcVals r.w i r.low)]

/-- An instruction of class I: its results are taken here and written by LOAD_COMPLETE (R193, R301). One whose flags trap
has them before the wave goes on (R94; DEDUCED, log 80). -/
def State.answerLater (s : State) (i : Instr) (r : Run) (kind : Nat) (ea : List (Nat × Word)) (bad : Lanes) (res : List LaneRes) : State :=
  let e : Entry :=
    { r.entry i .i kind with
      addr := (ea.head?.map Prod.snd).getD 0, ea, dest := (res.head?.map (fun l => l.2.1.map Prod.fst)).getD []
      res := res.map (fun l => (l.1, l.2.1.map Prod.snd)), flags := res.map (fun l => (l.1, l.2.2)), bad
      vals := s.laneVals i r }
  if r.ex = 0 then s.finish i r
  else if res.all (fun l => r.w.trapping l.2.2 == 0) then s.finishEntry i r e
  else
    ((s.modWave r.c.wid (fun w => (Entry.write s { e with flags := [] } r.ex bad w).passEntry)).flagsAndFinish i r
      (res.map (fun l => (l.1, l.2.2))))

/-- LOAD_COMPLETE (R193): the data returns; `bad` marks lanes whose data an error spoilt on its way (R373). -/
def execLoadComplete (wid seq : Nat) (bad : Lanes) (s : State) : Host.Outcome State Fault Refusal :=
  match (s.wave? wid).bind (fun w => (w.entry? seq).map (fun e => (w, e))) with
  | none => .next s
  | some (w, e) =>
    if e.st != .issued || w.frozen || s.farBusy w e then .next s
    else
      let s := s.heardFrom w e
      match e.queue with
      | some q => .next ((s.fillQueue w { e with bad := e.bad ||| (bad &&& e.exec) } q).modWave wid (fun w => w.dropEntry seq))
      | none =>
        if completes e.ins then .next ((s.modWave wid (fun w => (Entry.write s e e.exec (e.bad ||| bad) w).dropEntry seq)).useFree)
        else .next s

/-! ### The arithmetic of the memory side (R197) -/

/-- The float format of an access size. -/
def memFmt (n : Nat) : Fmt := if n = 8 then fmtF64 else if n = 4 then fmtF32 else fmtBf16

/-- The operation of a code on n bytes. -/
def atomFn (op n a b : Nat) : Nat :=
  let w := 8 * n
  let f := memFmt n
  let x := intVal true w a
  let y := intVal true w b
  match op with
  | 0 => (a + b) % 2 ^ w
  | 1 => Nat.land a b
  | 2 => Nat.lor a b
  | 3 => Nat.xor a b
  | 4 => wrapInt w (min x y)
  | 5 => wrapInt w (max x y)
  | 6 => min a b
  | 7 => max a b
  | 8 => b
  | 9 => (f.write rne (FVal.sum 0 [f.value a, f.value b]).1).1
  | 10 => (f.write rne (minmaxVal false (f.value a) (f.value b)).1).1
  | _ => (f.write rne (minmaxVal true (f.value a) (f.value b)).1).1

/-- Reads and writes n bytes at a location as one access: the state and the old value, or the cause met at the memory
side. A node that is not this S9 performs it as that node does (R198): the value returned is free
(DEDUCED, log 15). -/
def State.rmw (s : State) (ctx : Nat) (core : Option Nat) (l : Loc) (n op : Nat) (data : List Byte) (f : Nat → Nat) (free : Nat) :
    Except Nat (State × Nat) :=
  match l with
  | .node k a =>
    match s.partOfNode k with
    | none => .ok (s.emit (.atomic k a op data), (s.free free).toNat % 2 ^ (8 * n))
    | some p =>
      match s.inbound p (s.nodeOfCtx ctx) a n true true with
      | none => .error 0x05
      | some pa =>
        if s.badPa pa n then .error 0x16
        else
          let old := leNat (s.nodeRead (s.inboundSpill p (s.nodeOfCtx ctx) a n true true) pa n free)
          .ok (s.nodeWrite (s.inboundVa p (s.nodeOfCtx ctx) a n true true) pa (toBytes n (f old)), old)
  | _ =>
    if s.badLoc l n then .error 0x16
    else
      let old := leNat ((s.readLoc ctx l n 0).getD [])
      match s.storeLane ctx core l (toBytes n (f old)) with
      | .ok s => .ok (s, old)
      | .error c => .error c

/-- Instructions whose entry STORE_ACKNOWLEDGE frees: the stores, and the atomics that return nothing. -/
def ackedKind (e : Entry) : Bool :=
  match e.ins with
  | .st _ | .stt _ | .red _ | .faddo _ | .pxout _ | .emit _ => true
  | _ => false

/-- The result of a T access still returns to its wave: always, but to a wave that is stopped for a freeze only where the
freeze waits for it, for a node that keeps no tags (R388) or for the room of a tag store, newest first (R387). -/
def State.returns (s : State) (w : Wave) (e : Entry) : Bool :=
  !s.farBusy w e && (!w.frozen || s.tagless e || s.surplusTag (tagWord w e.seq))

/-- STORE_ACKNOWLEDGE (R193). -/
def execStoreAcknowledge (wid seq : Nat) (s : State) : Host.Outcome State Fault Refusal :=
  match (s.wave? wid).bind (fun w => (w.entry? seq).map (fun e => (w, e))) with
  | none => .next s
  | some (w, e) =>
    if e.st == .sent && ackedKind e && s.returns w e then
      .next (((s.heardFrom w e).dropTag w seq).modWave wid (fun w => w.dropEntry seq))
    else .next (s.lateFault wid seq)

/-- A lane's access lies at a node outside this S9. -/
def State.farLane (s : State) (e : Entry) (t : Nat) : Bool :=
  match aget? e.loc t with
  | some (.node n _) => (s.partOfNode n).isNone
  | _ => false

/-- Lanes of an entry for which a memory-side or remote fault can still arrive: accesses at other nodes, stores at the
head of the FIFO, copies and REDBs that are not done. -/
def State.faultable (s : State) (w : Wave) (e : Entry) : Lanes :=
  if e.st == .fault then 0
  else
    let first := (w.mitten.find? Entry.inFifo).map (·.seq) == some e.seq
    e.exec &&& ~~~e.done &&& maskOf ((lanesOf e.exec).filter (fun t =>
      s.farLane e t || (first && e.ins matches .st _) || e.isCopy || e.ins matches .redb _))

/-- Applies one lane of a REDB entry: the state and whether it met an error (R203). -/
def State.redbLane (s : State) (w : Wave) (e : Entry) (lane : Nat) : State × Bool :=
  match e.ins, aget? e.loc lane with
  | .redb o, some loc =>
    let n := o.size.bytes
    let v := (((aget? e.vals lane).getD []).getD 0 0).toNat % 2 ^ (8 * n)
    match s.rmw w.ctx none loc n o.op [] (fun old => atomFn o.op n old v) 0 with
    | .error _ => (s, true)
    | .ok x => (x.1, false)
  | _, _ => (s, false)

/-- Lanes of a REDB meet an error: the others that are not done are applied, and the entry is marked (R191, R183). -/
def State.redbFail (s : State) (wid : Nat) (w : Wave) (e : Entry) (hit : Lanes) (orig : Nat) : State :=
  let q := (lanesOf (e.exec &&& ~~~e.done &&& ~~~hit)).foldl (fun (q : State × Lanes) t =>
    let x := q.1.redbLane w e t
    (x.1, if x.2 then q.2 else q.2 ||| 1#32 <<< t)) (s, e.done)
  (q.1.modWave wid (fun w => w.modEntry e.seq (fun x => { x with st := .fault, orig, done := q.2 }))).lateFault wid e.seq

/-- DEFERRED_FAULT_ARRIVAL (R191): the entry is marked, and the fault waits for its delivery; after the wave's exit it
goes to the fault queue. -/
def execDeferredFaultArrival (wid seq : Nat) (lanes : Lanes) (orig : Nat) (s : State) :
    Host.Outcome State Fault Refusal :=
  match (s.wave? wid).bind (fun w => (w.entry? seq).map (fun e => (w, e))) with
  | none => .next s
  | some (w, e) =>
    let hit := lanes &&& s.faultable w e
    if hit = 0 || !s.returns w e || (w.frozen && e.inFifo) || (orig != 0x05 && orig != 0x16) then .next s
    else if e.ins matches .redb _ then .next (s.redbFail wid w e hit orig)
    else
      let s := if e.inFifo then s.sendStore wid w { e with exec := e.exec &&& ~~~hit } else s
      let s := match e.ins with
        | .ld _ | .atom _ | .atomc _ | .chain _ | .pubv _ | .snuff _ =>
          s.modWave wid (Entry.write s e (e.exec &&& ~~~hit) e.bad)
        | _ => s
      let keep := if e.isCopy then 0 else e.exec &&& ~~~hit
      .next ((s.modWave wid (fun w => w.modEntry seq (fun x => { x with
        st := .fault, orig, exec := e.exec, done := keep }))).lateFault wid seq)

end Sys2Proof.Machine
end

