-- ==== Sys2Proof/Machine/Convert.lean ====
section
/-!
DEFINITION. Class 010, first part: conversions, packing, swizzling, block and codebook decode, RAND (spec/06 R127-R136).
-/

namespace Sys2Proof.Machine

/-! ### CVT and CVTI (R127, R128) -/

/-- The source sub-element for each target slot that a conversion writes, or none where the slot keeps its value. -/
def cvtSource (ns nt part slot : Nat) : Option Nat :=
  if ns < nt then (if part * ns ≤ slot ∧ slot < (part + 1) * ns then some (slot - part * ns) else none)
  else if nt < ns then some (part * nt + slot)
  else some slot

/-- Builds the target register of a conversion from the old value and a conversion of source slots. -/
def cvtBuild (o : OpCvt) (old src : Word) (f : Nat → Nat × FFlags) : Word × FFlags :=
  buildSubs o.dst.width o.dst.nsub (fun j =>
    match cvtSource o.ty.nsub o.dst.nsub o.part.toNat j with
    | some k => f (sub src k o.ty.width)
    | none => (sub old j o.dst.width, 0))

/-- The old value of vD, where the instruction reads it. -/
def State.oldD (s : State) (r : Run) (t d width : Nat) : Word := s.readReg r.w t d width (freeAt 3 t)

/-- A value converted between float formats: a NaN sets INVALID (R128). -/
def convFloat (t : Fmt) (r : Rnd) (v : FVal) : Nat × FFlags :=
  let p := t.write r v
  (p.1, p.2 ||| (if v.isNan then fInvalid else 0))

/-- CVT (R128). -/
def execCvt (o : OpCvt) (s : State) : Host.Outcome State Fault Refusal :=
  s.laneOp (.cvt o) (fun s r t v =>
    let rn := rndOf o.mod
    one o.d (cvtBuild o (s.oldD r t o.d.toNat o.dst.width) (arg v 0) (fun x =>
      convFloat (fmtOfTy o.dst) rn ((fmtOfTy o.ty).read rn.ftz x))))

/-- cvt_ef of R95: the result slot, the new residue and the flags. -/
def cvtEf (dst : Fmt) (r : Rnd) (a residue : Nat) : Nat × Nat × FFlags :=
  let x := fmtF32.write rne (FVal.sum 0 [fmtF32.value a, fmtF32.value residue]).1
  let f0 := (FVal.sum 0 [fmtF32.value a, fmtF32.value residue]).2
  let xv := fmtF32.value x.1
  let y := convFloat dst r xv
  if xv.isFin then
    let z := FVal.sum 0 [xv, (dst.value y.1).neg]
    let z' := fmtF32.write rne z.1
    (y.1, z'.1, f0 ||| x.2 ||| y.2 ||| z.2 ||| z'.2)
  else (y.1, 0, f0 ||| x.2 ||| y.2)

/-- CVT with EF (R129): the result in vD, the residue in SC. -/
def execCvtEf (o : OpCvt) (s : State) : Host.Outcome State Fault Refusal :=
  s.laneOp (.cvtEf o) (fun s r t v =>
    let rn : Rnd := { mode := 0, sat := o.mod.getLsbD 1, ftz := o.mod.getLsbD 0 }
    let res := (List.range 2).map (fun k => cvtEf (fmtOfTy o.dst) rn (sub (arg v 0) k 32) (sub (arg v 1) k 32))
    let at_ := fun (k : Nat) => res.getD k (0, 0, 0)
    let y := buildSubs o.dst.width o.dst.nsub (fun j =>
      match cvtSource 2 o.dst.nsub o.part.toNat j with
      | some k => ((at_ k).1, 0)
      | none => (sub (s.oldD r t o.d.toNat o.dst.width) j o.dst.width, 0))
    let z := buildSubs 32 2 (fun k => ((at_ k).2.1, (at_ k).2.2))
    ([(o.d.toNat, y.1)] ++ (srcRegs [(o.sc, Ty.f32x2)]).map (fun c => (c, z.1)), z.2))

/-- A float value to an integer type: rounded to an integral value, then clamped (R128). -/
def floatToInt (t : Ty) (mode : Nat) (v : FVal) : Nat × FFlags :=
  match v with
  | .nan => (0, fInvalid)
  | .inf neg => (wrapInt t.width (if neg then intMin t.isSigned t.width else intMax t.isSigned t.width), fSat ||| fInvalid)
  | .fin _ q =>
    let k := q.round mode
    let c := clampInt t.isSigned t.width k
    (c.1, (if c.2 = 0 then 0 else fSat ||| fInvalid) ||| (if (Q.ofInt k).eq q then 0 else fInexact))

/-- CVTI (R128). -/
def execCvti (o : OpCvt) (s : State) : Host.Outcome State Fault Refusal :=
  s.laneOp (.cvti o) (fun s r t v =>
    let rn := rndOf o.mod
    one o.d (cvtBuild o (s.oldD r t o.d.toNat o.dst.width) (arg v 0) (fun x =>
      if tyIsFloat o.ty then floatToInt o.dst rn.mode ((fmtOfTy o.ty).read rn.ftz x)
      else
        let i := intVal o.ty.isSigned o.ty.width x
        if tyIsFloat o.dst then (fmtOfTy o.dst).write rn (FVal.ofQ (Q.ofInt i))
        else fitInt rn.sat o.dst.isSigned o.dst.width i)))

/-! ### Packing and swizzling (R130, R131) -/

/-- The 192-bit packing of four registers of 6-bit slots. -/
def pack6 (g : List Word) : Nat := packSubs 6 ((List.range 32).map (fun e => sub (g.getD (e / 8) 0) (e % 8) 8 % 64))

/-- PACK (R130). -/
def execPack (o : OpA) (s : State) : Host.Outcome State Fault Refusal :=
  s.laneOp (.pack o) (fun s r t _ =>
    wordOp o.d (BitVec.ofNat 64 (pack6 (s.groupVals r.w (.pack o) t (groupAt o.sa 4)) / 2 ^ (64 * o.mod.toNat))))

/-- UNPK (R130). -/
def execUnpk (o : OpA) (s : State) : Host.Outcome State Fault Refusal :=
  s.laneOp (.unpk o) (fun _ _ _ v =>
    let x := (arg v 0).toNat + 2 ^ 64 * (arg v 1).toNat + 2 ^ 128 * (arg v 2).toNat
    wordOp o.d (buildSubs 8 8 (fun j => (x / 2 ^ (6 * (8 * o.mod.toNat + j)) % 64, 0))).1)

/-- SWZ (R131). -/
def execSwz (o : OpA) (s : State) : Host.Outcome State Fault Refusal :=
  s.laneOp (.swz o) (fun _ _ _ => bitOp o (fun v j =>
    let n := o.ty.nsub
    let k := uval o.ty v 1 j % (2 * n)
    if k < n then uval o.ty v 0 k else uval o.ty v 2 (k - n)))

/-! ### Blocks and codebooks (R78, R80, R132-R135) -/

/-- scale_value of R78. -/
def scaleQ (sc : Nat) : Q := if sc = 0xFF then Q.ofInt 1 else Q.pow2 ((sc : Int) - 127)

/-- Element e of 64 bits of a decoded format (R69, R81). -/
def fmtElem (f : Nat) (a : Word) (e : Nat) : FVal :=
  let ty := tyOfCode f
  let x := sub a e ty.width
  if tyIsFloat ty then (fmtOfTy ty).value x else FVal.ofQ (Q.ofInt (intVal ty.isSigned ty.width x))

/-- DECB (R132). -/
def execDecb (o : OpA) (s : State) : Host.Outcome State Fault Refusal :=
  s.laneOp (.decb o) (fun _ _ _ v =>
    let tag := (arg v 1).toNat % 65536
    let f := tag % 256
    let p := o.mod.toNat / 4
    let rn : Rnd := { mode := 0, sat := o.mod.getLsbD 1, ftz := o.mod.getLsbD 0 }
    let fm := fmtOfTy o.ty
    one o.d (buildSubs 16 4 (fun j =>
      if 1 ≤ f ∧ f ≤ 15 then
        let ty := tyOfCode f
        let e := 4 * p + j
        if e < ty.nsub then
          let x := fmtElem f (arg v 0) e
          let x := if rn.ftz && tyIsFloat ty then (fmtOfTy ty).read true (sub (arg v 0) e ty.width) else x
          let y := x.mul (.fin false (scaleQ (tag / 256)))
          let w := fm.write rn y.1
          (w.1, w.2 ||| (if x.isNan then fInvalid else 0))
        else (0, 0)
      else (0, fInvalid))))

/-- vq2_decode of R80: weight e of an index, exactly. -/
def vqWeight (entry idx sc e : Nat) : Q :=
  let neg := if e < 7 then idx.testBit e else (List.range 7).foldl (fun p k => p != idx.testBit k) false
  let m := entry / 2 ^ (4 * e) % 16
  let a := (({ num := 2 * m + (if idx.testBit 7 then 1 else 0), den := 2 } : Q)).mul (scaleQ sc)
  if neg then a.neg else a

/-- The 32-bit words of a codebook page (R79). -/
def pageWords (bs : List Byte) : List Nat := (List.range 256).map (fun i => leNat ((bs.drop (4 * i)).take 4))

/-- An instruction that reads words of a codebook page for each executing thread, as relaxed loads (R135): its checks are
precise, an uncorrectable word that it reads poisons vD, and LOAD_COMPLETE writes its result (R109). -/
def State.pageOp (s : State) (i : Instr) (ptr : List Word → Word) (reads : List Word → List Nat)
    (f : State → Run → Nat → List Word → List Nat → List (Nat × Word) × FFlags) : Host.Outcome State Fault Refusal :=
  s.issue i noWait (fun s r =>
    let ea := s.addrs i r ptr
    s.checked r accLoad [0, 1, 2, 4] 1024 1024 ea (fun s locs =>
      let view := s.viewOf r.w i 0
      let res := locs.map (fun l =>
        let page := pageWords ((s.loadBytes r.w l.1 l.2 1024 view).getD [])
        ((l.1, f s r l.1 (s.srcVals r.w i l.1) page) : LaneRes))
      let bad := maskOf ((locs.filter (fun l =>
        (reads (s.srcVals r.w i l.1)).any (fun k => s.badLoc (l.2.plus (4 * k)) 4))).map Prod.fst)
      (locs.foldl (fun s l => s.afterLoad r.w l.1 l.2 1024 view) s).answerLater i r 7 ea bad res))

/-- VQDEC (R133). -/
def execVqdec (o : OpA) (s : State) : Host.Outcome State Fault Refusal :=
  s.pageOp (.vqdec o) (fun v => arg v 1) (fun v => [sub (arg v 0) (o.mod.toNat % 8 / 2) 16 / 256]) (fun _ _ _ v page =>
    let p := o.mod.toNat % 8
    let idx := sub (arg v 0) (p / 2) 16
    one o.d (buildSubs 16 4 (fun j =>
      (fmtOfTy o.ty).write rne (FVal.ofQ (vqWeight (page.getD (idx / 256) 0) idx ((arg v 2).toNat % 256)
        (4 * (p % 2) + j))))))

/-- One candidate of qnt: the error and the index (R134). -/
def qntTry (w : List Q) (entry i c sc : Nat) : Q × Nat :=
  let a := (List.range 8).map (fun e =>
    (({ num := 2 * (entry / 2 ^ (4 * e) % 16 : Nat) + c, den := 2 } : Q)).mul (scaleQ sc))
  let at_ := fun (l : List Q) (e : Nat) => l.getD e (Q.ofInt 0)
  let neg := (List.range 8).map (fun e => (at_ w e).isNeg)
  let odd := neg.foldl (fun p b => p != b) false
  let cost := fun (e : Nat) => (at_ w e).abs.mul (at_ a e)
  let flip := (List.range 8).foldl (fun b e => if (cost e).lt (cost b) then e else b) 0
  let neg := if odd then neg.mapIdx (fun e b => if e = flip then !b else b) else neg
  let err := (List.range 8).foldl (fun x e =>
    let d := (at_ w e).sub (if neg.getD e false then (at_ a e).neg else at_ a e)
    x.add (d.mul d)) (Q.ofInt 0)
  (err, i * 256 + c * 128 + packSubs 1 ((neg.take 7).map (fun b => if b then 1 else 0)))

/-- qnt of R134: exact search, the first of equal errors. -/
def qntBest (w : List Q) (page : List Nat) (sc : Nat) : Nat :=
  match (List.range 512).foldl (fun (b : Option (Q × Nat)) k =>
    let x := qntTry w (page.getD (k / 2) 0) (k / 2) (k % 2) sc
    match b with
    | none => some x
    | some y => if x.1.lt y.1 then some x else some y) none with
  | some x => x.2
  | none => 0

/-- QNT (R134): writes slot J of vD. -/
def execQnt (o : OpA) (s : State) : Host.Outcome State Fault Refusal :=
  s.pageOp (.qnt o) (fun v => arg v 0) (fun _ => List.range 256) (fun s r t v page =>
    let g := s.groupVals r.w (.qnt o) t (groupAt o.sa (if o.ty == .f32x2 then 4 else 2))
    let w := (List.range 8).map (fun e =>
      (fmtOfTy o.ty).value (sub (g.getD (e / o.ty.nsub) 0) (e % o.ty.nsub) o.ty.width))
    let bad := w.any (fun x => !x.isFin)
    let idx := if bad then 0 else qntBest (w.map FVal.q) page ((arg v 1).toNat % 256)
    let old := s.oldD r t o.d.toNat 16
    one o.d (buildSubs 16 4 (fun j =>
      if j = o.mod.toNat % 4 then (idx, if bad then fInvalid else 0) else (sub old j 16, 0))))

/-! ### RAND (R136) -/

def rotl32 (x s : Nat) : Nat := (x * 2 ^ s + x % 2 ^ 32 / 2 ^ (32 - s)) % 2 ^ 32

/-- rand of R136. -/
def randVal (ctr key : Word) : Word :=
  let k0 := key.toNat % 2 ^ 32
  let k1 := key.toNat / 2 ^ 32
  let ks := [k0, k1, Nat.xor (Nat.xor k0 k1) 0x1BD11BDA]
  let rot := [13, 15, 26, 6, 17, 29, 16, 24, 8, 19]
  let x := (List.range 10).foldl (fun (x : Nat × Nat) i =>
    let x0 := (x.1 + x.2 + ks.getD (i % 3) 0 + i) % 2 ^ 32
    (x0, Nat.xor (rotl32 x.2 (rot.getD i 0)) x0)) (ctr.toNat % 2 ^ 32, ctr.toNat / 2 ^ 32)
  BitVec.ofNat 64 (x.2 * 2 ^ 32 + x.1)

/-- RAND (R136). -/
def execRand (o : OpA) (s : State) : Host.Outcome State Fault Refusal :=
  s.laneOp (.rand o) (fun _ _ _ v => wordOp o.d (randVal (arg v 0) (arg v 1)))

end Sys2Proof.Machine
end

