-- ==== Sys2Proof/Machine/Lane.lean ====
section
/-!
DEFINITION. The cross-lane instructions: gathering the exchange group (R137) and what each computes over its sources
(spec/06 R138-R143, spec/05 R98).
-/

namespace Sys2Proof.Machine

/-- What a cross-lane computation sees: the operand words of each thread of the exchange group whose guard passes, a
condition register of each, and the sources of each reader (R137). -/
structure Cross where
  vals : Nat → List Word
  cond : Nat → Bool
  srcs : Nat → Lanes

/-- The value of one reader. -/
abbrev CrossFn := Cross → Nat → List (Nat × Word) × FFlags

/-- Which operand is the membership mask. -/
def maskIndex : Instr → Nat
  | .shfl _ | .shflx _ => 2
  | .vote _ => 0
  | _ => 1

/-- The membership mask of thread t (R137). -/
def State.memberMask (s : State) (w : Wave) (i : Instr) (t : Nat) : Lanes :=
  (s.srcVal w t (srcsOf i) (maskIndex i)).setWidth 32

/-- The joint issue of an exchange group. -/
def State.crossIssue (s : State) (i : Instr) (r : Run) (f : CrossFn) : State :=
  let c : Cross :=
    { vals := fun u => s.srcVals r.w i u
      cond := fun u => (readConds i).any (s.readCond r.w u)
      srcs := fun t => let m := s.memberMask r.w i t; if m.getLsbD t then m &&& r.ex else 0 }
  s.commitRegs i r ((lanesOf r.ex).map (fun t => (t, f c t)))

/-- A group arrives: threads whose own mask does not name them take part alone, the others wait (R137). -/
def State.crossOp (s : State) (i : Instr) (f : CrossFn) : Host.Outcome State Fault Refusal :=
  s.issue i noWait (fun s r =>
    let alone := maskOf ((lanesOf r.c.lanes).filter (fun t => !(s.memberMask r.w i t).getLsbD t))
    let rest := r.c.lanes &&& ~~~alone
    let key := r.c.pc.toNat
    let s := s.modWave r.c.wid (fun w =>
      let w := { w with exch := tset 0 w.exch key (tget 0 w.exch key ||| alone) }
      (lanesOf rest).foldl (fun w t => w.modThread t (fun th => { th with wait := .exchange })) w)
    if alone = 0 then { s.useFree with cur := none }
    else s.crossIssue i { r with c := { r.c with lanes := alone }, ex := r.ex &&& alone } f)

/-- A waiting thread's mask is met: every present thread that it names waits at the same pc, has passed it, or has
exited (R137; DEDUCED, log 81). -/
def State.memberMet (s : State) (w : Wave) (i : Instr) (pc : Word) (t : Nat) : Bool :=
  (lanesOf (s.memberMask w i t &&& w.live)).all (fun u =>
    ((w.thread u).wait == .exchange && (w.thread u).pc == pc) || (tget 0 w.exch pc.toNat).getLsbD u)

/-- The threads that wait at the cross-lane instruction at which a lane waits (DEDUCED, log 81). -/
def Wave.exchangeAt (w : Wave) (lane : Nat) : Lanes :=
  maskOf ((List.range 32).filter (fun t => (w.thread t).wait == .exchange && (w.thread t).pc == (w.thread lane).pc))

/-! ### SHFL, SHFLX, VOTE, PEERS -/

/-- SHFL's source lane (R138). -/
def shflLane (mode t u : Nat) : Option Nat :=
  match mode with
  | 0 => some u
  | 1 => if u ≤ t then some (t - u) else none
  | 2 => if t + u ≤ 31 then some (t + u) else none
  | _ => some (Nat.xor t u)

def shflVal (o : OpA) : CrossFn := fun c t =>
  let v := c.vals t
  match shflLane (o.mod.toNat % 4) t ((arg v 1).toNat % 32) with
  | some q => wordOp o.d (if (c.srcs t).getLsbD q then arg (c.vals q) 0 else arg v 0)
  | none => wordOp o.d (arg v 0)

/-- SHFLX's source position (R139). -/
def shflxPos (mode p u n : Nat) : Option Nat :=
  match mode with
  | 0 => some u
  | 1 => some (Nat.xor p u)
  | 2 => if u ≤ p then some (p - u) else none
  | _ => if p + u < n then some (p + u) else none

def shflxVal (o : OpA) : CrossFn := fun c t =>
  let v := c.vals t
  let k := o.ty.nsub
  let n := 32 * k
  let mode := o.mod.toNat % 4
  bitOp o (fun v j =>
    let u := uval o.ty v 1 (if mode = 0 then j else 0) % n
    match shflxPos mode (t * k + j) u n with
    | some q => if (c.srcs t).getLsbD (q / k) then sub (arg (c.vals (q / k)) 0) (q % k) o.ty.width else uval o.ty v 0 j
    | none => uval o.ty v 0 j) v

def voteVal (o : OpA) : CrossFn := fun c t =>
  let all := c.srcs t ||| 1#32 <<< t
  let b := maskOf ((lanesOf all).filter c.cond)
  wordOp o.d (match o.mod.toNat / 4 with
    | 0 => b.setWidth 64
    | 1 => if b = 0 then 0 else 1
    | _ => if b = all then 1 else 0)

def peersVal (o : OpA) : CrossFn := fun c t =>
  let own := arg (c.vals t) 0
  wordOp o.d ((maskOf ((lanesOf (c.srcs t ||| 1#32 <<< t)).filter (fun u => u == t || arg (c.vals u) 0 == own))).setWidth 64)

/-! ### Reductions (R98, R141-R143) -/

/-- The slots of every wave position; none where the lane is no source. -/
def positions (c : Cross) (ty : Ty) (t : Nat) : List (Option Nat) :=
  (List.range 32).flatMap (fun u =>
    (List.range ty.nsub).map (fun j => if (c.srcs t).getLsbD u then some (sub (arg (c.vals u) 0) j ty.width) else none))

/-- A pair of R98: one member passes unchanged. -/
def pairUp {α : Type} (f : α → α → α) : List (Option α) → List (Option α)
  | some a :: some b :: l => some (f a b) :: pairUp f l
  | some a :: none :: l => some a :: pairUp f l
  | none :: b :: l => b :: pairUp f l
  | [a] => [a]
  | [] => []

/-- The tree of R98 over `fuel` levels. -/
def treeUp {α : Type} (f : α → α → α) : Nat → List (Option α) → Option α
  | 0, l => l.headD none
  | fuel + 1, l => treeUp f fuel (pairUp f l)

/-- One step of an integer reduction on slots. -/
def redInt (ty : Ty) (op a b : Nat) : Nat :=
  let x := intVal ty.isSigned ty.width a
  let y := intVal ty.isSigned ty.width b
  match op with
  | 0 => wrapInt ty.width (x + y)
  | 1 => wrapInt ty.width (min x y)
  | 2 => wrapInt ty.width (max x y)
  | 3 => Nat.land a b
  | 4 => Nat.lor a b
  | _ => Nat.xor a b

/-- One step of a float reduction on values, with the flags so far. -/
def redFlt (fm : Fmt) (r : Rnd) (op : Nat) (a b : FVal × FFlags) : FVal × FFlags :=
  let x := match op with
    | 0 => FVal.sum r.mode [a.1, b.1]
    | 1 => minmaxVal false a.1 b.1
    | _ => minmaxVal true a.1 b.1
  let y := fm.through r x.1
  (y.1, a.2 ||| b.2 ||| x.2 ||| y.2)

/-- The identity of an operation (R142), as a slot. -/
def redIdentity (ty : Ty) (op : Nat) : Nat :=
  if tyIsFloat ty then
    match op with
    | 1 => ((fmtOfTy ty).write rne (.inf false)).1
    | 2 => ((fmtOfTy ty).write rne (.inf true)).1
    | _ => 0
  else
    match op with
    | 1 => wrapInt ty.width (intMax ty.isSigned ty.width)
    | 2 => wrapInt ty.width (intMin ty.isSigned ty.width)
    | 3 => 2 ^ ty.width - 1
    | _ => 0

/-- A value written back into its own format. -/
def slotOf (ty : Ty) (v : FVal) : Nat := ((fmtOfTy ty).write rne v).1

/-- A reduction over the positions of a reader's sources. -/
def reduceVal (ty : Ty) (r : Rnd) (op : Nat) (l : List (Option Nat)) : Nat × FFlags :=
  if tyIsFloat ty then
    let vs := l.map (fun x => x.map (fun p => ((fmtOfTy ty).read r.ftz p, (0 : FFlags))))
    match treeUp (redFlt (fmtOfTy ty) r op) 11 vs with
    | some x => (slotOf ty x.1, x.2)
    | none => (redIdentity ty op, 0)
  else
    match treeUp (redInt ty op) 11 l with
    | some x => (x, 0)
    | none => (redIdentity ty op, 0)

/-- The same slot in every sub-element. -/
def spread (o : OpA) (x : Nat × FFlags) : List (Nat × Word) × FFlags :=
  let p := one o.d (buildSubs o.ty.width o.ty.nsub (fun _ => (x.1, 0)))
  (p.1, x.2)

def wredVal (o : OpA) : CrossFn := fun c t => spread o (reduceVal o.ty rne (o.mod.toNat % 8) (positions c o.ty t))

def fsumVal (o : OpA) : CrossFn := fun c t => spread o (reduceVal o.ty (rndOf o.mod) 0 (positions c o.ty t))

/-- The prefixes of a list of positions in ascending order, each step rounded (R142): before and up to each. -/
def scanFrom (step : Nat × FFlags → Nat → Nat × FFlags) : Option (Nat × FFlags) → List (Option Nat) →
    List (Option (Nat × FFlags) × Option (Nat × FFlags))
  | _, [] => []
  | a, x :: l =>
    let b := match a, x with
      | some a, some x => some (step a x)
      | none, some x => some (x, 0)
      | a, none => a
    (a, b) :: scanFrom step b l

/-- A scan's step on slots. -/
def scanStep (ty : Ty) (op : Nat) (a : Nat × FFlags) (x : Nat) : Nat × FFlags :=
  if tyIsFloat ty then
    let fm := fmtOfTy ty
    let y := redFlt fm rne op (fm.value a.1, a.2) (fm.value x, 0)
    (slotOf ty y.1, y.2)
  else (redInt ty op a.1 x, 0)

/-- WSCAN (R142): a reader up to whose position nothing contributes gets the identity, also where its scan is inclusive
(DESIGN CHOICE, log 103). -/
def wscanVal (o : OpA) : CrossFn := fun c t =>
  let op := o.mod.toNat % 8
  let excl := o.mod.getLsbD 3
  let l := scanFrom (scanStep o.ty op) none (positions c o.ty t)
  one o.d (buildSubs o.ty.width o.ty.nsub (fun j =>
    let p := l.getD (t * o.ty.nsub + j) (none, none)
    match (if excl then p.1 else p.2) with
    | some x => (if tyIsFloat o.ty then slotOf o.ty ((fmtOfTy o.ty).value x.1) else x.1, x.2)
    | none => (redIdentity o.ty op, 0)))

def amaxVal (o : OpA) : CrossFn := fun c t =>
  let fm := fmtOfTy o.ty
  let vs := (positions c o.ty t).filterMap (fun x => x.map (fun p => (fm.value p).abs))
  spread o (if vs.any FVal.isNan then (fm.canonical, fInvalid)
    else (slotOf o.ty (vs.foldl (fun a b => if a.lt b then b else a) (.fin false (Q.ofInt 0))), 0))

/-- The computation of each cross-lane instruction. -/
def crossFn : Instr → CrossFn
  | .shfl o => shflVal o
  | .shflx o => shflxVal o
  | .vote o => voteVal o
  | .peers o => peersVal o
  | .wred o => wredVal o
  | .wscan o => wscanVal o
  | .fsum o => fsumVal o
  | .amax o => amaxVal o
  | _ => fun _ _ => ([], 0)

/-- SHFL (R138). -/
def execShfl (o : OpA) (s : State) : Host.Outcome State Fault Refusal := s.crossOp (.shfl o) (shflVal o)

/-- SHFLX (R139). -/
def execShflx (o : OpA) (s : State) : Host.Outcome State Fault Refusal := s.crossOp (.shflx o) (shflxVal o)

/-- VOTE (R140). -/
def execVote (o : OpA) (s : State) : Host.Outcome State Fault Refusal := s.crossOp (.vote o) (voteVal o)

/-- PEERS (R140). -/
def execPeers (o : OpA) (s : State) : Host.Outcome State Fault Refusal := s.crossOp (.peers o) (peersVal o)

/-- WRED (R141). -/
def execWred (o : OpA) (s : State) : Host.Outcome State Fault Refusal := s.crossOp (.wred o) (wredVal o)

/-- WSCAN (R142). -/
def execWscan (o : OpA) (s : State) : Host.Outcome State Fault Refusal := s.crossOp (.wscan o) (wscanVal o)

/-- FSUM (R141, R98). -/
def execFsum (o : OpA) (s : State) : Host.Outcome State Fault Refusal := s.crossOp (.fsum o) (fsumVal o)

/-- AMAX (R143). -/
def execAmax (o : OpA) (s : State) : Host.Outcome State Fault Refusal := s.crossOp (.amax o) (amaxVal o)

/-- The exchange group at a lane's cross-lane instruction may issue, with its issue (DEDUCED, log 81). -/
def State.exchangeReady (s : State) (wid lane : Nat) : Option (Instr × State × Run) :=
  match s.wave? wid with
  | none => none
  | some w =>
    let g := w.exchangeAt lane
    if g = 0 || !w.runs then none
    else
      match s.fetchGroup wid w g (w.thread lane).pc with
      | .run i s' =>
        match s'.run? i with
        | none => none
        | some r =>
          if isCross i && (lanesOf g).all (s'.memberMet w i r.c.pc) && !w.queueShort i then some (i, s', r) else none
      | _ => none

end Sys2Proof.Machine
end

