-- ==== Sys2Proof/Machine/Atomic.lean ====
section
/-!
DEFINITION. Atomics, ordered adds, chains and memory-side reductions, with the events that finish them (spec/09
R197-R200, R203, spec/05 R99, R100, spec/08 R183).
-/

namespace Sys2Proof.Machine

/-- The lanes of an atomic, in lane order (R174): the state, the old values, the lanes that met a fault, its cause
(DEDUCED, log 77). -/
def State.rmwAll (s : State) (ctx : Nat) (core : Option Nat) (n op : Nat) (locs : List (Nat × Loc)) (data : Nat → List Byte) (f : Nat → Nat → Nat) :
    State × List (Nat × List Word) × Lanes × Nat :=
  locs.foldl (fun (p : State × List (Nat × List Word) × Lanes × Nat) l =>
    match p.1.rmw ctx core l.2 n op (data l.1) (f l.1) (freeAt 320 l.1) with
    | .ok x => (x.1, p.2.1 ++ [(l.1, [BitVec.ofNat 64 x.2])], p.2.2)
    | .error c => (p.1, p.2.1, p.2.2.1 ||| 1#32 <<< l.1, c)) (s, [], 0, 0)

/-- Lanes whose pointer is in a space that deterministic mode closes to atomics (R105). -/
def detLanes (ea : List (Nat × Word)) : Lanes :=
  maskOf ((ea.filter (fun x => let sp := spaceOf x.2; sp == 0 || sp == 3 || sp == 4)).map Prod.fst)

/-- An atomic: performed at the memory side after every earlier store of the wave; its result returns later (R173,
R198). Lanes that meet a fault there keep their location, and the fault is deferred (R192). -/
def State.atomicOp (s : State) (i : Instr) (o : OpM) (op : Nat) (dest : List Nat) (data : State → Run → Nat → List Word)
    (operand : List Word → Word) (f : List Word → Nat → Nat) : Host.Outcome State Fault Refusal :=
  s.issue i (waitOf i) (fun s r =>
    let n := o.size.bytes
    let ea := s.addrs i r (fun v => v.getD 0 0)
    let det := detLanes ea
    if s.isDet r.w && det != 0 then s.precise r (r.trap 0x0D det)
    else
      let vals := (lanesOf r.ex).map (fun t => (t, data s r t))
      let at_ := fun (t : Nat) => (aget? vals t).getD []
      s.checked r accAtomic [0, 1, 2, 3, 4] n n ea (fun s locs =>
        let s := ((s.drainWave r.c.wid).releaseBy r.w o).acquireBy r.w o
        let s := locs.foldl (fun s l => s.loosen r.w l.2 n) s
        let p := s.rmwAll r.w.ctx (s.writer r.w) n op locs (fun t => toBytes n (operand (at_ t)).toNat) (fun t => f (at_ t))
        let e : Entry :=
          { r.entry i .t 2 with
            addr := (ea.head?.map Prod.snd).getD 0, ea, loc := locs, vals, res := p.2.1, dest, st := .sent }
        let s := if r.ex = 0 then p.1 else p.1.noteTag r.w i r.w.seqNext (locs.map Prod.snd)
        if p.2.2.1 = 0 then s.finishEntry i r e
        else
          let ok := r.ex &&& ~~~p.2.2.1
          (s.modWave r.c.wid (Entry.write s e ok 0)).finishEntry i r { e with st := .fault, orig := p.2.2.2, done := ok }))

/-- ATOM (R198). -/
def execAtom (o : OpM) (s : State) : Host.Outcome State Fault Refusal :=
  s.atomicOp (.atom o) o o.op [o.d.toNat] (fun s r t => [(s.srcVals r.w (.atom o) t).getD 1 0]) (fun v => v.getD 0 0)
    (fun v old => atomFn o.op o.size.bytes old ((v.getD 0 0).toNat % 2 ^ (8 * o.size.bytes)))

/-- ATOMC (R198): SB is compared, D is stored. -/
def execAtomc (o : OpM) (s : State) : Host.Outcome State Fault Refusal :=
  s.atomicOp (.atomc o) o 12 [o.d.toNat]
    (fun s r t => [(s.srcVals r.w (.atomc o) t).getD 1 0, s.regVal r.w t o.d.toNat]) (fun v => v.getD 1 0)
    (fun v old =>
      let m := 2 ^ (8 * o.size.bytes)
      if old = (v.getD 0 0).toNat % m then (v.getD 1 0).toNat % m else old)

/-- RED (R198): returns nothing. -/
def execRed (o : OpM) (s : State) : Host.Outcome State Fault Refusal :=
  s.atomicOp (.red o) o o.op [] (fun s r t => [s.regVal r.w t o.d.toNat]) (fun v => v.getD 0 0)
    (fun v old => atomFn o.op o.size.bytes old ((v.getD 0 0).toNat % 2 ^ (8 * o.size.bytes)))

/-- Instructions whose result ATOMIC_RESULT_RETURN brings back. -/
def resultReturns (i : Instr) : Bool :=
  match i with
  | .atom _ | .atomc _ | .chain _ | .pubv _ | .snuff _ | .tspawn _ | .ttime _ | .tdep _ | .tdepWatch _ | .tdec _ | .rspawn _
  | .prioXchg _ | .prioSet _ => true
  | _ => false

/-- ATOMIC_RESULT_RETURN (R198, R301): the destination lanes are written and the entry is freed (DEDUCED, log 77). -/
def execAtomicResultReturn (wid seq : Nat) (s : State) : Host.Outcome State Fault Refusal :=
  match (s.wave? wid).bind (fun w => (w.entry? seq).map (fun e => (w, e))) with
  | none => .next s
  | some (w, e) =>
    if e.st == .sent && resultReturns e.ins && s.returns w e then
      .next ((((s.heardFrom w e).dropTag w seq).modWave wid (fun w => (Entry.write s e e.exec 0 w).dropEntry seq)).useFree)
    else .next (s.lateFault wid seq)

/-! ### FADDO (R99, R199) -/

/-- Workgroup n of a launch has finished or retired: it was admitted, and it does not exist or has finished. -/
def State.wgDone (s : State) (u n : Nat) : Bool :=
  match s.launch? u with
  | none => true
  | some l =>
    match s.wgs.find? (fun e => s.wgIndex e.2 == n && ((s.gang? e.2.gang).map (fun a => a.launch == u)).getD false) with
    | some e => s.wgFinished e.1
    | none =>
      let g := n / max 1 l.gsize
      decide (g < l.nextGang)

/-- The key order (R99; DEDUCED, log 76). -/
def Contribution.before (a b : Contribution) : Bool := lexLt [a.wg, a.tid, a.seq] [b.wg, b.tid, b.seq]

/-- The lowest pending contribution to an address (DEDUCED, log 76). -/
def Launch.nextFaddo (l : Launch) (pa : Nat) : Option Contribution :=
  (l.faddo.filter (fun c => c.loc == .mem pa)).foldl (fun b c =>
    match b with
    | none => some c
    | some d => if c.before d then some c else some d) none

/-- No thread that numbers 0 in the contribution's workgroup, in a coarse element or not, can still issue a lower key. -/
def State.zerosPast (s : State) (u : Nat) (c : Contribution) : Bool :=
  let mine := s.waves.filter (fun e => e.2.idx == 0 && (e.2.kind == .compute || e.2.kind == .coarse) &&
    ((s.wg? e.2.wg).map (fun g => s.wgIndex g == c.wg && ((s.gang? g.gang).map (·.launch)) == some u)).getD false)
  mine.all (fun e => (e.2.thread 0).exited || decide (c.seq ≤ (e.2.thread 0).faddoSeq)) &&
  (!c.coarse || c.seq == 0 || mine.any (fun e => e.2.kind == .compute))

/-- Every lower key has been applied or is absent: lower workgroups are done, and so is its own, except that only keys of
thread 0 come before a key of thread 0. -/
def State.faddoTurn (s : State) (u : Nat) (c : Contribution) : Bool :=
  (List.range c.wg).all (s.wgDone u) && (s.wgDone u c.wg || (c.tid == 0 && s.zerosPast u c))

/-- FADDO (R199): the contributions wait at the memory channel under their keys. -/
def execFaddo (o : OpM) (s : State) : Host.Outcome State Fault Refusal :=
  s.issue (.faddo o) (waitOf (.faddo o)) (fun s r =>
    let n := o.size.bytes
    let ea := s.addrs (.faddo o) r (fun v => v.getD 0 0)
    s.checked r accAtomic [0, 4] n n ea (fun s locs =>
      let s := s.drainWave r.c.wid
      let u := ((s.launchOf r.w).map Prod.fst).getD 0
      let g := ((s.wg? r.w.wg).map s.wgIndex).getD 0
      let bad := maskOf ((locs.filter (fun l => s.badLoc l.2 n)).map Prod.fst)
      let e : Entry :=
        { r.entry (.faddo o) .t 2 with
          addr := (ea.head?.map Prod.snd).getD 0, ea, loc := locs
          vals := (lanesOf r.ex).map (fun t => (t, [s.regVal r.w t o.d.toNat]))
          st := if bad = 0 then .sent else .fault
          orig := if bad = 0 then 0 else 0x16
          done := if bad = 0 then 0 else r.ex &&& ~~~bad }
      let mine := (locs.filter (fun l => !bad.getLsbD l.1)).map (fun l =>
        ({ loc := l.2, wg := g, tid := 32 * r.w.idx + l.1, seq := (r.w.thread l.1).faddoSeq, wide := n == 8
           value := s.regVal r.w l.1 o.d.toNat, wid := r.c.wid, lane := l.1, coarse := r.w.kind == .coarse
           entry := { e with slot := r.w.freeEntry, seq := r.w.seqNext } } : Contribution))
      let s := s.modLaunch u (fun l => { l with faddo := l.faddo ++ mine })
      let s := s.modWave r.c.wid (fun w => (lanesOf r.ex).foldl (fun w t =>
        w.modThread t (fun th => { th with faddoSeq := th.faddoSeq + 1 })) w)
      (if r.ex = 0 then s else s.noteTag r.w (.faddo o) r.w.seqNext (locs.map Prod.snd)).finishEntry (.faddo o) r e))

/-- A contribution fails at the memory side (R192): its wave's entry, kept or made anew, waits for its covering FENCE or
EXIT; after the wave's exit the fault goes to the fault queue (R378). -/
def State.faddoFault (s : State) (ctx : Nat) (c : Contribution) (orig : Nat) : State :=
  let bit : Lanes := 1#32 <<< c.lane
  let fault := fun (e : Entry) => { e with st := .fault, orig, done := (if e.st == .fault then e.done else e.exec) &&& ~~~bit }
  match s.wave? c.wid with
  | some w =>
    (if (w.entry? c.entry.seq).any (fun e => e.pc == c.entry.pc) then s.modWave c.wid (fun w => w.modEntry c.entry.seq fault)
     else s.modWave c.wid (fun w => { w with mitten := w.mitten ++ [fault c.entry] })).lateFault c.wid c.entry.seq
  | none =>
    s.faultRecord ctx { cause := 0x14, flags := 9, pc := c.entry.pc, info := BitVec.ofNat 64 orig
                        addr := (aget? c.entry.ea c.lane).getD 0, mask := bit, w0 := c.entry.w0, w1 := c.entry.w1 }

/-- FADDO_APPLY (R99): the next contribution to an address, once its turn has come (DEDUCED, log 76). -/
def execFaddoApply (u at_ : Nat) (s : State) : Host.Outcome State Fault Refusal :=
  match (s.launch? u).bind (fun l => (l.nextFaddo at_).map (fun c => (l, c))) with
  | none => .next s
  | some (l, c) =>
    if !s.faddoTurn u c then .next s
    else
      let n := if c.wide then 8 else 4
      let s := s.modLaunch u (fun l => { l with faddo := l.faddo.erase c })
      match s.rmw l.ctx none c.loc n 9 [] (fun old => atomFn 9 n old (c.value.toNat % 2 ^ (8 * n))) 0 with
      | .ok x => .next x.1
      | .error k => .next (s.faddoFault l.ctx c k)

/-! ### CHAIN (R200) -/

def Launch.chain? (l : Launch) (loc : Loc) : Option Chain := l.chains.find? (fun c => c.loc == loc)

/-- Changes the chain on a location, or starts it. -/
def Launch.modChain (l : Launch) (loc : Loc) (wide : Bool) (f : Chain → Chain) : Launch :=
  if l.chains.any (fun c => c.loc == loc) then
    { l with chains := l.chains.map (fun c => if c.loc == loc then f c else c) }
  else { l with chains := l.chains ++ [f { loc, wide }] }

/-- A chain is broken: an application failed, or a workgroup was terminated before it had taken its ticket. -/
def Launch.chainBroken (l : Launch) (loc : Loc) : Bool :=
  ((l.chain? loc).map (·.broken)).getD false || l.terminated.any (fun t => !t.2.contains loc)

def Chain.holds (c : Chain) (wg : Nat) : Bool := c.tickets.any (fun t => t.wg == wg) || c.performed.contains wg

/-- CHAIN (R200): takes the workgroup's ticket; its group waits for the ticket's turn. -/
def execChain (o : OpM) (s : State) : Host.Outcome State Fault Refusal :=
  s.issue (.chain o) (waitOf (.chain o)) (fun s r =>
    let n := o.size.bytes
    let ea := s.addrs (.chain o) r (fun v => v.getD 0 0)
    let a := (ea.head?.map Prod.snd).getD 0
    let other := maskOf ((ea.filter (fun x => x.2 != a)).map Prod.fst)
    if r.ex = 0 then s.finish (.chain o) r
    else if other != 0 then s.precise r (r.trap 0x01 other)
    else
      s.checked r accAtomic [0, 4] n n ea (fun s locs =>
        match s.launchOf r.w, locs.head? with
        | some (u, l), some (_, loc) =>
          let g := ((s.wg? r.w.wg).map s.wgIndex).getD 0
          if l.chainBroken loc || ((l.chain? loc).map (fun c => c.holds g)).getD false then
            s.precise r (r.trap 0x0C r.ex)
          else
            let s := s.drainWave r.c.wid
            let vals := (lanesOf r.ex).map (fun t => (t, (s.srcVals r.w (.chain o) t).getD 1 0))
            let s := s.modWg r.w.wg (fun g => { g with tickets := g.tickets ++ [a] })
            let s := s.modLaunch u (fun l => l.modChain loc (n == 8) (fun c => { c with
              tickets := c.tickets ++ [{ wg := g, wid := r.c.wid, entry := r.w.seqNext, lanes := r.ex, vals }] }))
            let e : Entry :=
              { r.entry (.chain o) .t 2 with
                addr := a, ea, loc := locs, vals := vals.map (fun x => (x.1, [x.2])), dest := [o.d.toNat] }
            (s.addEntry r e).finishWait (.chain o) r (fun _ => .chain)
        | _, _ => s.finish (.chain o) r))

/-- The ticket of a chain whose turn it is: the lowest, once every lower workgroup has performed or is done. -/
def State.chainTurn (s : State) (u : Nat) (c : Chain) : Option Ticket :=
  match c.tickets.foldl (fun (b : Option Ticket) t =>
      match b with
      | none => some t
      | some x => if t.wg < x.wg then some t else some x) none with
  | none => none
  | some t => if (List.range t.wg).all (fun n => c.performed.contains n || s.wgDone u n) then some t else none

/-- The exclusive prefixes of a ticket from a start value, and its total (R200). -/
def chainPrefixes (m : Nat) (v : Nat) : List (Nat × Word) → List (Nat × List Word) × Nat
  | [] => ([], v)
  | (t, x) :: l =>
    let p := chainPrefixes m ((v + x.toNat) % m) l
    ((t, [BitVec.ofNat 64 v]) :: p.1, p.2)

/-- CHAIN_TICKET_PERFORMED (R200): the ticket whose turn has come, or, in a broken chain, the trap of a waiting one. -/
def execChainTicketPerformed (u at_ : Nat) (s : State) : Host.Outcome State Fault Refusal :=
  match (s.launch? u).bind (fun l => (l.chain? (.mem at_)).map (fun c => (l, c))) with
  | none => .next s
  | some (l, c) =>
    let loc : Loc := .mem at_
    let gone := fun (g : Nat) => l.terminated.any (fun t => t.1 == g)
    let drop := fun (s : State) (t : Ticket) => s.modLaunch u (fun l => l.modChain loc c.wide (fun c => { c with
      tickets := c.tickets.filter (fun x => x.wg != t.wg) }))
    let awake := fun (t : Ticket) => !gone t.wg && !((s.wave? t.wid).map (fun w => w.frozen || w.trap.inHandler)).getD false
    match l.chainBroken loc, c.tickets.find? awake with
    | true, some t =>
      match (s.wave? t.wid).bind (fun w => (w.entry? t.entry).map (fun e => (w, e))) with
      | none => .next (drop s t)
      | some (_, e) =>
        let s := (drop s t).modWave t.wid (fun w => w.dropEntry t.entry)
        .next (s.takeTrap t.wid t.lanes (fun _ => e.pc) { cause := 0x0C, mask := t.lanes, pc := e.pc, w0 := e.w0, w1 := e.w1 })
    | _, _ =>
      match (s.chainTurn u c).filter (fun t => !l.chainBroken loc || gone t.wg) with
      | none => .next s
      | some t =>
        let n := if c.wide then 8 else 4
        let m := 2 ^ (8 * n)
        let s := drop s t
        match s.rmw l.ctx none loc n 0 [] (fun old => (chainPrefixes m old t.vals).2) 0 with
        | .error k =>
          let s := s.modLaunch u (fun l => l.modChain loc c.wide (fun c => { c with broken := true }))
          .next (((s.modWave t.wid (fun w => w.modEntry t.entry (fun e => { e with
            st := .fault, orig := k }))).release t.wid t.lanes (· == .chain)).lateFault t.wid t.entry)
        | .ok x =>
          let s := x.1.modLaunch u (fun l => l.modChain loc c.wide (fun c => { c with performed := c.performed ++ [t.wg] }))
          let res := (chainPrefixes m x.2 t.vals).1
          if gone t.wg then .next (s.modWave t.wid (fun w => w.dropEntry t.entry))
          else
            .next ((s.modWave t.wid (fun w => w.modEntry t.entry (fun e => { e with st := .sent, res }))).release
              t.wid t.lanes (· == .chain))

/-! ### REDB (R183, R203) -/

/-- REDB (R203): each lane's reduction is sent to the owning base die. -/
def execRedb (o : OpM) (s : State) : Host.Outcome State Fault Refusal :=
  s.issue (.redb o) (waitOf (.redb o)) (fun s r =>
    let n := o.size.bytes
    let ea := s.addrs (.redb o) r (fun v => v.getD 0 0)
    if s.isDet r.w && r.ex != 0 then s.precise r (r.trap 0x0D r.ex)
    else
      s.checked r accAtomic [0, 4] n n ea (fun s locs =>
        s.finishEntry (.redb o) r
          { r.entry (.redb o) .t 2 with
            addr := (ea.head?.map Prod.snd).getD 0, ea, loc := locs, st := .sent
            vals := (lanesOf r.ex).map (fun t => (t, [s.regVal r.w t o.d.toNat])) }))

/-- REDB_APPLY (R183): one lane's reduction takes its place in coherence. An error in one lane leaves the others to be
applied, and marks the entry (R191). -/
def execRedbApply (wid seq lane : Nat) (s : State) : Host.Outcome State Fault Refusal :=
  match (s.wave? wid).bind (fun w => (w.entry? seq).map (fun e => (w, e))) with
  | none => .next s
  | some (w, e) =>
    if !(e.ins matches .redb _) || w.frozen || e.st == .fault || !e.exec.getLsbD lane || e.done.getLsbD lane then .next s
    else
      let p := s.redbLane w e lane
      let bit : Lanes := 1#32 <<< lane
      if !p.2 then
        let done := e.done ||| bit
        .next (p.1.modWave wid (fun w =>
          if done == e.exec then w.dropEntry seq else w.modEntry seq (fun e => { e with st := .partly, done })))
      else
        .next (p.1.redbFail wid w e bit 0x16)

end Sys2Proof.Machine
end

