-- ==== Sys2Proof/Machine/Tasking.lean ====
section
/-!
DEFINITION. Dependency counters, task slots and ready queues, watches and settle groups (spec/14 R284-R289, R297-R300).
-/

namespace Sys2Proof.Machine

/-! ### Counters (R287) -/

def State.counter (s : State) (ctr : Nat) : BitVec 16 :=
  ((s.lanterns[ctr / 4096 % 16]?).map (fun l => tget 0 l.ctrs (ctr % 4096))).getD 0

def State.setCounter (s : State) (ctr : Nat) (v : BitVec 16) : State :=
  s.modLantern (ctr / 4096 % 16) (fun l => { l with ctrs := tset 0 l.ctrs (ctr % 4096) v })

/-! ### Tasks (R284, R286) -/

/-- The lowest free task slot. -/
def Lantern.freeTask (l : Lantern) : Option Nat :=
  let used := l.slotted.map (·.slot)
  if Config.taskSlots ≤ used.length then none
  else (List.range (used.length + 1)).find? (fun k => !used.contains k)

/-- Gives a task a slot and its generation. -/
def Lantern.place (l : Lantern) (k : Task) (slot : Nat) : Lantern × Task :=
  let gen := tget 0 l.gens slot
  let k := { k with slot, gen }
  ({ l with tasks := l.tasks ++ [k], gens := tset 0 l.gens slot ((gen + 1) % 16384) }, k)

/-- Adds a task to a lantern, at the end of its queue or list; where no slot is free the task is held (R298). -/
def State.addTask (s : State) (lan : Nat) (k : Task) : State × Option Task :=
  match s.lanterns[lan]? with
  | none => (s, none)
  | some l =>
    let k := { k with order := s.nextKey, since := s.dev.clk }
    let s := { s with nextKey := s.nextKey + 1 }
    match l.freeTask with
    | some slot =>
      let p := l.place k slot
      (s.modLantern lan (fun _ => p.1), some p.2)
    | none => (s.modLantern lan (fun l => { l with tasks := l.tasks ++ [{ k with st := .held, slot := Config.taskSlots }] }), none)

/-- Inserts a task before the first of a greater order. -/
def insertTask (k : Task) : List Task → List Task
  | [] => [k]
  | x :: l => if k.order < x.order then k :: x :: l else x :: insertTask k l

def sortTasks : List Task → List Task
  | [] => []
  | k :: l => insertTask k (sortTasks l)

/-- Makes tasks Ready in an order: each goes to the end of its ready queue (R286). -/
def State.makeReady (s : State) (lan : Nat) (ks : List Task) : State :=
  ks.foldl (fun s k =>
    let o := s.nextKey
    { s.modLantern lan (fun l => { l with tasks := l.tasks.map (fun x =>
        if x.order == k.order then { x with st := .ready, order := o, since := s.dev.clk } else x) }) with
      nextKey := o + 1 }) s

/-- Tasks bound to a counter, in binding order. -/
def State.bound (s : State) (ctr : Nat) : List Task :=
  ((s.lanterns[ctr / 4096 % 16]?).map (fun l => sortTasks (l.tasks.filter (fun k => k.st == .pending ctr)))).getD []

/-- Releases every task bound to a counter (R287). -/
def State.releaseCounter (s : State) (ctr : Nat) : State := s.makeReady (ctr / 4096 % 16) (s.bound ctr)

/-- Sets a counter, releasing its tasks at zero. -/
def State.putCounter (s : State) (ctr : Nat) (v : BitVec 16) : State :=
  let s := s.setCounter ctr v
  if v = 0 then s.releaseCounter ctr else s

/-- Lowers a counter by one: none at zero (R287). -/
def State.decCounter (s : State) (ctr : Nat) : Option State :=
  let v := s.counter ctr
  if v = 0 then none else some (s.putCounter ctr (v - 1))

/-! ### Settle groups and watches (R297-R299) -/

/-- Changes a settle-group word at the memory side, as an atomic add (R299). A word that cannot be reached keeps its
value. -/
def State.settleAdd (s : State) (ctx : Nat) (word : Word) (d : Word) : State :=
  if word = 0 then s
  else
    match s.agentLoc ctx accAtomic [0, 4] 8 8 word with
    | .error _ => s
    | .ok l =>
      match s.rmw ctx none l 8 0 [] (fun old => atomFn 0 8 old d.toNat) 0 with
      | .ok x => x.1
      | .error _ => s

/-- Fires one template of a watch: updates the instance that has not started, or creates one (R298)
(DEDUCED, log 88). -/
def State.fireTemplate (s : State) (v : Watch) (tpl : Task) (word : Word) : State :=
  let lan := v.ctr / 4096 % 16
  let waiting := fun (k : Task) => k.watch == some (v.id, tpl.order) && (k.st == .ready || k.st == .held)
  if ((s.lanterns[lan]?).map (fun l => l.tasks.any waiting)).getD false then
    s.modLantern lan (fun l => { l with tasks := l.tasks.map (fun k => if waiting k then { k with ver := word } else k) })
  else
    ((s.addTask lan { slot := 0, gen := 0, ctx := v.ctx, entry := tpl.entry, obj := tpl.obj, arg := tpl.arg, prio := tpl.prio, st := .ready
                      ver := word, watch := some (v.id, tpl.order), settle := v.settle }).1).settleAdd v.ctx v.settle 1

/-- Fires a watch: every task bound to its counter is a template (DEDUCED, log 88). -/
def State.fireWatch (s : State) (v : Watch) (word : Word) : State :=
  (s.bound v.ctr).foldl (fun s k => s.fireTemplate v k word) s

/-- The watches on a tile, lanterns in ascending order. -/
def State.watchesOn (s : State) (tile : Nat) : List Watch := s.lanterns.flatMap (fun l => l.watches.filter (fun v => v.tile == tile))

/-- Dissolves a watch (R299); with the last watch of a counter its templates are discarded (R321)
(DEDUCED, log 88). -/
def State.dissolve (s : State) (v : Watch) : State :=
  let lan := v.ctr / 4096 % 16
  let s := s.modLantern lan (fun l => { l with watches := l.watches.filter (fun x => x.id != v.id) })
  let last := ((s.lanterns[lan]?).map (fun l => !l.watches.any (fun x => x.ctr == v.ctr))).getD true
  let s := if last then s.modLantern lan (fun l => { l with tasks := l.tasks.filter (fun k => k.st != .pending v.ctr) }) else s
  s.settleAdd v.ctx v.settle (-1)

end Sys2Proof.Machine
end

