-- ==== Sys2Proof/Machine/Tile.lean ====
section
/-!
DEFINITION. Tile instructions: STT, LDT, PUBV, SNUFF and the test of VWAIT, with the re-firing of watches (spec/09
R204-R207, spec/14 R298).
-/

namespace Sys2Proof.Machine

/-- Issue of a whole wave without a guard (R204), or cause 0x01. -/
def wholeWave (i : Instr) (r : Run) : Bool := r.c.lanes == r.w.live && r.w.live == r.w.present && guardOf i == .always

/-- The tile address of STT and LDT: from lane 0 (R204). -/
def State.tileAddr (s : State) (i : Instr) (o : OpM) (r : Run) : Word :=
  addrAdd (s.srcVal r.w 0 (srcsOf i) 0) (o.off.signExtend 64 * 4096)

/-- STT (R204): the tile enters the wave's FIFO. -/
def execStt (o : OpM) (s : State) : Host.Outcome State Fault Refusal :=
  s.issue (.stt o) noWait (fun s r =>
    if !wholeWave (.stt o) r then s.precise r (r.trap 0x01 r.c.lanes)
    else
      let a := s.tileAddr (.stt o) o r
      s.checked r accStore [0, 4] 4096 4096 [(r.low, a)] (fun s locs =>
        let regs := groupAt (.reg o.d) 16
        s.finishEntry (.stt o) r
          { r.entry (.stt o) .s 1 with
            addr := a, ea := [(r.low, a)], loc := locs
            vals := (lanesOf r.ex).map (fun t => (t, s.groupVals r.w (.stt o) t regs ++ [(s.srcVals r.w (.stt o) t).getD 1 0])) }))

/-- LDT (R204): data and version word from one point in the tile's order, with what the wave's own stores in the FIFO
write there (R173); LOAD_COMPLETE writes them. -/
def execLdt (o : OpM) (s : State) : Host.Outcome State Fault Refusal :=
  s.issue (.ldt o) noWait (fun s r =>
    if !wholeWave (.ldt o) r then s.precise r (r.trap 0x01 r.c.lanes)
    else
      let a := s.tileAddr (.ldt o) o r
      s.checked r accLoad [0, 4] 4096 4096 [(r.low, a)] (fun s locs =>
        let loc := (locs.head?.map Prod.snd).getD (.mem 0)
        let bytes := (s.readLoc r.w.ctx loc 4096 0).getD []
        let mine := fun (t : Nat) => r.w.forward t (loc.plus (128 * t)) ((bytes.drop (128 * t)).take 128)
        let res := (lanesOf r.ex).map (fun t =>
          ((t, (wordsOf 16 (mine t)).mapIdx (fun i v => (o.d.toNat + i, v)) ++
            (groupAt o.sb 1).map (fun d => (d, s.versionAt r.w loc)), 0) : LaneRes))
        let bad := maskOf ((lanesOf r.ex).filter (fun t => s.badLoc (loc.plus (128 * t)) 128))
        (((s.afterLoad r.w r.low loc 4096 none).acquireBy r.w o)).answerLater (.ldt o) r 0 [(r.low, a)] bad res))

/-! ### Versions (R205-R207) -/

/-- The location of the tile of PUBV, SNUFF and VWAIT: from the lowest executing thread. -/
def State.lowTile (s : State) (i : Instr) (r : Run) : List (Nat × Word) :=
  if r.ex = 0 then [] else [(r.low, s.srcVal r.w r.low (srcsOf i) 0)]

/-- A version operation performed at the memory side: its word returns to every executing thread. An uncorrectable
block leaves the word as it was, and the fault is deferred (R192). -/
def State.versionOp (s : State) (i : Instr) (o : OpM) (f : State → Loc → State × Word) :
    Host.Outcome State Fault Refusal :=
  s.issue i (waitOf i) (fun s r =>
    let ea := s.lowTile i r
    s.checked r accAtomic [0, 4] 4096 4096 ea (fun s locs =>
      match locs.head? with
      | none => s.finish i r
      | some (_, loc) =>
        let s := (s.drainWave r.c.wid).releaseBy r.w o
        let a := (ea.head?.map Prod.snd).getD 0
        let e : Entry :=
          { r.entry i .t 5 with
            addr := a, ea, loc := locs, dest := [o.d.toNat], st := .sent
            vals := [(r.low, [s.regVal r.w r.low o.d.toNat, s.srcVal r.w r.low (srcsOf i) 0, 0, 0])] }
        if s.badLoc loc 4096 then s.finishEntry i r { e with st := .fault, orig := 0x16 }
        else
          let p := f s loc
          let s := p.1.noteTag r.w i r.w.seqNext [loc]
          s.finishEntry i r { e with res := (lanesOf r.ex).map (fun t => (t, [p.2])) }))

def tileOf : Loc → Nat
  | .mem pa => pa / 4096
  | .closed pa _ => pa / 4096
  | _ => 0

/-- PUBV's effect on a version word (R205): the word after it, and whether it was raised. -/
def pubvWord (settle : Bool) (w : Word) : Word × Bool :=
  if w.getLsbD 62 || w.getLsbD 63 || w.extractLsb' 0 32 = 0xFFFFFFFF then (w, false)
  else
    let v := w + 1
    (if settle then v ||| 0x8000000000000000 else v, true)

/-- PUBV (R205): raises the version and re-fires the watches; with .settle it then dissolves them (R299). -/
def execPubv (o : OpM) (s : State) : Host.Outcome State Fault Refusal :=
  let settle := o.off.getLsbD 0
  s.versionOp (.pubv o) o (fun s loc =>
    let p := pubvWord settle (s.version loc)
    if !p.2 then (s, p.1)
    else
      let vs := s.watchesOn (tileOf loc)
      let s := vs.foldl (fun s v => s.fireWatch v p.1) (s.setVersion loc p.1)
      (if settle then vs.foldl State.dissolve s else s, p.1))

/-- SNUFF (R206): returns the old word and dissolves every watch (R299). -/
def execSnuff (o : OpM) (s : State) : Host.Outcome State Fault Refusal :=
  s.versionOp (.snuff o) o (fun s loc =>
    let w := s.version loc
    let s := s.setVersion loc (w ||| 0x4000000000000000)
    ((s.watchesOn (tileOf loc)).foldl State.dissolve s, w))

end Sys2Proof.Machine
end

