-- ==== Sys2Proof/Machine/Fence.lean ====
section
/-!
DEFINITION. Fences, waits on memory words and versions, cache control and instruction-cache invalidation (spec/09
R196, R201, R202, R207, R208).
-/

namespace Sys2Proof.Machine

/-! ### FENCE (R201) -/

/-- FENCE (R201): delivers the deferred faults of the entries that it covers (DEDUCED, log 112). -/
def execFence (o : OpM) (s : State) : Host.Outcome State Fault Refusal :=
  s.issue (.fence o) (fenceWait o) (fun s r =>
    match r.w.mitten.find? (fun e => fenceCovers o r.ex e && r.w.deliverable e) with
    | some e => s.deliver r.c.wid r.c.lanes r.c.pc e
    | none => ((s.releaseBy r.w o).acquireBy r.w o).finish (.fence o) r)

/-! ### WAITM and VWAIT (R202, R207) -/

/-- The conditions of R202 on n bytes. -/
def waitmHolds (op n m sb : Nat) : Bool :=
  let w := 8 * n
  let b := sb % 2 ^ w
  match op with
  | 0 => m == b
  | 1 => m != b
  | 2 => decide (b ≤ m)
  | 3 => decide (m < b)
  | 4 => decide (intVal true w b ≤ intVal true w m)
  | 5 => decide (intVal true w m < intVal true w b)
  | _ => Nat.land m b != 0

/-- What thread t's WAITM reads now, if its condition holds. -/
def State.waitmTest (s : State) (o : OpM) (w : Wave) (t : Nat) : Option Word :=
  let v := s.srcVals w (.waitm o) t
  let n := o.size.bytes
  match s.resolve w accLoad [0, 1, 2, 3, 4, 5] n n (v.getD 0 0) (freeAt 300 t) with
  | .error _ => none
  | .ok l =>
    match s.loadBytes w t l n (s.viewOf w (.waitm o) (v.getD 0 0)) with
    | none => none
    | some bs => if waitmHolds o.op n (leNat bs) (v.getD 1 0).toNat then some (leWord bs) else none

/-- What VWAIT reads now, if its condition holds (R207): the word of the lowest executing thread's tile or group. -/
def State.vwaitTest (s : State) (o : OpM) (w : Wave) (t : Nat) : Option Word :=
  let v := s.srcVals w (.vwait o) t
  let n := o.size.bytes
  match s.resolve w accLoad [0, 4] n n (v.getD 0 0) (freeAt 300 t) with
  | .error _ => none
  | .ok l =>
    if o.off.getLsbD 0 then
      match s.loadBytes w t l 8 (s.viewOf w (.vwait o) (v.getD 0 0)) with
      | some bs => if leNat bs = 0 then some 0 else none
      | none => none
    else
      let x := s.versionAt w l
      if x.getLsbD 63 || x.getLsbD 62 || decide ((v.getD 1 0).toNat % 2 ^ 32 ≤ x.toNat % 2 ^ 32) then some x else none

/-- The test of a waiting instruction for an executing thread. -/
def State.memTest (s : State) (i : Instr) (r : Run) (t : Nat) : Option Word :=
  match i with
  | .waitm o => s.waitmTest o r.w t
  | .vwait o => s.vwaitTest o r.w r.low
  | _ => none

/-- The values that have passed, old ones kept. -/
def State.passes (s : State) (i : Instr) (r : Run) : List (Nat × Option Word) :=
  (lanesOf r.ex).map (fun t =>
    (t, match (r.w.thread t).wait with
      | .memory (some v) => some v
      | _ => s.memTest i r t))

/-- The reads of a wait that has passed are performed: what the core has seen, and its acquire (R171, R176). -/
def State.memSeen (s : State) (i : Instr) (r : Run) : State :=
  match i with
  | .waitm o => s.loaded i r o o.size.bytes (s.addrs i r (fun v => v.getD 0 0))
      (s.resolveAll r.w accLoad [0, 1, 2, 3, 4, 5] o.size.bytes o.size.bytes (s.addrs i r (fun v => v.getD 0 0))).2
  | .vwait o => s.acquireBy r.w o
  | _ => s

/-- A waiting group goes on once every executing thread has passed; else it waits with what has passed (R202). -/
def State.memWait (s : State) (i : Instr) (d : Nat) (r : Run) : State :=
  let ps := s.passes i r
  if ps.all (fun p => p.2.isSome) then
    let s := s.modWave r.c.wid (fun w => (lanesOf r.c.lanes).foldl (fun w t =>
      w.modThread t (fun th => { th with wait := .none })) w)
    (s.memSeen i r).commitRegs i r (ps.map (fun p => (p.1, [(d, p.2.getD 0)], 0)))
  else
    let s := s.modWave r.c.wid (fun w => (lanesOf r.c.lanes).foldl (fun w t =>
      w.modThread t (fun th => { th with wait := .memory ((aget? ps t).getD none) })) w)
    { s.useFree with cur := none }

/-- WAITM (R202). -/
def execWaitm (o : OpM) (s : State) : Host.Outcome State Fault Refusal :=
  s.issue (.waitm o) noWait (fun s r =>
    let n := o.size.bytes
    s.checked r accLoad [0, 1, 2, 3, 4, 5] n n (s.addrs (.waitm o) r (fun v => v.getD 0 0)) (fun s _ =>
      s.memWait (.waitm o) o.d.toNat r))

/-- VWAIT (R207). -/
def execVwait (o : OpM) (s : State) : Host.Outcome State Fault Refusal :=
  s.issue (.vwait o) noWait (fun s r =>
    let n := o.size.bytes
    s.checked r accLoad [0, 4] n n (s.lowTile (.vwait o) r) (fun s _ => s.memWait (.vwait o) o.d.toNat r))

/-- The group of a wave that waits with a lane at one pc, under a kind of wait, and the instruction there. -/
def State.waiters (s : State) (wid lane : Nat) (p : Wait → Bool) : Option (Instr × State × Run) :=
  match s.wave? wid with
  | none => none
  | some w =>
    let pc := (w.thread lane).pc
    let g := maskOf ((List.range 32).filter (fun t =>
      (w.thread t).present && !(w.thread t).exited && (w.thread t).pc == pc && p (w.thread t).wait))
    if g = 0 || !w.runs then none
    else
      match s.fetchGroup wid w g pc with
      | .run i s' => (s'.run? i).map (fun r => (i, s', r))
      | _ => none

def isMemWait : Wait → Bool
  | .memory _ => true
  | _ => false

/-! ### CCTL and ICINV (R196, R208) -/

/-- The line of a location in device memory. -/
def lineOf : Loc → Option Nat
  | .mem pa => some (pa / 64)
  | .comp pa => some (pa / 64)
  | _ => none

/-- CCTL (R196): evictions change no value; pins are kept (DESIGN CHOICE, log 86). -/
def execCctl (o : OpM) (s : State) : Host.Outcome State Fault Refusal :=
  s.issue (.cctl o) noWait (fun s r =>
    s.checked r accLoad [0, 4, 5] 1 1 (s.addrs (.cctl o) r (fun v => v.getD 0 0)) (fun s locs =>
      let lines := locs.filterMap (fun l => lineOf l.2)
      let s :=
        if o.op = 2 then { s with pins := s.pins ++ ((lines.map (fun k => (k, r.w.ctx))).eraseDups.filter (fun p => !s.pins.contains p)) }
        else if o.op = 3 then { s with pins := s.pins.filter (fun p => !lines.contains p.1) }
        else s
      s.finish (.cctl o) r))

/-- ICINV (R208): the executing core drops the lines of a range (DESIGN CHOICE, log 85). -/
def execIcinv (o : OpM) (s : State) : Host.Outcome State Fault Refusal :=
  s.issue (.icinv o) noWait (fun s r =>
    if r.ex = 0 then s.finish (.icinv o) r
    else
      let v := s.srcVals r.w (.icinv o) r.low
      let a := v.getD 0 0
      let n := (v.getD 1 0).toNat
      if spaceOf a != 0 then
        s.precise r { r.trap 0x06 (1#32 <<< r.low) with addr := a }
      else
        let va := vaOf a
        let hit := fun (l : ILine) => l.core == r.w.core &&
          (decide (2 ^ 20 < n) || (l.asid == r.w.ctx && decide (l.va < va + n) && decide (va < l.va + 64)))
        let keep := if n = 0 then s.icache else s.icache.filter (fun l => !hit l)
        ({ s with icache := keep }).finish (.icinv o) r)

end Sys2Proof.Machine
end

