-- ==== Sys2Proof/Machine/Copy.lean ====
section
/-!
DEFINITION. The copy engines: CPY, CPYM, CPYG, CPYZ, KVCMT and WIPE, the completion of a copy, and WAITP (spec/09
R209-R220, spec/18 R360, spec/15 R310). A copy is performed when it completes (DESIGN CHOICE, log 16).
-/

namespace Sys2Proof.Machine

/-! ### Issue (R209-R213) -/

/-- A copy's scope of checks at issue: space, alignment and scratchpad bounds of a pointer (R211). -/
def State.ptrFault (s : State) (w : Wave) (acc : Acc) (spaces : List Nat) (size align : Nat) (p : Word) :
    List (Word × Flt) :=
  match s.resolve w acc spaces size align p 0 with
  | .error f => if f.stage ≤ 2 then [(p, f)] else []
  | .ok _ => []

def misaligned (p : Word) (bad : Bool) : List (Word × Flt) := if bad then [(p, { stage := 1, cause := 0x03 })] else []

/-- Both ends in space 0x4: pointers and size are multiples of 64 (R212). -/
def bothFour (a b : Word) (sizes : List Nat) : List (Word × Flt) :=
  misaligned a (spaceOf a == 4 && spaceOf b == 4 && (a.toNat % 64 != 0 || b.toNat % 64 != 0 || sizes.any (fun n => n % 64 != 0)))

/-- DUE of a promise (R210): from the retired count and B under DET; outside it a free tick at or after the present. -/
def State.due (s : State) (w : Wave) (b : Nat) : Nat :=
  if s.isDet w then (w.retired + 256 + (b + 255) / 256) % 2 ^ 48
  else (s.dev.clk + (s.free (freeAt 330 0)).toNat % 2 ^ 47) % 2 ^ 48

/-- A promise (R210). -/
def promiseWord (slot seq due : Nat) : Word := BitVec.ofNat 64 (slot * 2 ^ 58 + seq % 1024 * 2 ^ 48 + due % 2 ^ 48)

/-- One issue of a copy: its checks, its release, its promise, its Mitten entry, which one that has nothing to do frees at
once (DESIGN CHOICE, log 16). -/
def State.copyOp (s : State) (i : Instr) (d : BitVec 8) (rel : Option Nat) (cls : MClass)
    (checks : State → Run → List Word → List (Word × Flt)) (bytes : List Word → Nat) (empty : List Word → Bool) :
    Host.Outcome State Fault Refusal :=
  s.issue i noWait (fun s r =>
    if r.ex = 0 then s.finish i r
    else
      let v := s.srcVals r.w i r.low
      match s.raise r 5 ((checks s r v).map (fun x => (r.low, x.1, x.2))) with
      | some s' => s'
      | none =>
        let s := match rel with
          | some k => (s.drainWave r.c.wid).releaseAs r.w k
          | none => s
        let p := promiseWord r.w.freeEntry r.w.copySeq (s.due r.w (bytes v))
        let e : Entry :=
          { r.entry i cls 4 with
            isCopy := true, copySeq := r.w.copySeq, addr := p
            vals := [(r.low, s.regVal r.w r.low d.toNat :: v)] }
        let s := if empty v then s.modWave r.c.wid Wave.passEntry else s.addEntry r e
        let s := s.modWave r.c.wid (fun w => { w with copySeq := (w.copySeq + 1) % 1024 })
        s.commitRegs i r ((lanesOf r.ex).map (fun t => (t, [(d.toNat, p)], 0))))

/-- The scope at which a copy releases (R209). -/
def relScope (o : OpX) : Option Nat := if field o.w1 63 63 == 1 then some (field o.w1 62 60) else none

/-- CPY's byte count. -/
def count40 (v : List Word) : Nat := (v.getD 2 0).toNat % 2 ^ 40

def fromSpaces : List Nat := [0, 1, 2, 3, 4, 5]
def toSpaces : List Nat := [0, 1, 2, 3, 4]
def listSpaces : List Nat := [0, 1, 2, 4]

/-- CPY (R213). -/
def execCpy (o : OpX) (s : State) : Host.Outcome State Fault Refusal :=
  s.copyOp (.cpy o) o.a.d (relScope o) .i (fun s r v =>
    let a := v.getD 0 0
    let b := v.getD 1 0
    let n := count40 v
    s.ptrFault r.w accCopyFrom fromSpaces n 16 a ++ s.ptrFault r.w accCopyTo toSpaces n 16 b ++
      misaligned a (n % 16 != 0) ++ bothFour a b [n]) count40 (fun v => count40 v == 0)

/-- The members of CPYM's MASK. -/
def cpymMembers (o : OpX) : List Nat := (List.range 24).filter (fun m => o.w1.getLsbD m)

/-- A space-0x2 pointer with another MEMBER. -/
def withMember (p : Word) (m : Nat) : Word :=
  BitVec.ofNat 64 (p.toNat / 2 ^ 25 * 2 ^ 25 + m % 32 * 2 ^ 20 + p.toNat % 2 ^ 20)

/-- CPYM (R213). -/
def execCpym (o : OpX) (s : State) : Host.Outcome State Fault Refusal :=
  s.copyOp (.cpym o) o.a.d (relScope o) .i (fun s r v =>
    let a := v.getD 0 0
    let b := v.getD 1 0
    let n := count40 v
    s.ptrFault r.w accCopyFrom fromSpaces n 16 a ++
      (if spaceOf b != 2 then [(b, { stage := 0, cause := if spaceOf b == 5 then 0x05 else 0x06 })] else []) ++
      (cpymMembers o).flatMap (fun m => s.ptrFault r.w accCopyTo [2] n 16 (withMember b m)) ++
      misaligned b (b.toNat % 16 != 0) ++ misaligned a (n % 16 != 0))
    (fun v => count40 v * (cpymMembers o).length) (fun v => count40 v == 0 || (cpymMembers o).isEmpty)

/-- E of CPYG and KVCMT. -/
def elemSize (o : OpX) : Nat := 16 * 2 ^ field o.w1 51 48

/-- CPYG (R214). -/
def execCpyg (o : OpX) (s : State) : Host.Outcome State Fault Refusal :=
  s.copyOp (.cpyg o) o.a.d (relScope o) .i (fun s r v =>
    let a := v.getD 0 0
    let b := v.getD 1 0
    s.ptrFault r.w accCopyFrom fromSpaces 0 16 a ++ s.ptrFault r.w accCopyTo toSpaces 0 16 b ++
      s.ptrFault r.w accCopyFrom listSpaces 0 16 (v.getD 2 0) ++ bothFour a b [elemSize o]) (fun _ => 0) (fun _ => false)

/-- CPYZ's block count. -/
def count32 (v : List Word) : Nat := (v.getD 2 0).toNat % 2 ^ 32

/-- CPYZ (R220). -/
def execCpyz (o : OpX) (s : State) : Host.Outcome State Fault Refusal :=
  let unpack := field o.w1 48 48 == 1
  s.copyOp (.cpyz o) o.a.d (relScope o) .i (fun s r v =>
    let a := v.getD 0 0
    let b := v.getD 1 0
    let n := count32 v * 4096
    if unpack then
      s.ptrFault r.w accCopyFrom [5] n 4096 a ++ s.ptrFault r.w accCopyTo toSpaces n 16 b
    else s.ptrFault r.w accCopyFrom toSpaces n 16 a ++ s.ptrFault r.w accCopyTo [5] n 4096 b)
    (fun v => count32 v * 4096) (fun v => count32 v == 0)

/-- KVCMT (R215). -/
def execKvcmt (o : OpX) (s : State) : Host.Outcome State Fault Refusal :=
  s.copyOp (.kvcmt o) o.a.d (relScope o) .t (fun s r v =>
    s.ptrFault r.w accCopyFrom fromSpaces 0 16 (v.getD 0 0) ++ s.ptrFault r.w accCopyFrom listSpaces 0 16 (v.getD 1 0) ++
      s.ptrFault r.w accCopyFrom listSpaces 0 16 (v.getD 2 0)) (fun _ => 0) (fun _ => false)

/-- WIPE's byte count (R360). -/
def count48 (v : List Word) : Nat := (v.getD 1 0).toNat % 2 ^ 48

/-- WIPE (R360). -/
def execWipe (o : OpA) (s : State) : Host.Outcome State Fault Refusal :=
  s.copyOp (.wipe o) o.d (if o.mod.getLsbD 3 then some (o.mod.toNat % 8) else none) .i (fun s r v =>
    s.ptrFault r.w accCopyTo [0, 4, 15] (count48 v) 64 (v.getD 0 0) ++ misaligned (v.getD 0 0) (count48 v % 64 != 0))
    count48 (fun v => count48 v == 0)

/-! ### The engine -/

/-- The bytes at a pointer, as the engine reads them from two states: each aligned word is the one of the copy's start
or the present one (R211); or the cause that the read meets. -/
def State.engineRead (s s0 : State) (w : Wave) (spaces : List Nat) (n : Nat) (p : Word) (free : Nat) :
    Except Nat (List Byte) :=
  match s.resolve w accCopyFrom spaces n 1 p (free + 900) with
  | .error f => .error f.cause
  | .ok l =>
    if s.badLoc l n then .error 0x16
    else
      match s0.readLoc w.ctx l n free, s.readLoc w.ctx l n free with
      | some old, some new =>
        .ok (if old = new then new
          else (List.range n).map (fun i => if s.freeBit (free + 100 + i / 8) then old.getD i 0 else new.getD i 0))
      | _, _ => .error 0x05

/-- A little-endian word of n bytes that the engine reads from a list or a table. -/
def State.engineNat (s : State) (w : Wave) (n : Nat) (p : Word) : Except Nat Nat :=
  (s.engineRead s w listSpaces n p 0).map leNat

/-- n bytes from p on, in reads of 16 bytes, each through its own translation. -/
def State.engineBytes (s s0 : State) (w : Wave) (spaces : List Nat) (n : Nat) (p : Word) (free : Nat) : Except Nat (List Byte) :=
  (List.range (n / 16)).foldl (fun (x : Except Nat (List Byte)) k =>
    match x, s.engineRead s0 w spaces 16 (addrAdd p (BitVec.ofNat 64 (16 * k))) (free + 1000 * (k % 16)) with
    | .error c, _ => .error c
    | _, .error c => .error c
    | .ok a, .ok b => .ok (a ++ b)) (.ok [])

/-- What a copy's work leaves: the state and the cause met, if one was. -/
abbrev Copied := State × Option Nat

/-- A copy as its writes name it: its wave's context and slot, its Mitten entry and its copy-issue sequence (R210). -/
def copyKey (w : Wave) (slot seq : Nat) : Nat := ((w.ctx * 2 ^ 14 + w.slot) * 64 + slot) * 1024 + seq % 1024

/-- What a running copy knows: the state at its start, its wave, its key. -/
structure Engine where
  s0  : State
  w   : Wave
  key : Nat

/-- A write of a copy: no other agent need see it before its wave has waited for it (R182). -/
def Engine.write (g : Engine) (s : State) (l : Loc) (bs : List Byte) : Except Nat State :=
  let s := match l with
    | .mem pa => if s.isDet g.w then s else s.hide pa bs.length [] (some g.key) false
    | _ => s
  (s.loosen g.w l bs.length).storeLane g.w.ctx none l bs

/-- Copies one piece, within a 64-byte block of the destination; `n` is a multiple of 16. -/
def Engine.piece (g : Engine) (s : State) (a b : Word) (n free : Nat) : Copied :=
  match s.engineBytes g.s0 g.w fromSpaces n a free with
  | .error c => (s, some c)
  | .ok bytes =>
    match s.resolve g.w accCopyTo toSpaces n 1 b 0 with
    | .error f => (s, some f.cause)
    | .ok l =>
      match g.write s l bytes with
      | .error c => (s, some c)
      | .ok s =>
        if spaceOf b == 4 then
          let tag := match g.s0.resolve g.w accCopyFrom fromSpaces 1 1 a 0 with
            | .ok l => if spaceOf a == 4 then (l.pa?.map (fun pa => tget 0 g.s0.btags (pa / 64))).getD 0 else 0
            | _ => 0
          (s.setTags l n tag, none)
        else (s, none)

/-- The pieces of a copy of n bytes to b, as (offset, length): up to the destination's 64-byte boundaries. -/
def pieces (b : Word) : Nat → Nat → Nat → List (Nat × Nat)
  | 0, _, _ => []
  | fuel + 1, at_, n =>
    if n ≤ at_ then []
    else
      let k := min (n - at_) (64 - (b.toNat + at_) % 64)
      (at_, k) :: pieces b fuel (at_ + k) n

/-- Runs copies one after another until one fails. -/
def seqCopy {α : Type} (l : List α) (f : State → α → Copied) (s : State) : Copied :=
  l.foldl (fun p x => match p with
    | (s, some c) => (s, some c)
    | (s, none) => f s x) (s, none)

/-- Pointers of ranges that overlap. -/
def bytesOverlap (a b : Word) (n : Nat) : Bool := decide (a.toNat < b.toNat + n) && decide (b.toNat < a.toNat + n)

/-- Copies n bytes from a to b. Where the ranges overlap, pieces of 16 bytes run so that a source word is rewritten before
it is read, and each word is read old or rewritten, by a free choice (R211). -/
def Engine.bytes (g : Engine) (s : State) (a b : Word) (n : Nat) : Copied :=
  let meet := bytesOverlap a b n
  let l := if meet then (List.range (n / 16)).map (fun k => (16 * k, 16)) else pieces b (n / 16 + 1) 0 n
  seqCopy (if meet && decide (b.toNat < a.toNat) then l.reverse else l) (fun s x =>
    g.piece s (addrAdd a (BitVec.ofNat 64 x.1)) (addrAdd b (BitVec.ofNat 64 x.1)) x.2 (16000 * (x.1 / 16 % 32))) s

/-- The elements of a gather in the order in which the engine takes them: a free choice (R211). -/
def State.elements (s : State) (n : Nat) : List Nat :=
  if s.freeBit (freeAt 351 0) then (List.range n).reverse else List.range n

def off (p : Word) (n : Nat) : Word := addrAdd p (BitVec.ofNat 64 n)

/-- CPYG's gather (R214). -/
def Engine.cpyg (g : Engine) (s : State) (o : OpX) (a b c : Word) : Copied :=
  match s.engineNat g.w 4 c with
  | .error k => (s, some k)
  | .ok n =>
    let e := elemSize o
    seqCopy (s.elements n) (fun s j =>
      match s.engineNat g.w 4 (off c (4 * (j + 1))) with
      | .error k => (s, some k)
      | .ok idx => g.bytes s (off a (idx * e)) (off b (j * e)) e) s

/-- One block of CPYZ pack: storage and descriptor together (R180, R220). -/
def Engine.pack (g : Engine) (s : State) (a b : Word) : Copied :=
  match s.engineBytes g.s0 g.w toSpaces 4096 a 0 with
  | .error c => (s, some c)
  | .ok bytes =>
    match s.resolve g.w accCopyTo [5] 4096 4096 b 0 with
    | .error f => (s, some f.cause)
    | .ok (.comp pa) =>
      let p := encodeBlock bytes
      let s := s.writePa pa p.1
      ({ s with descs := tset 0 s.descs (pa / 4096) p.2 }, none)
    | .ok _ => (s, none)

/-- KVCMT from its cursor (R215): the state, the cause met and the cursor reached. -/
def Engine.kvcmt (g : Engine) (s : State) (o : OpX) (a b c : Word) (cursor : Nat) : Copied × Nat :=
  match s.engineNat g.w 4 c, s.engineNat g.w 4 (off c 4) with
  | .error k, _ => ((s, some k), cursor)
  | _, .error k => ((s, some k), cursor)
  | .ok n, .ok p =>
    if 1024 < n then ((s, some 0x05), cursor)
    else
      let e := elemSize o
      let pglog := field o.w1 47 43
      let entry := fun (s : State) (j : Nat) =>
        match s.engineNat g.w 8 (off b (8 * ((p + j) / 2 ^ pglog))), s.engineNat g.w 4 (off c (4 * (j + 2))) with
        | .error k, _ => (s, some k)
        | _, .error k => (s, some k)
        | .ok page, .ok idx =>
          let d := off (BitVec.ofNat 64 page) ((p + j) % 2 ^ pglog * e)
          if page % 16 != 0 || (spaceOf a == 4 && spaceOf d == 4 && (d.toNat % 64 != 0 || a.toNat % 64 != 0 || e % 64 != 0)) then
            (s, some 0x03)
          else g.bytes s (off a (idx * e)) d e
      let r := (List.range (n - cursor)).foldl (fun (q : Copied × Nat) k =>
        match q with
        | ((s, some c), cur) => ((s, some c), cur)
        | ((s, none), cur) =>
          match entry s (cursor + k) with
          | (s, some c) => ((s, some c), cur)
          | (s, none) => ((s, none), cur + 1)) ((s, none), cursor)
      match r with
      | ((s, none), cur) =>
        match s.resolve g.w accCopyTo listSpaces 4 4 (off c 4) 0 with
        | .error f => ((s, some f.cause), cur)
        | .ok l =>
          match g.write s l (toBytes 4 (p + n)) with
          | .ok s => ((s, none), cur)
          | .error k => ((s, some k), cur)
      | q => q

/-- One 64-byte block of a WIPE; a 4 KiB block whose first byte lies here loses its descriptor and version word when the
range covers all of it (R360). -/
def Engine.wipe (g : Engine) (s : State) (p : Word) (rest : Nat) : Copied :=
  match s.resolve g.w accCopyTo [0, 4, 15] 64 64 p 0 with
  | .error f => (s, some f.cause)
  | .ok l =>
    match g.write s l (List.replicate 64 0) with
    | .error c => (s, some c)
    | .ok s =>
      let s := s.setTags l 64 0
      match l.pa? with
      | some pa =>
        if pa % 4096 = 0 ∧ 4096 ≤ rest then
          ({ s with descs := tset 0 s.descs (pa / 4096) 0, vers := tset 0 s.vers (pa / 4096) 0 }, none)
        else (s, none)
      | none => (s, none)

/-- Performs a copy entry: the state, the cause met, and the cursor reached (DESIGN CHOICE, log 16). -/
def State.runCopy (s : State) (w : Wave) (e : Entry) : Copied × Nat :=
  let g : Engine := { s0 := s, w, key := copyKey w e.slot e.copySeq }
  let v := (((e.vals.head?).map Prod.snd).getD []).drop 1
  let a := v.getD 0 0
  let b := v.getD 1 0
  let c := v.getD 2 0
  match e.ins with
  | .cpy _ => (g.bytes s a b (count40 v), 0)
  | .cpym o => (seqCopy (cpymMembers o) (fun s m => g.bytes s a (withMember b m) (count40 v)) s, 0)
  | .cpyg o => (g.cpyg s o a b c, 0)
  | .cpyz o =>
    if field o.w1 48 48 == 1 then (g.bytes s a b (count32 v * 4096), 0)
    else (seqCopy (List.range (count32 v)) (fun s k => g.pack s (off a (4096 * k)) (off b (4096 * k))) s, 0)
  | .kvcmt o => g.kvcmt s o a b c e.cursor
  | .wipe _ => (seqCopy (List.range (count48 v / 64)) (fun s k => g.wipe s (off a (64 * k)) (count48 v - 64 * k)) s, 0)
  | _ => ((s, none), 0)

/-- COPY_COMPLETE (R182, R211): the copy's reads and writes, and the end of its entry; a failure leaves what is written
and marks the entry (DESIGN CHOICE, log 16). -/
def execCopyComplete (wid seq : Nat) (s : State) : Host.Outcome State Fault Refusal :=
  match (s.wave? wid).bind (fun w => (w.entry? seq).map (fun e => (w, e))) with
  | none => .next s
  | some (w, e) =>
    if w.frozen || s.farBusy w e then .next s
    else if !e.isCopy || e.st == .fault then .next (s.lateFault wid seq)
    else
      let s := s.heardFrom w e
      match s.runCopy w e with
      | ((s, none), _) => .next (s.modWave wid (fun w => w.dropEntry seq)).useFree
      | ((s, some c), cursor) =>
        .next ((s.modWave wid (fun w => w.modEntry seq (fun e => { e with st := .fault, orig := c, cursor }))).lateFault
          wid seq).useFree

/-! ### WAITP (R310) -/

/-- WAITP once its wait is over: a missed promise is cause 0x08 with the copy's record, a deferred fault cause 0x14; else it
goes on, having seen the copy's writes (R310, R368, R182; DEDUCED, log 87). -/
def State.waitpGo (s : State) (o : OpC) (r : Run) : State :=
  let p := s.promiseOf o r
  match s.waitpCopy o r with
  | none =>
    (s.sees r.w.core (fun h => h.copy == some (copyKey r.w (p.toNat / 2 ^ 58) (p.toNat / 2 ^ 48)))).finish (.waitp o) r
  | some e =>
    if r.w.deliverable e then s.deliver r.c.wid r.c.lanes r.c.pc e
    else if e.st == .fault then s.finish (.waitp o) r
    else s.precise r { r.trap 0x08 r.ex with addr := p, deferred := true, trec := e.words r.w }

def execWaitp (o : OpC) (s : State) : Host.Outcome State Fault Refusal :=
  s.issue (.waitp o) (waitpWait o) (fun s r => s.waitpGo o r)

/-- The group of a wave that stands at a lane's pc without a wait of its own, and the instruction there. -/
def State.standers (s : State) (wid lane : Nat) : Option (Instr × State × Run) := s.waiters wid lane (· == .none)

/-- PROMISE_DUE (R310): the DUE has passed while the copy is unfinished. -/
def execPromiseDue (wid lane : Nat) (s : State) : Host.Outcome State Fault Refusal :=
  match s.standers wid lane with
  | some (.waitp o, s', r) =>
    let missed := (s'.waitpCopy o r).any (fun e =>
      e.st != .fault && !s'.waitsHard o r.w e && s'.duePassed (s'.promiseOf o r))
    if missed && !s'.commonWait (.waitp o) r then .next (s'.waitpGo o r) else .next s
  | _ => .next s

end Sys2Proof.Machine
end

