-- ==== Sys2Proof/Machine/Matrix.lean ====
section
/-!
DEFINITION. The matrix engine and the accumulator store: the matrix and accumulator operations, OPFENCE and MWAIT, the
rounds of the convergence registers and the commit of an operation (spec/07 R144-R168, spec/05 R97).
-/

namespace Sys2Proof.Machine

/-! ### Elements (R76, R80-R82, R150) -/

/-- The raw pattern of element e in a row-block's bits, in slots of width w; for vq2 the index that holds weight e. -/
def rawElem (f w n e : Nat) : Nat :=
  if f = 0x12 then n / 2 ^ (16 * (e / 8)) % 2 ^ 16 else n / 2 ^ (w * e) % 2 ^ w

/-- Element width in memory (R82). -/
def memWidth (f : Nat) : Nat := if f = 0x08 ∨ f = 0x09 then 6 else fmtSlot f

/-- The patterns of a row-block of memory. -/
def blockElems (f : Nat) (bs : List Byte) : List Nat :=
  let n := leNat bs
  (List.range (fmtKb f)).map (rawElem f (memWidth f) n)

/-- The value of a pattern; `page` is the codebook and e the element's place in its block. -/
def elemVal (f : Nat) (page : List Nat) (e x : Nat) : FVal × FFlags :=
  if f = 0x12 then (FVal.ofQ (vqWeight (page.getD (x / 256) 0) x 0xFF (e % 8)), 0)
  else if f = 0x10 then
    (FVal.ofQ (Q.ofInt (if x % 4 = 1 then 1 else if x % 4 = 3 then -1 else 0)), if x % 4 = 2 then fInvalid else 0)
  else if f = 0x11 then (FVal.ofQ (Q.ofInt (if x % 2 = 0 then 1 else -1)), 0)
  else if fmtIsInt f then (FVal.ofQ (Q.ofInt (intVal (tyOfCode f).isSigned (tyOfCode f).width x)), 0)
  else ((fmtOfTy (tyOfCode f)).value x, 0)

/-! ### Reading operands (R150-R154, R156-R158) -/

/-- A part of an operation's operands: the faults that reading it meets, whether its data is uncorrectable, its
words. -/
structure EngPart where
  faults : List (Word × Flt) := []
  bad    : Bool := false
  words  : List Nat := []
deriving DecidableEq, Repr

/-- Bytes that the engine reads, with the block tag behind each 16. -/
structure EngBytes where
  faults : List (Word × Flt) := []
  bad    : Bool := false
  bytes  : List Byte := []
  tags   : List Nat := []
deriving DecidableEq, Repr

/-- One access of the engine. -/
def State.engPiece (s : State) (w : Wave) (spaces : List Nat) (n align : Nat) (p : Word) : EngBytes :=
  match s.resolve w accEngine spaces n align p (freeAt 300 0) with
  | .error f => { faults := [(p, f)], bytes := List.replicate n 0, tags := [0] }
  | .ok l =>
    { bad := s.badLoc l n, bytes := (s.readLoc w.ctx l n 0).getD (List.replicate n 0)
      tags := [((l.pa?.map (fun pa => tget 0 s.btags (pa / 64))).getD 0).toNat] }

/-- n bytes from p on, in accesses of 16 bytes. -/
def State.engBytes (s : State) (w : Wave) (spaces : List Nat) (n : Nat) (p : Word) : EngBytes :=
  let l := (List.range (n / 16)).map (fun k => s.engPiece w spaces 16 1 (addrAdd p (BitVec.ofNat 64 (16 * k))))
  { faults := l.flatMap (·.faults), bad := l.any (·.bad), bytes := l.flatMap (·.bytes), tags := l.flatMap (·.tags) }

def misalignedPart (p : Word) (bad : Bool) : EngPart :=
  if bad then { faults := [(p, { stage := 1, cause := 0x03 })] } else {}

def EngPart.join (a b : EngPart) : EngPart :=
  { faults := a.faults ++ b.faults, bad := a.bad || b.bad, words := a.words ++ b.words }

/-- Lane 0 of a source register. -/
def State.lane0 (s : State) (w : Wave) (x : Src) : Word :=
  match x with
  | .reg r => s.regVal w 0 r.toNat
  | _ => 0

/-- A from registers (R150). -/
def State.regA (s : State) (w : Wave) (w1 : Word) (base : Nat) : EngPart :=
  let f := mmFmtA w1
  let M := mmM w1
  { words := (List.range M).flatMap (fun m => (List.range (mmSteps w1)).flatMap (fun st =>
      let r := base + st * (M / 4) + m / 4
      let seg := leNat ((List.range 8).flatMap (fun k => toBytes 8 (s.sideVal w (min 64 (fmtSlot f)) (8 * (m % 4) + k) r).toNat))
      (List.range (fmtKb f)).map (rawElem f (fmtSlot f) seg))) }

/-- A from scratchpad: row m begins at `row m` (R151, R156). -/
def State.spadA (s : State) (w : Wave) (w1 : Word) (row : Nat → Word) : EngPart :=
  let f := mmFmtA w1
  let n := fmtBytes f
  (List.range (mmM w1)).foldl (fun (p : EngPart) m =>
    let b := s.engBytes w [1, 2] (n * mmSteps w1) (row m)
    p.join { faults := b.faults, bad := b.bad
             words := (List.range (mmSteps w1)).flatMap (fun st => blockElems f ((b.bytes.drop (n * st)).take n)) }) {}

/-- MMAG's index of row m: wave position m of width 16 (R156). -/
def State.pos16 (s : State) (w : Wave) (r m : Nat) : Nat := sub (s.regVal w (m / 4) r) (m % 4) 16

/-- The A operand, element m × K + k (DEDUCED, log 35). -/
def State.matA (s : State) (w : Wave) (i : Instr) (o : OpX) : EngPart :=
  let w1 := o.w1
  let row := mmSteps w1 * fmtBytes (mmFmtA w1)
  let base := match o.a.sa with | .reg r => r.toNat | _ => 0
  let sa := s.lane0 w o.a.sa
  let add := fun (n : Nat) => addrAdd sa (BitVec.ofNat 64 n)
  match mmAsrc w1 with
  | 0 => s.regA w w1 base
  | 1 =>
    let stride := if i matches .mmar _ then 0 else (s.lane0 w o.a.sc).toNat
    let stride := if stride = 0 then row else stride
    (misalignedPart sa (sa.toNat % 16 != 0 || stride % 16 != 0)).join (s.spadA w w1 (fun m => add (m * stride)))
  | _ =>
    let c := match o.a.sc with | .reg r => r.toNat | _ => 0
    (misalignedPart sa (sa.toNat % 16 != 0)).join (s.spadA w w1 (fun m => add (s.pos16 w c m * row)))

/-- The B operand behind one pointer: patterns n × K + k, then the tag of each element in scale modes 1 and 2. -/
def State.matB (s : State) (w : Wave) (i : Instr) (w1 : Word) (p : Word) : EngPart :=
  let f := mmFmtB w1
  let n := fmtBytes f
  let cols := mmN w1
  let st := mmSteps w1
  let spaces := [0, 1, 2, 4, 5]
  let tagged := mmScale w1 == 1 || mmScale w1 == 2
  let here := misalignedPart p (p.toNat % 16 != 0)
  if i matches .mperm _ then
    let b := s.engBytes w spaces (2 * cols) p
    here.join { faults := b.faults, bad := b.bad, words := (List.range cols).map (fun j => leNat ((b.bytes.drop (2 * j)).take 2)) }
  else
    let b := s.engBytes w spaces (cols * st * n) p
    let space := if tagged && spaceOf p != 4 then [(p, ({ stage := 0, cause := 0x06 } : Flt))] else []
    let blocks := List.range (cols * st)
    let raws := blocks.flatMap (fun j => blockElems f ((b.bytes.drop (n * j)).take n))
    let tags := if tagged then blocks.flatMap (fun j => (List.range (fmtKb f)).map (fun e =>
        b.tags.getD ((n * j + (if f = 0x12 then e / 8 * 2 else memWidth f * e / 8)) / 16) 0)) else []
    here.join { faults := space ++ b.faults, bad := b.bad, words := raws ++ tags }

/-- The scale bytes of mode 3, A's and then B's (R153). -/
def State.matScales (s : State) (w : Wave) (o : OpX) : EngPart :=
  if mmScale o.w1 != 3 then {}
  else
    let n := (mmM o.w1 + mmN o.w1) * mmSteps o.w1
    let b := s.engPiece w [1, 2] n 1 (s.lane0 w (.reg o.a.d))
    { faults := b.faults, bad := b.bad, words := b.bytes.map (·.toNat) }

/-- The codebook page (R154). -/
def State.matPage (s : State) (w : Wave) (o : OpX) : EngPart :=
  if mmFmtA o.w1 != 0x12 && mmFmtB o.w1 != 0x12 then {}
  else
    let b := s.engPiece w [0, 1, 2, 4] 1024 1024 (s.lane0 w (.reg (o.a.d + 1)))
    { faults := b.faults, bad := b.bad, words := pageWords b.bytes }

/-- MMAR's group table: ROWS and BPTR of each group (R157; DEDUCED, log 35); its pointer is checked also where it has no
group (R168). -/
def State.matTable (s : State) (w : Wave) (o : OpX) : EngPart :=
  let g := min ((s.lane0 w o.a.sc).toNat % 32) 16
  let p := s.lane0 w o.a.sb
  let b := s.engBytes w [1, 2] (16 * g) p
  let space := match s.resolve w accEngine [1, 2] 0 1 p 0 with
    | .error f => if f.stage = 0 then [(p, f)] else []
    | .ok _ => []
  (misalignedPart p (p.toNat % 16 != 0)).join
    { faults := space ++ b.faults, bad := b.bad
      words := (List.range g).flatMap (fun j =>
        [leNat ((b.bytes.drop (16 * j)).take 2), leNat ((b.bytes.drop (16 * j + 8)).take 8)]) }

/-- The BPTRs of a group table (DEDUCED, log 35). -/
def tablePtrs (t : List Nat) : List Word := (List.range (t.length / 2)).map (fun g => BitVec.ofNat 64 (t.getD (2 * g + 1) 0))

/-- The operands of a matrix operation: A, one B part for each pointer, scales, page, and MMAR's table, which is read
once, at issue. -/
def State.matParts (s : State) (w : Wave) (i : Instr) (o : OpX) (table : Option (List Nat)) : List EngPart :=
  let t : EngPart :=
    if i matches .mmar _ then
      match table with
      | some t => { words := t }
      | none => s.matTable w o
    else {}
  let ptrs := if i matches .mmar _ then tablePtrs t.words else [s.lane0 w o.a.sb]
  [t, s.matA w i o, s.matScales w o, s.matPage w o] ++ ptrs.map (s.matB w i o.w1)

/-! ### Arithmetic (R97, R155-R158) -/

/-- One run of 16 products added into a cell. -/
def addRun (iacc : Bool) (cell : Nat) (ps : List FVal) : Nat × FFlags :=
  if iacc then
    let t := ps.foldl (fun a v => a.add v.q) (Q.ofInt 0)
    let n := t.round 0
    let c := clampInt true 32 (intVal true 32 cell + n)
    (c.1, c.2 ||| (if (Q.ofInt n).eq t then 0 else fInexact))
  else
    let t : FVal × FFlags := if ps.any FVal.isNan then (.nan, fInvalid) else FVal.sum 0 ps
    let x := fmtF32.through rne t.1
    let y := FVal.sum 0 [x.1, fmtF32.value cell]
    let z := fmtF32.write rne y.1
    (z.1, t.2 ||| x.2 ||| y.2 ||| z.2)

/-- A cell after every run of K products. -/
def matCell (iacc : Bool) (K cell : Nat) (a b : Nat → FVal × FFlags) : Nat × FFlags :=
  (List.range (K / 16)).foldl (fun p j =>
    let ks := (List.range 16).map (16 * j + ·)
    let x := addRun iacc p.1 (ks.map (fun k => ((a k).1.mul (b k).1).1))
    (x.1, p.2 ||| x.2 ||| ks.foldl (fun f k => f ||| (a k).2 ||| (b k).2) 0)) (cell, 0)

/-- An element times its scale. -/
def scaled (x : FVal × FFlags) (q : Q) : FVal × FFlags := ((x.1.mul (.fin false q)).1, x.2)

/-- The A element of a cell (R153). -/
def aElem (w1 : Word) (a scales page : List Nat) (m k : Nat) : FVal × FFlags :=
  let kb := fmtKb (mmFmtA w1)
  let st := mmSteps w1
  let x := elemVal (mmFmtA w1) page (k % kb) (a.getD (m * (st * kb) + k) 0)
  if mmScale w1 = 3 then scaled x (scaleQ (scales.getD (m * st + k / kb) 0)) else x

/-- The B element of a cell (R153). -/
def bElem (w1 : Word) (b scales page : List Nat) (n k : Nat) : FVal × FFlags :=
  let kb := fmtKb (mmFmtB w1)
  let st := mmSteps w1
  let j := n * (st * kb) + k
  let x := elemVal (mmFmtB w1) page (k % kb) (b.getD j 0)
  let tag := b.getD (mmN w1 * (st * kb) + j) 0
  match mmScale w1 with
  | 1 => scaled x (scaleQ (tag / 256))
  | 2 => if tag % 256 = mmFmtB w1 then scaled x (scaleQ (tag / 256)) else (.fin false (Q.ofInt 0), fInvalid)
  | 3 => scaled x (scaleQ (scales.getD (mmM w1 * st + n * st + k / kb) 0))
  | _ => x

/-- The group that covers a row of MMAR: the first whose rows reach beyond it. -/
def groupOf (t : List Nat) (m : Nat) : Option Nat :=
  ((List.range (t.length / 2)).foldl (fun (p : Option Nat × Nat) g =>
    let last := p.2 + t.getD (2 * g) 0
    (if p.1.isNone && decide (m < last) then some g else p.1, last)) (none, 0)).1

/-- The new cells of a matrix operation, (row, column, value, flags), from its operand words. -/
def matResults (i : Instr) (o : OpX) (cell : Nat → Nat → Nat) (parts : List (List Nat)) :
    List (Nat × Nat × Nat × FFlags) :=
  let w1 := o.w1
  let at_ := fun (j : Nat) => parts.getD j []
  let K := mmSteps w1 * fmtKb (mmFmtA w1)
  (List.range (mmM w1)).flatMap (fun m =>
    match (if i matches .mmar _ then groupOf (at_ 0) m else some 0) with
    | none => []
    | some g => (List.range (mmN w1)).filterMap (fun n =>
      if i matches .mperm _ then
        let x := (at_ 4).getD n 0
        if x = 0xFFFF then none
        else some (m, n, if x < K then (at_ 1).getD (m * K + x) 0 else 0, 0)
      else
        let x := matCell (mmIacc w1) K (cell m n) (aElem w1 (at_ 1) (at_ 2) (at_ 3) m)
          (bElem w1 (at_ (4 + g)) (at_ 2) (at_ 3) n)
        some (m, n, x.1, x.2)))

/-! ### Rounds (R159, R160) -/

def convOf (g : Workgroup) (k : Nat) : Conv := g.convs.getD k {}

/-- Changes convergence register k. -/
def Workgroup.modConv (g : Workgroup) (k : Nat) (f : Conv → Conv) : Workgroup :=
  { g with convs := lmod (g.convs ++ List.replicate (16 - g.convs.length) {}) k f }

/-- The expected set: (wave, threads) (DEDUCED, log 33). -/
def State.expected (s : State) (c : Conv) (wg issuer : Nat) : List (Nat × Lanes) :=
  (s.waves.filter (fun e => if c.w = 0 then e.1 == issuer
    else e.2.wg == wg && e.2.kind != .access && c.w.getLsbD e.2.idx)).map (fun e => (e.1, e.2.live))

/-- Every thread of E is in S. -/
def State.roundFull (s : State) (c : Conv) (wg : Nat) : Bool :=
  (s.expected c wg c.wave).all (fun e => e.2 &&& ~~~(tget 0 c.sigs e.1) == 0)

/-- A matrix operation that joins a round wrongly (R160; DEDUCED, log 33). -/
def roundConflict (c : Conv) (r : Run) : Bool :=
  (c.isOpen && (c.wave != r.c.wid || c.pc != r.c.pc)) || (c.w != 0 && !c.w.getLsbD r.w.idx)

/-- MMA, MMAG, MMAR and MPERM: the group adds itself to S and waits for the round (R159; DEDUCED, log 33). -/
def State.matrixOp (s : State) (i : Instr) (o : OpX) : Host.Outcome State Fault Refusal :=
  s.issue i noWait (fun s r =>
    let k := mmKreg o.w1
    let c := ((s.wg? r.w.wg).map (fun g => convOf g k)).getD {}
    if roundConflict c r then s.precise r (r.trap 0x01 r.c.lanes)
    else
      let s := s.modWg r.w.wg (fun g => g.modConv k (fun c => { c with
        isOpen := true, wave := r.c.wid, pc := r.c.pc, sigs := tset 0 c.sigs r.c.wid (tget 0 c.sigs r.c.wid ||| r.c.lanes) }))
      let s := s.modWave r.c.wid (fun w => (lanesOf r.c.lanes).foldl (fun w t =>
        w.modThread t (fun th => { th with wait := .conv k })) w)
      { (s.useFree.stepUsed r.c.wid) with cur := none })

/-- MMA (R155). -/
def execMma (o : OpX) (s : State) : Host.Outcome State Fault Refusal := s.matrixOp (.mma o) o

/-- MMAG (R156). -/
def execMmag (o : OpX) (s : State) : Host.Outcome State Fault Refusal := s.matrixOp (.mmag o) o

/-- MMAR (R157). -/
def execMmar (o : OpX) (s : State) : Host.Outcome State Fault Refusal := s.matrixOp (.mmar o) o

/-- MPERM (R158). -/
def execMperm (o : OpX) (s : State) : Host.Outcome State Fault Refusal := s.matrixOp (.mperm o) o

/-- The format X operand of an instruction. -/
def opX? : Instr → Option OpX
  | .mma o | .mmag o | .mmar o | .mperm o | .acld o | .acst o | .acz o | .maskt o => some o
  | _ => none

/-- The first fault of a list in R367's order, raised for a whole group. -/
def State.raiseAll (s : State) (r : Run) (kind : Nat) (l : List (Word × Flt)) : Option State :=
  match worstFault (l.map (fun x => (0, x.2))) with
  | none => none
  | some (f, _) => s.raise r kind (((l.filter (fun x => x.2.stage == f.stage)).take 1).flatMap (fun x =>
      (lanesOf r.ex).map (fun t => (t, x.1, x.2))))

/-- Issues an engine operation. -/
def State.engineIssue (s : State) (i : Instr) (r : Run) (f : Entry → Entry) : State :=
  let e := f { r.entry i .i 3 with engNum := r.w.engines }
  ((s.addEntry r e).modWave r.c.wid (fun w => { w with engines := w.engines + 1 })).finish i r

/-- A fault at the issue of a round's operation is precise (R191): its threads' signatures and the round are undone, and
the signatures of SIGN stand (DEDUCED, log 34). -/
def State.undoRound (s : State) (g k : Nat) (r : Run) : State :=
  s.modWg g (fun x => x.modConv k (fun c => { c with
    isOpen := false, sigs := tset 0 c.sigs r.c.wid (tget 0 c.sigs r.c.wid &&& ~~~r.c.lanes) }))

/-- Each element is the one of `old` or the one of `new` (R164; DESIGN CHOICE, log 12). -/
def State.mixWords (s : State) (base : Nat) (old new : List Nat) : List Nat :=
  if old.length != new.length || old == new then new
  else new.mapIdx (fun k x => if (s.free (base + k / 64)).getLsbD (k % 64) then old.getD k x else x)

/-- The narrowest scope at which a core's release covers another core (R172). -/
def coverScope (a b : Nat) : Nat := if a = b then 2 else if a / 24 = b / 24 then 3 else 4

/-- Memory and scratchpad as the engines of a workgroup may still see them: without the stores of its own waves since
their last OPFENCE, those of others that no release has followed, and what the wave's core has not seen (R164). -/
def State.beforeStores (s : State) (w : Wave) : State :=
  let stored := s.waves.flatMap (fun e => (e.2.loose.filter (fun x => e.2.wg == w.wg || decide (x.rel < coverScope e.2.core w.core))).reverse)
  let far := (s.hidden.filter (fun h => !h.seenBy w.core)).reverse.map (fun h => ({ loc := .mem (8 * h.word), old := h.old } : Loose))
  (far ++ stored).foldl (fun s x => (s.writeLoc w.ctx x.loc (toBytes 8 x.old.toNat)).getD s) s

/-- Registers of a list of a wave's operands, each word as it stood at the last OPFENCE or as it is (R164). -/
def State.choosePtrs (s : State) (w : Wave) (l : List Nat) : Wave :=
  l.foldl (fun w r => (List.range 32).foldl (fun w t =>
    let x := tget 0 w.fenced (32 * r + t)
    if x = w.reg r t then w else if s.freeBit (freeAt 352 t + r) then w.setReg r t x else w) w) w

/-- Registers of a matrix operation beside its A group. -/
def pointerRegs (i : Instr) (o : OpX) : List Nat :=
  let aRegs := if mmAsrc o.w1 = 0 then srcRegs ((srcsOf i).take 1) else []
  (readRegs i).filter (fun r => !aRegs.contains r && !(mmAsrc o.w1 = 0 && (srcGroups i).any (·.contains r)))

/-- The operand words at the issue: those of writes that the issue is not ordered after are old or new (R164; DESIGN CHOICE,
log 12). A deterministic wave reads what is there. -/
def State.issueParts (s : State) (w : Wave) (i : Instr) (o : OpX) : List EngPart × List (List Nat) :=
  if s.isDet w then
    let parts := s.matParts w i o none
    (parts, parts.map (·.words))
  else
    let v := s.choosePtrs w (pointerRegs i o)
    let parts := s.matParts v i o none
    let old := (s.beforeStores v).matParts { v with regs := v.fenced } i o (parts.head?.map (·.words))
    (parts, parts.mapIdx (fun j p =>
      let x := (old.getD j {}).words
      s.mixWords (2 ^ 20 + 65536 * min j 4 + 16384 * (j - 4)) x p.words))

/-- A gang's rotation stays where it was: an operation of a round issues within the step that completed it (R159). -/
def State.sameTurn (s s' : State) (wid : Nat) : State :=
  match (s.wave? wid).bind s.detGang with
  | none => s'
  | some (gk, a) => s'.modGang gk (fun x => { x with turn := a.turn })

/-- CONVERGENCE_ROUND_ISSUE (R159): every thread of E is in S, so the operation issues for its wave
(DEDUCED, log 34). -/
def execConvergenceRoundIssue (g k : Nat) (s : State) : Host.Outcome State Fault Refusal :=
  match (s.wg? g).map (fun x => convOf x k) with
  | none => .next s
  | some c =>
    let lane := (((s.wave? c.wave).map (fun w => (List.range 32).find? (fun t =>
      (w.thread t).wait == .conv k && !(w.thread t).exited))).getD none).getD 32
    if !c.isOpen || !s.roundFull c g then .next s
    else
      match s.waiters c.wave lane (· == .conv k) with
      | none => .next s
      | some (i, s', r) =>
        match opX? i with
        | none => .next s
        | some o =>
          if !isMatrix i || s'.commonWait i r then .next s
          else
            match s'.issueCheck i r with
            | some t => .next (s.sameTurn (t.undoRound g k r) c.wave)
            | none =>
              let parts := s'.issueParts r.w i o
              match s'.raiseAll r 4 (parts.1.flatMap (·.faults)) with
              | some t => .next (s.sameTurn (t.undoRound g k r) c.wave)
              | none =>
                let s' := s'.touch r.w.ctx [s'.lane0 r.w o.a.sb]
                let s' := s'.modWg g (fun x => x.modConv k (fun c => { c with isOpen := false, sigs := [] }))
                let s' := s'.modWave c.wave (fun w => (lanesOf r.c.lanes).foldl (fun w t =>
                  w.modThread t (fun th => { th with wait := .none })) w)
                .next (s.sameTurn (s'.engineIssue i r (fun e => { e with snap := parts.2 })) c.wave)

/-! ### Accumulator operations (R165-R167) -/

/-- Positions per register of an ACLD or ACST format. -/
def posPerReg (w1 : Word) : Nat := 2048 / fmtSlot (mmFmtA w1)

/-- The cells of a tile with their group positions, for the lanes that take part: (row, column, register offset, lane,
sub-element). -/
def tilePositions (w1 : Word) (lanes : Lanes) : List (Nat × Nat × Nat × Nat × Nat) :=
  let C := acCols w1
  let k := 64 / fmtSlot (mmFmtA w1)
  (List.range (acRows w1)).flatMap (fun i => (List.range C).filterMap (fun j =>
    let p := i * C + j
    let q := p % posPerReg w1
    if lanes.getLsbD (q / k) then some (i, j, p / posPerReg w1, q / k, q % k) else none))

/-- ACLD's element as a cell (R166). -/
def widen (w1 : Word) (x : Nat) : Nat × FFlags :=
  let f := mmFmtA w1
  if f = 0x14 then (x, 0)
  else if mmIacc w1 then (wrapInt 32 (intVal (tyOfCode f).isSigned (tyOfCode f).width x), 0)
  else convFloat fmtF32 rne ((fmtOfTy (tyOfCode f)).value x)

/-- ACST's cell as an element (R166). -/
def narrow (w1 : Word) (mod : BitVec 4) (c : Nat) : Nat × FFlags :=
  let f := mmFmtA w1
  let ty := tyOfCode f
  if f = 0x14 then (c, 0)
  else if mmIacc w1 then fitInt (mod.getLsbD 1) ty.isSigned ty.width (intVal true 32 c)
  else
    let r := rndOf mod
    convFloat (fmtOfTy ty) r (fmtF32.read r.ftz c)

/-- ACLD (R166): reads its group at issue. -/
def execAcld (o : OpX) (s : State) : Host.Outcome State Fault Refusal :=
  s.issue (.acld o) noWait (fun s r =>
    let base := match o.a.sa with | .reg x => x.toNat | _ => 0
    s.engineIssue (.acld o) r (fun e => { e with
      vals := (lanesOf r.ex).map (fun t => (t, s.groupVals r.w (.acld o) t ((List.range (acGroup o.w1)).map (base + ·)))) }))

/-- ACST (R166): its group is written at the commit. -/
def execAcst (o : OpX) (s : State) : Host.Outcome State Fault Refusal :=
  s.issue (.acst o) noWait (fun s r =>
    s.engineIssue (.acst o) r (fun e => { e with dest := groupAt (.reg o.a.d) (acGroup o.w1) }))

/-- ACZ (R166). -/
def execAcz (o : OpX) (s : State) : Host.Outcome State Fault Refusal :=
  s.issue (.acz o) noWait (fun s r => s.engineIssue (.acz o) r id)

/-- MASKT (R167): reads its registers at issue; the words of SA's lanes, then SB's lane 0. -/
def execMaskt (o : OpX) (s : State) : Host.Outcome State Fault Refusal :=
  s.issue (.maskt o) noWait (fun s r =>
    let a := match o.a.sa with | .reg x => x.toNat | _ => 0
    s.engineIssue (.maskt o) r (fun e => { e with
      vals := (List.range 32).map (fun t => (t, [s.regVal r.w t a])) ++ [(32, [s.lane0 r.w o.a.sb])] }))

/-- The nodes that a node sees: itself and its ancestors, with INVALID for a parent that is not of lower index. -/
def visible (parent : Nat → Nat) : Nat → Nat → List Nat × FFlags
  | 0, _ => ([], 0)
  | fuel + 1, node =>
    if node = 0xFFFF then ([], 0)
    else
      let p := parent node
      let wrong := p != 0xFFFF && decide (node ≤ p)
      let l := visible parent fuel (if wrong then 0xFFFF else p)
      (node :: l.1, l.2 ||| (if wrong then fInvalid else 0))

/-- MASKT's cells that are filled, with its flags (R167). -/
def masktFill (w1 : Word) (parent : Nat → Nat) (sb : Nat) : List (Nat × Nat) × FFlags :=
  let pcount := sb % 512
  let t := min (sb / 2 ^ 16 % 256) (16 * acRows w1)
  (List.range t).foldl (fun (p : List (Nat × Nat) × FFlags) i =>
    let v := visible parent 129 i
    (p.1 ++ ((List.range (acCols w1)).filter (fun j => decide (pcount ≤ j) && !v.1.contains (j - pcount))).map (fun j => (i, j)),
     p.2 ||| v.2)) ([], 0)

/-! ### Commit (R146, R161, R164, R168) -/

/-- An operation's operand part at its commit: what the issue read and what is there now, but under DET what the issue read
(DESIGN CHOICE, log 12). -/
def State.partWords (s : State) (w : Wave) (e : Entry) (j : Nat) (p : EngPart) : List Nat :=
  match e.snap[j]? with
  | none => p.words
  | some old => if p.faults != [] || old.length != p.words.length || s.isDet w then old else s.mixWords (65536 * min j 4 + 16384 * (j - 4)) old p.words

/-- The identity of A and of B (R161). -/
def State.identA (s : State) (w : Wave) (o : OpX) : List Nat :=
  let c := match o.a.sc with | .reg r => r.toNat | _ => 0
  let sa := match o.a.sa with | .reg r => r.toNat | _ => 0
  [mmAsrc o.w1, sa, mmFmtA o.w1, mmM o.w1, mmSteps o.w1] ++
    (match mmAsrc o.w1 with
     | 0 => []
     | 1 => [(s.lane0 w o.a.sa).toNat, (s.lane0 w o.a.sc).toNat]
     | _ => (s.lane0 w o.a.sa).toNat :: (List.range (mmM o.w1)).map (s.pos16 w c))

def State.identB (s : State) (w : Wave) (o : OpX) (scales : List Nat) : List Nat :=
  [(s.lane0 w o.a.sb).toNat, mmFmtB o.w1, mmN o.w1, mmSteps o.w1, mmScale o.w1] ++ scales.drop (mmM o.w1 * mmSteps o.w1)

/-- A latch supplies an operand (R161). -/
def Latch.supplies (l : Latch) (reuse : Bool) (ident : List Nat) : Bool := reuse && l.valid && l.ident == ident

/-- The words that a latch supplies: each is the latch's, or, outside DET, the present one, where the operand has changed
without an OPFENCE (R161; DESIGN CHOICE, log 12). -/
def State.latchWords (s : State) (w : Wave) (l : Latch) (base : Nat) (p : EngPart) : List Nat :=
  if s.isDet w || p.faults != [] then l.words else s.mixWords base p.words l.words

/-- Ends an engine entry that commits: its flags, at once or at the matching MWAIT. -/
def State.committed (s : State) (wid : Nat) (e : Entry) (f : FFlags) : State :=
  let atWait := isMatrix e.ins
  s.modWave wid (fun w =>
    let w := if atWait then w else w.orFlags f
    let w := w.dropEntry e.seq
    if f = 0 then w
    else { w with owed := w.owed ++ [{ num := e.engNum, pc := e.pc, w0 := e.w0, w1 := e.w1, lanes := e.exec, flags := f, atWait }] })

/-- Writes cells of a tile. -/
def Wave.setCells (w : Wave) (w1 : Word) (l : List (Nat × Nat × Nat)) : Wave :=
  l.foldl (fun w x => w.setCell (mmAccRow w1 + x.1) (mmAccCol w1 + x.2.1) (BitVec.ofNat 32 x.2.2)) w

def Wave.tileCell (w : Wave) (w1 : Word) (i j : Nat) : Nat := (w.cell (mmAccRow w1 + i) (mmAccCol w1 + j)).toNat

/-- An engine operation that fails: it does not commit, and its entry waits for delivery (R168). -/
def State.engineFail (s : State) (wid : Nat) (e : Entry) (cause : Nat) : State :=
  s.modWave wid (fun w => w.modEntry e.seq (fun x => { x with st := .fault, orig := cause }))

/-- The commit of a matrix operation. -/
def State.commitMatrix (s : State) (wid : Nat) (w : Wave) (e : Entry) (o : OpX) : State :=
  let parts := s.matParts w e.ins o (e.snap[0]?)
  let words := parts.mapIdx (fun j p => s.partWords w e j p)
  let idA := s.identA w o
  let idB := s.identB w o (words.getD 2 [])
  let plain := !(e.ins matches .mmar _)
  let keepA := w.latchA.supplies o.a.h.y idA
  let keepB := plain && w.latchB.supplies (mmReuseB o.w1) idB
  let read := (parts.mapIdx (fun j p => (j, p))).filter (fun x => !(x.1 == 1 && keepA) && !(x.1 == 4 && keepB))
  match (if e.snap = [] then read.findSome? (fun x => (x.2.faults.head?).map Prod.snd) else none) with
  | some f => s.engineFail wid e f.cause
  | none =>
    if read.any (fun x => x.2.bad) then s.engineFail wid e 0x16
    else
      let words := words.mapIdx (fun j x => if j = 1 && keepA then s.latchWords w w.latchA (2 ^ 21) (parts.getD 1 {})
        else if j = 4 && keepB then s.latchWords w w.latchB (2 ^ 22) (parts.getD 4 {}) else x)
      let res := matResults e.ins o (w.tileCell o.w1) words
      let s := s.modWave wid (fun w =>
        let w := w.setCells o.w1 (res.map (fun x => (x.1, x.2.1, x.2.2.1)))
        { w with
          latchA := if keepA then w.latchA else { ident := idA, words := words.getD 1 [], valid := e.latches }
          latchB := if keepB then w.latchB
            else if plain then { ident := idB, words := words.getD 4 [], valid := e.latches } else {} })
      s.committed wid e (res.foldl (fun f x => f ||| x.2.2.2) 0)

/-- The commit of ACST: the elements of the executing lanes. -/
def State.commitAcst (s : State) (wid : Nat) (w : Wave) (e : Entry) (o : OpX) : State :=
  let ps := (tilePositions o.w1 e.exec).map (fun x =>
    (x.2.2, narrow o.w1 o.a.mod (w.tileCell o.w1 x.1 x.2.1)))
  let width := fmtSlot (mmFmtA o.w1)
  let s' := s.modWave wid (fun w => (lanesOf e.exec).foldl (fun w t => (List.range (acGroup o.w1)).foldl (fun w g =>
    let mine := ps.filter (fun p => p.1.1 == g && p.1.2.1 == t)
    let v := BitVec.ofNat 64 (packSubs width ((List.range (64 / width)).map (fun j =>
      ((mine.find? (fun p => p.1.2.2 == j)).map (fun p => p.2.1)).getD 0)))
    (s.writeLane none e.pc w t (o.a.d.toNat + g) v).stamp (o.a.d.toNat + g) .g (e.exec == w.present)) w) w)
  s'.committed wid e (ps.foldl (fun f p => f ||| p.2.2) 0)

/-- ENGINE_COMMIT (R146): the oldest engine operation of a wave commits all its results in one step. -/
def execEngineCommit (wid : Nat) (s : State) : Host.Outcome State Fault Refusal :=
  match (s.wave? wid).bind (fun w => if w.frozen then none else w.uncommitted.head?.map (fun e => (w, e))) with
  | none => .next s
  | some (w, e) =>
    .next (State.useFree (match e.ins with
      | .mma o | .mmag o | .mmar o | .mperm o => s.commitMatrix wid w e o
      | .acld o =>
        let ps := (tilePositions o.w1 e.exec).map (fun x =>
          (x.1, x.2.1, widen o.w1 (sub (((aget? e.vals x.2.2.2.1).getD []).getD x.2.2.1 0) x.2.2.2.2 (fmtSlot (mmFmtA o.w1)))))
        (s.modWave wid (fun w => w.setCells o.w1 (ps.map (fun x => (x.1, x.2.1, x.2.2.1))))).committed wid e
          (ps.foldl (fun f x => f ||| x.2.2.2) 0)
      | .acst o => s.commitAcst wid w e o
      | .acz o =>
        (s.modWave wid (fun w => w.setCells o.w1 ((List.range (acRows o.w1)).flatMap (fun i =>
          (List.range (acCols o.w1)).map (fun j => (i, j, 0)))))).committed wid e 0
      | .maskt o =>
        let word := fun (t : Nat) => ((aget? e.vals t).getD []).getD 0 0
        let fill := if mmIacc o.w1 then 0x80000000 else 0xFF800000
        let p := masktFill o.w1 (fun n => sub (word (n / 4)) (n % 4) 16) (word 32).toNat
        (s.modWave wid (fun w => w.setCells o.w1 (p.1.map (fun x => (x.1, x.2, fill))))).committed wid e p.2
      | _ => s))

/-! ### OPFENCE and MWAIT -/

/-- Invalidates a wave's latches, and keeps operations in flight from loading them (R161). -/
def Wave.fenceLatches (w : Wave) : Wave :=
  let mitten := w.mitten.map (fun m => { m with latches := m.latches && !isEngine m.ins })
  { w with latchA := {}, latchB := {}, mitten }

/-- OPFENCE (R162): the latches of the workgroup's waves become invalid, no result of the group is in flight, and the
engines see what the wave has written (R164). -/
def execOpfence (o : OpX) (s : State) : Host.Outcome State Fault Refusal :=
  s.issue (.opfence o) opfenceWait (fun s r =>
    let s := s.modWave r.c.wid (fun w => (lanesOf r.c.lanes).foldl (fun w t => w.modThread t (fun th => { th with pend := [] })) { w with loose := [], fenced := w.regs })
    let drop := fun (e : Nat × Wave) =>
      if e.2.wg == r.w.wg then (e.1, e.2.fenceLatches) else e
    ({ s with waves := s.waves.map drop }).finish (.opfence o) r)

/-- A failure delivered at MWAIT or EXIT: an engine operation's uncorrectable data is cause 0x16 (R168), every other fault
is deferred (R211). -/
def State.engineFault (s : State) (wid : Nat) (group : Lanes) (pc : Word) (e : Entry) : State :=
  if isEngine e.ins && e.orig = 0x16 then
    (s.modWave wid (fun w => w.dropEntry e.seq)).takeTrap wid group (fun _ => pc)
      { cause := 0x16, mask := e.exec, pc := e.pc, w0 := e.w0, w1 := e.w1 }
  else s.deliver wid group pc e

/-- MWAIT (R163): flags, their traps and the faults of the operations that it covers. -/
def execMwait (o : OpX) (s : State) : Host.Outcome State Fault Refusal :=
  s.issue (.mwait o) (mwaitWait o) (fun s r =>
    let covers := fun (n : Nat) => decide (n + o.a.mod.toNat < r.w.engines)
    match r.w.mitten.find? (fun e => isEngine e.ins && r.w.deliverable e && covers e.engNum) with
    | some e => s.engineFault r.c.wid r.c.lanes r.c.pc e
    | none =>
      let due := r.w.owed.filter (fun x => covers x.num)
      let traps := due.filter (fun x => r.w.trapping x.flags != 0)
      let settle := fun (s : State) (l : List Owed) => s.modWave r.c.wid (fun w =>
        let w := w.orFlags (l.foldl (fun f x => f ||| (if x.atWait then x.flags else 0)) 0)
        { w with owed := w.owed.filter (fun x => !l.any (fun y => y.num == x.num)) })
      match traps with
      | [] => (settle s due).finish (.mwait o) r
      | x :: more =>
        let s := settle s (due.filter (fun y => decide (y.num ≤ x.num)))
        let i : TrapInfo := { cause := 0x0F, mask := x.lanes, pc := x.pc, w0 := x.w0, w1 := x.w1 }
        if more.isEmpty then
          ((settle s due).finish (.mwait o) r).takeTrap r.c.wid r.c.lanes (fun _ => nextPc (.mwait o) r) i
        else s.takeTrap r.c.wid r.c.lanes (fun _ => r.c.pc) i)

end Sys2Proof.Machine
end

