-- ==== Sys2Proof/Machine/Control.lean ====
section
/-!
DEFINITION. Transfers of control, EXIT and YIELD (spec/15 R303-R308, spec/02 R21).
-/

namespace Sys2Proof.Machine

/-! ### Transfers (R303) -/

/-- The instruction at a target can be fetched and carries another RATE (R21, R303). -/
def State.otherRate (s : State) (w : Wave) (pc : Word) (rate : Nat) : Bool :=
  match s.wordsAt w pc with
  | .ok (w0, _, _) => (decHdr w0).rate.toNat != rate
  | .error _ => false

/-- Ends a transfer: each executing thread goes to its target, the others to the next pc; a target of another RATE is a
precise fault of the transfer. -/
def State.transfer (s : State) (i : Instr) (r : Run) (target : Nat → Word) (link : Option (BitVec 8)) : State :=
  let wrong := (lanesOf r.ex).filter (fun t => s.otherRate r.w (target t) r.w.rate)
  if wrong != [] then s.precise r { r.trap 0x13 (maskOf wrong) with addr := 0 }
  else
    let s := match link with
      | some d => s.writeRegsOf i r (latency i) ((lanesOf r.ex).map (fun t => (t, [(d.toNat, nextPc i r)], 0)))
      | none => s
    s.finishTo i r (fun t => if r.ex.getLsbD t then (target t, some r.c.pc) else (nextPc i r, none))

/-- BRA (R303). -/
def execBra (o : OpC) (s : State) : Host.Outcome State Fault Refusal :=
  s.issue (.bra o) noWait (fun s r => s.transfer (.bra o) r (fun _ => pcPlus r.c.pc o.tgt) none)

/-- The faults of a register target: its space and its alignment (R303). -/
def targetFault (p : Word) : Option Flt :=
  if spaceOf p != 0 then some { stage := 0, cause := 0x06 }
  else if p.toNat % 8 != 0 then some { stage := 1, cause := 0x03 }
  else none

/-- A transfer to a register's address. -/
def State.registerTransfer (s : State) (i : Instr) (r : Run) (target : List Word → Word) : State :=
  let at_ := fun (t : Nat) => target (s.srcVals r.w i t)
  match s.raise r 3 ((lanesOf r.ex).filterMap (fun t =>
      (targetFault ((s.srcVals r.w i t).getD 0 0)).map (fun f => (t, (s.srcVals r.w i t).getD 0 0, f)))) with
  | some s' => s'
  | none => s.transfer i r at_ none

/-- BRX (R303). -/
def execBrx (o : OpC) (s : State) : Host.Outcome State Fault Refusal :=
  s.issue (.brx o) noWait (fun s r =>
    s.registerTransfer (.brx o) r (fun v => addrAdd (v.getD 0 0) (o.tgt.signExtend 64 * 8)))

/-- RET (R303). -/
def execRet (o : OpC) (s : State) : Host.Outcome State Fault Refusal :=
  s.issue (.ret o) noWait (fun s r => s.registerTransfer (.ret o) r (fun v => v.getD 0 0))

/-- CALL (R303). -/
def execCall (o : OpC) (s : State) : Host.Outcome State Fault Refusal :=
  s.issue (.call o) noWait (fun s r => s.transfer (.call o) r (fun _ => pcPlus r.c.pc o.tgt) (some o.d))

/-- The function table entry that a thread's CALLT names: its target, or the check of R304 that fails, those of the entry's
read in the order of R367 (DEDUCED, log 89). -/
def State.calltEntry (s : State) (w : Wave) (o : OpC) (index : Word) (t : Nat) : Except (Word × Flt) Word :=
  let obj := s.obj w
  let at_ := obj.base + BitVec.ofNat 64 (obj.ftaboff + 16 * index.toNat)
  let fail := fun (order cause : Nat) => Except.error (at_, ({ stage := order, cause } : Flt))
  if obj.ftablen ≤ index.toNat then fail 1 0x05
  else
    match s.resolve w accLoad [0] 16 1 at_ (freeAt 300 t) with
    | .error f => .error (at_, { f with stage := max 2 (f.stage - 1) })
    | .ok l =>
      if s.badLoc l 16 then fail 4 0x16
      else
        let b := (s.readLoc w.ctx l 16 0).getD []
        let addr := leWord (b.take 8)
        if leNat (b.drop 12) % 2 = 0 then fail 5 0x05
        else if leNat ((b.drop 8).take 4) != o.tgt.toNat then fail 6 0x0A
        else if spaceOf addr != 0 then .error (addr, { stage := 7, cause := 0x06 })
        else if addr.toNat % 8 != 0 then .error (addr, { stage := 8, cause := 0x03 })
        else if s.otherRate w addr w.rate then fail 9 0x13
        else .ok addr

/-- The trap of a CALLT check: an address only where the cause has one; uncorrectable data is in a table (R371)
(DEDUCED, log 89). -/
def Run.calltTrap (r : Run) (mask : Lanes) (x : Word × Flt) : TrapInfo :=
  let isAddr := decide (3 ≤ x.2.cause) && decide (x.2.cause ≤ 6)
  { r.fltTrap x.2 0 mask (if isAddr then x.1 else 0) with
    info := if x.2.cause == 0x16 then 1 else (r.fltTrap x.2 0 mask 0).info }

/-- CALLT (R304; DEDUCED, log 89): the read of the entry is an acquire at system scope. -/
def execCallt (o : OpC) (s : State) : Host.Outcome State Fault Refusal :=
  s.issue (.callt o) noWait (fun s r =>
    let es := (lanesOf r.ex).map (fun t => (t, s.calltEntry r.w o ((s.srcVals r.w (.callt o) t).getD 0 0) t))
    let bad := es.filterMap (fun e => match e.2 with | .error x => some (e.1, x) | .ok _ => none)
    match worstFault (bad.map (fun b => (b.1, b.2.2))) with
    | some (f, lanes) =>
      match bad.find? (fun b => b.2.2.stage == f.stage) with
      | some b => s.precise r (r.calltTrap (maskOf lanes) b.2)
      | none => s.finish (.callt o) r
    | none =>
      (s.acquire r.w.core 5).transfer (.callt o) r (fun t =>
        match (aget? es t) with
        | some (.ok a) => a
        | _ => r.c.pc) (some o.d))

/-! ### EXIT and YIELD (R307, R308) -/

/-- A deferred fault that EXIT delivers (R168, R191, R192, R211, R307): of the last exit, every one but those of stores;
before it, those of the exiting threads' atomics and loads (DEDUCED, log 32). -/
def exitDelivers (r : Run) (e : Entry) : Bool :=
  r.w.deliverable e && (if lastExit r then !storeFault e else !storeFault e && !exitAwaits e && (e.exec &&& r.ex) != 0)

/-- Reports the undelivered store faults of a wave that has exited (R378). -/
def State.lateFaults (s : State) (wid : Nat) : State :=
  match s.wave? wid with
  | none => s
  | some w => if w.live = 0 then (w.mitten.map (·.seq)).foldl (fun s q => s.lateFault wid q) s else s

/-- EXIT (R307). -/
def execExit (o : OpC) (s : State) : Host.Outcome State Fault Refusal :=
  s.issue (.exit o) exitWait (fun s r =>
    match r.w.mitten.find? (exitDelivers r) with
    | some e => s.engineFault r.c.wid r.c.lanes r.c.pc e
    | none =>
      -- the end of a fragment's turn releases its thread's stores (R279)
      let s := if r.w.kind == .draw && r.w.rate == 6 then (s.drainWave r.c.wid).releaseAs r.w 3 else s
      (((s.finish (.exit o) r).exitLanes r.c.wid r.ex).lateFaults r.c.wid).tryTret r.c.wid)

/-- YIELD (R308): the Y hint; nothing under DET. -/
def execYield (o : OpC) (s : State) : Host.Outcome State Fault Refusal :=
  s.issue (.yield o) noWait (fun s r =>
    let s := s.finish (.yield o) r
    if s.isDet r.w then s else s.modWave r.c.wid (fun w => { w with yieldAt := s.dev.clk + 1 }))

end Sys2Proof.Machine
end

