-- ==== Sys2Proof/Machine/Sync.lean ====
section
/-!
DEFINITION. Rejoin masks, barriers and convergence registers: JOIN, ARRV, KSET, SIGN, BAR, GBAR and the events that
release their waits (spec/12 R248-R257).
-/

namespace Sys2Proof.Machine

/-! ### Rejoin masks (R249-R252) -/

/-- Sets bits in the record of a JOIN's pc, opening it if there is none. -/
def Wave.arriveJoin (w : Wave) (pc : Word) (lanes : Lanes) : Wave :=
  if w.joins.any (fun j => j.pc == pc) then
    { w with joins := w.joins.map (fun j => if j.pc == pc then { j with arrived := j.arrived ||| lanes } else j) }
  else { w with joins := w.joins ++ [{ pc, arrived := lanes, isOpen := true }] }

/-- JOIN (R250). -/
def execJoin (o : OpC) (s : State) : Host.Outcome State Fault Refusal :=
  s.issue (.join o) joinWait (fun s r =>
    (s.modWave r.c.wid (fun w => w.arriveJoin r.c.pc r.ex)).finishWait (.join o) r (fun _ => .join o.d.toNat))

/-- ARRV (R251): the executing threads arrive at a JOIN and go on. -/
def execArrv (o : OpC) (s : State) : Host.Outcome State Fault Refusal :=
  s.issue (.arrv o) (arrvWait o) (fun s r =>
    let pc := pcPlus r.c.pc o.tgt
    if r.ex = 0 then s.finish (.arrv o) r
    else
      match s.wordsAt r.w pc with
      | .error _ => s.precise r (r.trap 0x01 r.ex)
      | .ok (w0, w1, _) =>
        match decodeWords w0 w1 with
        | .ok (.join j) =>
          if j.h.rate != o.h.rate then s.precise r (r.trap 0x13 r.ex)
          else (s.modWave r.c.wid (fun w => w.arriveJoin pc r.ex)).finish (.arrv o) r
        | _ => s.precise r (r.trap 0x01 r.ex))

/-- The threads that wait at a JOIN's pc. -/
def Wave.joinersAt (w : Wave) (pc : Word) : List Nat :=
  (List.range 32).filter (fun t => let th := w.thread t; th.present && !th.exited && th.wait.isJoin && th.pc == pc)

/-- The members of a waiting thread: the live threads that its mask names, as it stands (R250). -/
def State.joinMembers (s : State) (w : Wave) (t : Nat) : Lanes :=
  match (w.thread t).wait with
  | .join m => (s.regRaw w t m).setWidth 32 &&& w.live
  | _ => 0

/-- The waiting threads of a record whose members have all arrived (DEDUCED, log 36). -/
def State.joinable (s : State) (w : Wave) (j : Join) : List Nat :=
  (w.joinersAt j.pc).filter (fun t => s.joinMembers w t &&& ~~~j.arrived == 0)

/-- Releases waiters of a record: they go on as one group, and their members leave it. -/
def State.releaseJoin (s : State) (wid : Nat) (w : Wave) (pc : Word) (rel : List Nat) : State :=
  let gone := rel.foldl (fun m t => m ||| s.joinMembers w t) (maskOf rel)
  (s.release wid (maskOf rel) Wait.isJoin).modWave wid (fun w => ({ w with joins := w.joins.map (fun j =>
    if j.pc == pc then { j with arrived := j.arrived &&& ~~~gone } else j) } : Wave).closeJoins)

/-- JOIN_RELEASE (R250). -/
def execJoinRelease (wid : Nat) (pc : Word) (s : State) : Host.Outcome State Fault Refusal :=
  match (s.wave? wid).bind (fun w => (w.joins.find? (fun j => j.pc == pc)).map (fun j => (w, j))) with
  | none => .next s
  | some (w, j) =>
    let rel := s.joinable w j
    if rel.isEmpty || w.frozen then .next s else .next (s.releaseJoin wid w pc rel)

/-- A thread waits at a JOIN or is stopped for a record (R249, R252). -/
def State.joinStopped (s : State) (wid : Nat) (w : Wave) (t : Nat) : Bool :=
  (w.thread t).wait.isJoin || ((w.thread t).wait == .none &&
    (match s.standers wid t with
     | some (.join o, s', r) => waitOf (.join o) s' r
     | some (.arrv o, s', r) => waitOf (.arrv o) s' r
     | _ => false))

/-- The open record with the lowest pc at which a thread waits (DEDUCED, log 36). -/
def Wave.lowestJoin (w : Wave) : Option Join :=
  (w.joins.filter (fun j => !(w.joinersAt j.pc).isEmpty)).foldl (fun (b : Option Join) j =>
    match b with
    | none => some j
    | some x => if j.pc.toNat < x.pc.toNat then some j else some x) none

/-- Every live thread waits at a JOIN or for a record, and no record's condition holds (R252; DEDUCED, log 36). -/
def State.joinDeadlock (s : State) (wid : Nat) (w : Wave) : Bool :=
  w.runs && (lanesOf w.live).all (s.joinStopped wid w) && w.joins.all (fun j => (s.joinable w j).isEmpty)

/-- JOIN_DEADLOCK_RELEASE (R252). -/
def execJoinDeadlockRelease (wid : Nat) (s : State) : Host.Outcome State Fault Refusal :=
  match (s.wave? wid).bind (fun w => w.lowestJoin.map (fun j => (w, j))) with
  | none => .next s
  | some (w, j) =>
    if s.joinDeadlock wid w then .next (s.releaseJoin wid w j.pc (w.joinersAt j.pc)) else .next s

/-! ### Convergence registers (R255) -/

/-- KSET (R255). -/
def execKset (o : OpC) (s : State) : Host.Outcome State Fault Refusal :=
  s.issue (.kset o) noWait (fun s r =>
    let k := o.d.toNat
    let c := ((s.wg? r.w.wg).map (fun g => convOf g k)).getD {}
    if c.isOpen then s.precise r (r.trap 0x01 r.ex)
    else
      let w := ((s.srcVals r.w (.kset o) r.low).getD 0 0).setWidth 32
      (s.modWg r.w.wg (fun g => g.modConv k (fun c => { c with w }))).finish (.kset o) r)

/-- A thread of a wave is of the expected set, as far as it is known (R159, R255). -/
def Conv.expects (c : Conv) (wid idx : Nat) : Bool :=
  if c.w = 0 then !c.isOpen || c.wave == wid else c.w.getLsbD idx

/-- SIGN (R255). -/
def execSign (o : OpC) (s : State) : Host.Outcome State Fault Refusal :=
  s.issue (.sign o) noWait (fun s r =>
    (s.modWg r.w.wg (fun g => g.modConv o.d.toNat (fun c =>
      if c.expects r.c.wid r.w.idx then { c with sigs := tset 0 c.sigs r.c.wid (tget 0 c.sigs r.c.wid ||| r.ex) } else c))).finish
      (.sign o) r)

/-! ### Barriers (R253, R254) -/

def barOf (g : Workgroup) (n : Nat) : Bar := g.bars.getD n {}

def Workgroup.modBar (g : Workgroup) (n : Nat) (f : Bar → Bar) : Workgroup :=
  { g with bars := lmod (g.bars ++ List.replicate (16 - g.bars.length) {}) n f }

/-- Arrivals of a generation (DEDUCED, log 37). -/
def BarGen.total (x : BarGen) : Nat := (x.arrivals.map (fun e => (lanesOf e.2).length)).sum

/-- One thread arrives: in the last generation, or beyond its count in a new one (DEDUCED, log 37). -/
def Bar.arrive (b : Bar) (count wid t : Nat) : Bar :=
  let add := fun (x : BarGen) => { x with arrivals := tset 0 x.arrivals wid (tget 0 x.arrivals wid ||| 1#32 <<< t) }
  match b.gens.getLast? with
  | some x =>
    if x.count = 0 || decide (x.total < x.count) then { gens := b.gens.dropLast ++ [add x] }
    else { gens := b.gens ++ [add { count, arrivals := [] }] }
  | none => { gens := [add { count, arrivals := [] }] }

/-- BAR (R253). -/
def execBar (o : OpC) (s : State) : Host.Outcome State Fault Refusal :=
  s.issue (.bar o) noWait (fun s r =>
    let n := o.d.toNat
    let count := ((s.srcVals r.w (.bar o) r.low).getD 0 0).toNat
    if 1024 < count then s.precise r (r.trap 0x01 r.ex)
    else
      let s := s.modWg r.w.wg (fun g => g.modBar n (fun b =>
        (lanesOf r.ex).foldl (fun b t => b.arrive count r.c.wid t) b))
      s.finishWait (.bar o) r (fun _ => .bar n))

/-- GBAR (R254). -/
def execGbar (o : OpC) (s : State) : Host.Outcome State Fault Refusal :=
  s.issue (.gbar o) noWait (fun s r =>
    let gk := ((s.wg? r.w.wg).map (·.gang)).getD 0
    let s := s.modGang gk (fun a => { a with gbar := tset 0 a.gbar r.c.wid (tget 0 a.gbar r.c.wid ||| r.ex) })
    s.finishWait (.gbar o) r (fun _ => .gbar))

/-- The live threads of the workgroups of a list, without access waves, have all arrived. -/
def State.allArrived (s : State) (wgs : List Nat) (arr : Table Lanes) : Bool :=
  s.waves.all (fun e => !wgs.contains e.2.wg || e.2.kind == .access || e.2.live &&& ~~~(tget 0 arr e.1) == 0)

/-- The current generation of a workgroup's barrier n, when it is complete (DEDUCED, log 37). -/
def State.barReady (s : State) (k n : Nat) : Option BarGen :=
  match (s.wg? k).bind (fun g => (barOf g n).gens.head?) with
  | none => none
  | some x => if s.waves.any (fun e => e.2.wg == k && e.2.frozen) then none else if (if x.count = 0 then s.allArrived [k] x.arrivals else decide (x.count ≤ x.total)) then some x else none

/-- A gang's barrier is complete. -/
def State.gbarReady (s : State) (gk : Nat) : Bool :=
  match s.gang? gk with
  | none => false
  | some a => a.st == .admitted && a.gbar != [] && s.allArrived a.members a.gbar

/-- The accesses that arriving threads made before a barrier are performed, and released at a scope (R253, R254). -/
def State.settle (s : State) (arr : Table Lanes) (scope : Nat) : State :=
  arr.foldl (fun s e =>
    match s.wave? e.1 with
    | none => s
    | some w => (s.drainWave e.1).releaseAs w scope) s

/-- Every thread of a completed generation goes on (R253). -/
def State.releaseAll (s : State) (arr : Table Lanes) (scope : Nat) (p : Wait → Bool) : State :=
  arr.foldl (fun s e => s.release e.1 e.2 p) (s.settle arr scope)

/-- BARRIER_COMPLETE (R253, R254): barrier n of workgroup g, or with n = 16 the barrier of gang g; every thread of the
generation goes on. -/
def execBarrierComplete (g n : Nat) (s : State) : Host.Outcome State Fault Refusal :=
  if n < 16 then
    match s.barReady g n with
    | none => .next s
    | some x =>
      .next ((s.modWg g (fun w => w.modBar n (fun b => { gens := b.gens.drop 1 }))).releaseAll x.arrivals 2 (· == .bar n))
  else
    match s.gang? g with
    | none => .next s
    | some a =>
      if s.gbarReady g then .next ((s.modGang g (fun a => { a with gbar := [] })).releaseAll a.gbar 3 (· == .gbar)) else .next s

end Sys2Proof.Machine
end

