-- ==== Sys2Proof/Machine/Work.lean ====
section
/-!
DEFINITION. Placing work: LAUNCH and DRAW with their records and checks, FRAMEB and FRAMEE,
and ACQ, REL, RGN and SLEEP with their events (spec/11 R224-R231, spec/13 R258-R260, R274, spec/15 R309-R314).
-/

namespace Sys2Proof.Machine

/-- The first failing check of a list, by its status. -/
def firstStatus (l : List (Nat × Bool)) : Nat := ((l.find? (·.2)).map Prod.fst).getD 0

/-! ### LAUNCH (R224-R230, R313) -/

/-- FLAGS, CTR, CWADDR and CWVAL of a record. -/
structure Actions where
  flags : Nat
  ctr   : Nat
  addr  : Word
  value : Word
deriving DecidableEq, Repr

def Actions.ctrv (a : Actions) : Bool := a.flags % 2 == 1
def Actions.cwv (a : Actions) : Bool := a.flags / 2 % 2 == 1

/-- Reserved bits of the completion fields (status 0x0D). -/
def Actions.reserved (a : Actions) : Bool :=
  a.flags / 32 != 0 || (!a.ctrv && a.ctr != 0) || (!a.cwv && a.addr != 0)

/-- Status 0x0F. -/
def State.actionsBad (s : State) (part : Nat) (a : Actions) : Bool :=
  (a.ctrv && !(s.partLanterns part).contains (a.ctr / 4096)) ||
  (a.cwv && (a.addr.toNat % 8 != 0 || !(spaceOf a.addr == 0 || spaceOf a.addr == 3 || spaceOf a.addr == 4))) ||
  (a.flags / 4 % 8 != 4 && a.flags / 4 % 8 != 5)

/-- The record names a counter outside the context's grant, which is cause 0x05 at the instruction (R287): looked at once no
check of the record has failed (DEDUCED, log 43). -/
def State.ctrClosed (s : State) (ctx : Nat) (a : Actions) : Bool := a.ctrv && !s.granted ctx a.ctr

def Actions.completion (a : Actions) : Completion :=
  { ctr := if a.ctrv then some a.ctr else none, cw := if a.cwv then some (a.addr, a.value) else none
    system := a.flags / 4 % 8 == 5 }

/-- The completion fields of a launch record. -/
def launchActions (b : List Byte) : Actions :=
  { flags := fieldAt b 0x1C 4, ctr := fieldAt b 0x20 2, addr := BitVec.ofNat 64 (fieldAt b 0x28 8), value := BitVec.ofNat 64 (fieldAt b 0x30 8) }

/-- The status of a launch record (R227; DEDUCED, log 28; DEDUCED, log 29; DEDUCED, log 41). -/
def State.launchStatus (s : State) (ctx : Nat) (b : List Byte) : Nat × CodeObj :=
  let part := s.partOfCtx ctx
  let a := launchActions b
  let p := s.objStatus ctx (BitVec.ofNat 64 (fieldAt b 0 8))
  let gsize := fieldAt b 0x0C 1
  let wgsize := fieldAt b 0x0E 2
  let cores := fun (l : Nat) => ((s.lanterns[l]?).map (fun l => l.ring.length)).getD 0
  (firstStatus [(p.1, p.1 != 0), (0x0C, p.2.isDraw),
    (0x0D, fieldAt b 0x0B 1 != 0 || fieldAt b 0x22 6 != 0 || fieldAt b 0x38 200 != 0 || a.reserved),
    (0x0E, decide (gsize = 0) || decide (24 < gsize) || decide (wgsize = 0) || decide (1024 < wgsize) || decide (19 < fieldAt b 0x0D 1)),
    (0x0F, s.actionsBad part a), (0x10, !fitsEmpty p.2 ((wgsize + 31) / 32)), (0x11, p.2.det && decide (p.2.ncore < gsize)),
    (0x12, !(s.partLanterns part).any (fun l => decide (gsize ≤ cores l)))], p.2)

/-- Places the launch of a record. -/
def State.placeLaunch (s : State) (ctx : Nat) (pc w0 : Word) (o : CodeObj) (b : List Byte) : State :=
  let ord := ((s.ctx? ctx).map (·.placed)).getD 0
  let l : Launch :=
    { ctx, ord, pc, w0, obj := o, gangs := fieldAt b 8 3, gsize := fieldAt b 0x0C 1, delta := fieldAt b 0x0D 1
      wgsize := fieldAt b 0x0E 2, stages := (List.range 24).map (fun m => fieldAt b 0x10 12 / 2 ^ (4 * m) % 16)
      compl := (launchActions b).completion, since := s.dev.clk, waitSince := s.dev.clk }
  ({ s with launches := s.launches ++ [(s.nextKey, l)], nextKey := s.nextKey + 1 }).modCtx ctx
    (fun c => { c with placed := c.placed + 1 })

/-- Reads the 256-byte record of LAUNCH or DRAW after the thread's earlier accesses, which it releases at device scope: its
precise faults, or its bytes (R224, R227). -/
def State.readRecord (s : State) (r : Run) (p : Word) (body : State → List Byte → State) : State :=
  ((s.drainWave r.c.wid).releaseAs r.w 4).checked r accLoad [0, 1, 4] 256 256 [(r.low, p)] (fun s locs =>
    let l := (locs.head?.map Prod.snd).getD (.mem 0)
    if s.badLoc l 256 then s.precise r { r.trap 0x16 (1#32 <<< r.low) with info := 1 }
    else body s ((s.readLoc r.w.ctx l 256 0).getD []))

/-- One value in D of every executing thread. -/
def Run.oneValue (r : Run) (d : BitVec 8) (v : Nat) : List LaneRes :=
  (lanesOf r.ex).map (fun t => (t, [(d.toNat, BitVec.ofNat 64 v)], 0))

/-- Writes one value to D of every executing thread, and ends the issue, which takes and frees its Mitten entry (R302). -/
def State.answer (s : State) (i : Instr) (r : Run) (d : BitVec 8) (v : Nat) : State :=
  (s.modWave r.c.wid Wave.passEntry).commitRegs i r (r.oneValue d v)

/-- LAUNCH (R224, R313; DEDUCED, log 29). -/
def execLaunch (o : OpC) (s : State) : Host.Outcome State Fault Refusal :=
  s.issue (.launch o) placeWait (fun s r =>
    if r.ex = 0 then s.finish (.launch o) r
    else
      s.readRecord r ((s.srcVals r.w (.launch o) r.low).getD 0 0) (fun s b =>
        let p := s.launchStatus r.w.ctx b
        if p.1 = 0 && s.ctrClosed r.w.ctx (launchActions b) then s.grantTrap r (1#32 <<< r.low)
        else
          let s := if p.1 = 0 then s.placeLaunch r.w.ctx r.c.pc r.c.w0 p.2 b else s
          s.answer (.launch o) r o.d p.1))

/-! ### DRAW (R258, R259, R274) -/

/-- Sconce lines of one kind of record of a rate (R271). -/
def CodeObj.lines (o : CodeObj) (rate : Nat) (ray : Bool) : Nat :=
  let l := o.hold.filter (fun h => h.rate == rate && h.vis == ray)
  if l.isEmpty then 0 else ((l.map (·.slot)).foldl max 0 + 8) / 8

/-- L_r of a rate. -/
def CodeObj.linesOf (o : CodeObj) (rate : Nat) : Nat := o.lines rate false + o.lines rate true

/-- The raster reserve, and the minimum quota (R274). -/
def CodeObj.reserve (o : CodeObj) : Nat := 32 * o.linesOf 5
def CodeObj.minimum (o : CodeObj) : Nat := o.linesOf 1 + o.linesOf 2 + o.linesOf 3 + 64 * o.linesOf 4 + o.reserve

def drawActions (b : List Byte) : Actions :=
  { flags := fieldAt b 0x30 4, ctr := fieldAt b 0x34 2, addr := BitVec.ofNat 64 (fieldAt b 0x38 8), value := BitVec.ofNat 64 (fieldAt b 0x40 8) }

/-- Status 0x14. -/
def drawFieldsBad (b : List Byte) : Bool :=
  let f := fun (off : Nat) => fieldAt b off 1
  let size := fun (n : Nat) => decide (n = 0) || decide (8192 < n)
  decide (3 < f 0x18) || decide (2 < f 0x19) || decide (2 < f 0x1A) || decide (2 < f 0x1C) || decide (4 < f 0x1D) ||
  decide (3 < f 0x1E) || decide (19 < f 0x1F) || f 0x1B % 2 != 0 || size (fieldAt b 0x14 2) || size (fieldAt b 0x16 2) ||
  ((f 0x1E == 0) != (fieldAt b 0x28 8 == 0))

/-- Status 0x15. -/
def drawUnfit (o : CodeObj) (posreg : Nat) : Bool :=
  let held := fun (r : Nat) => o.homes.getD r 0 == 4 && o.hold.any (fun h => h.reg == r)
  o.prologue != o.full || o.det || decide (o.full.n ≤ posreg + 1) || !held posreg || !held (posreg + 1) ||
  o.hold.any (fun h => h.vis && !(h.rate == 2 || h.rate == 3 || h.rate == 4))

/-- The status of a draw record (R259, R313; DEDUCED, log 28). -/
def State.drawStatus (s : State) (ctx : Nat) (b : List Byte) : Nat × CodeObj :=
  let a := drawActions b
  let p := s.objStatus ctx (BitVec.ofNat 64 (fieldAt b 0 8))
  let c : Option Ctx := s.ctx? ctx
  let frame : Option Frame := c.bind (fun (x : Ctx) => x.frame)
  (firstStatus [(p.1, p.1 != 0), (0x0C, !p.2.isDraw),
    (0x0D, fieldAt b 0x13 1 != 0 || fieldAt b 0x36 2 != 0 || fieldAt b 0x48 184 != 0 || a.reserved),
    (0x0F, s.actionsBad (s.partOfCtx ctx) a), (0x10, !fitsEmpty p.2 1), (0x13, frame.isNone), (0x14, drawFieldsBad b),
    (0x15, drawUnfit p.2 (fieldAt b 0x1B 1)),
    (0x16, decide ((c.map (fun (x : Ctx) => x.holdquota.toNat)).getD 0 < p.2.minimum)), (0x17, decide (8192 ≤ (frame.map (·.draws)).getD 0))], p.2)

/-- Places the draw of a record. -/
def State.placeDraw (s : State) (ctx : Nat) (pc recAddr : Word) (o : CodeObj) (b : List Byte) : State :=
  let c := s.ctx? ctx
  let f : Frame := (c.bind (fun (x : Ctx) => x.frame)).getD {}
  let runs := s.draws.any (fun e => e.2.ctx == ctx && !e.2.gone)
  let ptr := fun (off : Nat) => BitVec.ofNat 64 (fieldAt b off 8)
  let d : DrawUnit :=
    { ctx, ord := (c.map (·.placed)).getD 0, pc, recAddr, obj := o, frame := f.id, seq := f.draws, objlist := ptr 8
      nobj := fieldAt b 0x10 3, width := fieldAt b 0x14 2, height := fieldAt b 0x16 2, spp := fieldAt b 0x18 1
      coarse := fieldAt b 0x19 1, cull := fieldAt b 0x1A 1, posreg := fieldAt b 0x1B 1, cfmt := fieldAt b 0x1C 1
      blend := fieldAt b 0x1D 1, depth := fieldAt b 0x1E 1, delta := fieldAt b 0x1F 1, cbase := ptr 0x20, dbase := ptr 0x28
      compl := (drawActions b).completion }
  ({ s with draws := s.draws ++ [(s.nextKey, d)], nextKey := s.nextKey + 1 }).modCtx ctx (fun c => { c with
    placed := c.placed + 1, spoilt := c.spoilt && runs, frame := c.frame.map (fun (f : Frame) => { f with draws := f.draws + 1 }) })

/-- DRAW (R258, R313; DEDUCED, log 29). -/
def execDraw (o : OpC) (s : State) : Host.Outcome State Fault Refusal :=
  s.issue (.draw o) placeWait (fun s r =>
    if r.ex = 0 then s.finish (.draw o) r
    else
      let at_ := (s.srcVals r.w (.draw o) r.low).getD 0 0
      s.readRecord r at_ (fun s b =>
        let p := s.drawStatus r.w.ctx b
        if p.1 = 0 && s.ctrClosed r.w.ctx (drawActions b) then s.grantTrap r (1#32 <<< r.low)
        else
          let s := if p.1 = 0 then s.placeDraw r.w.ctx r.c.pc at_ p.2 b else s
          s.answer (.draw o) r o.d p.1))

/-! ### Frames (R260, R314) -/

/-- FRAMEB (R314; DEDUCED, log 68). -/
def execFrameb (o : OpC) (s : State) : Host.Outcome State Fault Refusal :=
  s.issue (.frameb o) noWait (fun s r =>
    if r.ex = 0 then s.finish (.frameb o) r
    else if ((s.ctx? r.w.ctx).bind (·.frame)).isSome then s.answer (.frameb o) r o.d 1
    else
      let s := { s.modCtx r.w.ctx (fun c => { c with frame := some { id := s.nextKey } }) with nextKey := s.nextKey + 1 }
      s.answer (.frameb o) r o.d 0)

/-- FRAMEE (R314; DEDUCED, log 68). -/
def execFramee (o : OpC) (s : State) : Host.Outcome State Fault Refusal :=
  s.issue (.framee o) noWait (fun s r =>
    if r.ex = 0 then s.finish (.framee o) r
    else
      let p := (s.srcVals r.w (.framee o) r.low).getD 0 0
      let space := spaceOf p == 0 || spaceOf p == 3 || spaceOf p == 4
      let bad : Option Flt :=
        if p = 0 then none else if !space then some { stage := 0, cause := 0x06 }
        else if p.toNat % 8 != 0 then some { stage := 1, cause := 0x03 } else none
      match bad with
      | some f => s.precise r (r.fltTrap f 1 (1#32 <<< r.low) p)
      | none =>
        match (s.ctx? r.w.ctx).bind (·.frame) with
        | none => s.answer (.framee o) r o.d 1
        | some f =>
          (s.modCtx r.w.ctx (fun c => { c with frame := none, closing := c.closing ++ [{ f with word := p }] })).answer
            (.framee o) r o.d 0)

/-! ### ACQ, REL, RGN and SLEEP -/

/-- ACQ has an effect: the wave belongs to a compute workgroup that holds its prologue allotment (R311). -/
def State.acqActs (s : State) (w : Wave) : Bool :=
  (w.kind == .compute || w.kind == .coarse) && ((s.wg? w.wg).map (fun g => !g.full)).getD false

/-- ACQ (R32, R311). -/
def execAcq (o : OpC) (s : State) : Host.Outcome State Fault Refusal :=
  s.issue (.acq o) noWait (fun s r =>
    if r.ex != 0 && s.acqActs r.w then
      let gk := ((s.wg? r.w.wg).map (·.gang)).getD 0
      ((s.modWg r.w.wg (fun g => { g with acqAt := true })).placeAcq gk).finishWait (.acq o) r (fun _ => .acq)
    else s.finish (.acq o) r)

/-- ACQ_GRANT (R32, R34): the oldest request of a core, when there is room for all its members. -/
def execAcqGrant (core : Nat) (s : State) : Host.Outcome State Fault Refusal :=
  match s.oldestRequest core with
  | none => .next s
  | some (gk, a) => if s.acqFits a (fun _ => false) then .next (s.grantAcq gk a) else .next s

/-- REL (R33, R311): the wave stops until the rendezvous of its gang; with only the prologue allotment it goes on
(DEDUCED, log 39). -/
def execRel (o : OpC) (s : State) : Host.Outcome State Fault Refusal :=
  s.issue (.rel o) noWait (fun s r =>
    let acts := (r.w.kind == .compute || r.w.kind == .coarse) &&
      ((s.wg? r.w.wg).map (fun g => g.full && (s.objOfWg g).prologue != (s.objOfWg g).full)).getD false
    if r.ex != 0 && acts then
      (s.finishWait (.rel o) r (fun _ => .rel)).tryRel (((s.wg? r.w.wg).map (·.gang)).getD 0)
    else s.finish (.rel o) r)

/-- RGN (R312): replaces the staged set of the wave's Palm (DESIGN CHOICE, log 40). -/
def execRgn (o : OpX) (s : State) : Host.Outcome State Fault Refusal :=
  s.issue (.rgn o) noWait (fun s r =>
    (s.modWave r.c.wid (fun w => { w with
      palm := (rgnRuns o.w1).flatMap (fun x => (List.range x.2).map (x.1 + ·)) })).finish (.rgn o) r)

/-- SLEEP (R309; DEDUCED, log 42). -/
def execSleep (o : OpC) (s : State) : Host.Outcome State Fault Refusal :=
  s.issue (.sleep o) noWait (fun s r =>
    let n := ((s.srcVals r.w (.sleep o) r.low).getD 0 0).toNat % 2 ^ 32
    s.finishWait (.sleep o) r (fun _ => .sleep (s.dev.ptp + n)))

/-- SLEEP_EXPIRY (R309): the group of a lane has slept long enough (DEDUCED, log 42). -/
def execSleepExpiry (wid lane : Nat) (s : State) : Host.Outcome State Fault Refusal :=
  match s.wave? wid with
  | none => .next s
  | some w =>
    match (w.thread lane).wait with
    | .sleep t =>
      if t ≤ s.dev.ptp && !w.frozen then
        .next (s.release wid (maskOf ((List.range 32).filter (fun u =>
          (w.thread u).wait == .sleep t && (w.thread u).pc == (w.thread lane).pc))) (· == .sleep t))
      else .next s
    | _ => .next s

end Sys2Proof.Machine
end

