-- ==== Sys2Proof/Machine/Queue.lean ====
section
/-!
DEFINITION. The queues of a wave: QPUSH, QPOP and QCTL (spec/15 R315-R317).
-/

namespace Sys2Proof.Machine

/-- The entry that a QPUSH fills: SA of each executing thread in its lane, zero elsewhere. -/
def State.pushRow (s : State) (i : Instr) (r : Run) : List Word :=
  (List.range 32).map (fun t => if r.ex.getLsbD t then (s.srcVals r.w i t).getD 0 0 else 0)

/-- QPUSH (R316). An issue in which no thread executes pushes a row of zeros. -/
def execQpush (o : OpA) (s : State) : Host.Outcome State Fault Refusal :=
  s.issue (.qpush o) noWait (fun s r =>
    let n := o.d.toNat % 8
    let q := r.w.queue n
    if q.depth = 0 || decide (q.depth ≤ q.entries.length) then s.precise r (r.trap 0x12 r.ex)
    else
      let row := s.pushRow (.qpush o) r
      (s.finish (.qpush o) r).modWave r.c.wid (fun w => { w with
        queues := lmod w.queues n (fun x => { x with entries := x.entries ++ [some row] }) }))

/-- QPOP (R317): each executing thread takes its lane of the entry, or drops it. -/
def execQpop (o : OpA) (s : State) : Host.Outcome State Fault Refusal :=
  s.issue (.qpop o) noWait (fun s r =>
    if o.mod.getLsbD 0 then s.finish (.qpop o) r
    else s.commitRegs (.qpop o) r ((lanesOf r.ex).map (fun t => (t, [(o.d.toNat, (s.srcVals r.w (.qpop o) t).getD 0 0)], 0))))

/-- The depths of a wave's queues with queue n at depth d. -/
def Wave.boundDepth (w : Wave) (n d : Nat) : Nat := (((lmod w.queues n (fun q => { q with depth := d })).map (·.depth))).sum

/-- QCTL (R315). -/
def execQctl (o : OpA) (s : State) : Host.Outcome State Fault Refusal :=
  s.issue (.qctl o) noWait (fun s r =>
    let n := o.d.toNat % 8
    let d := ((s.srcVals r.w (.qctl o) r.low).getD 0 0).toNat % 128
    if r.ex = 0 then s.finish (.qctl o) r
    else if decide (64 < d) || decide ((s.allot r.w).q < r.w.boundDepth n d) || (r.w.queue n).entries != [] then
      s.precise r (r.trap 0x12 r.ex)
    else
      let s := s.finish (.qctl o) r
      s.modWave r.c.wid (fun w => { w with queues := lmod w.queues n (fun q => { q with depth := d }) }))

end Sys2Proof.Machine
end

