-- ==== Sys2Proof/Machine/Task.lean ====
section
/-!
DEFINITION. Tasks: TSPAWN, TTIME, TDEP, TDEC and the watches, with the events of the timer wheel, the dispatcher, held
instances and settle groups (spec/14 R284-R299, spec/15 R318-R322).
-/

namespace Sys2Proof.Machine

/-! ### TSPAWN and TTIME -/

/-- Creates one lane's task: a task of a counter at zero is Ready at once (R287). -/
def State.spawnOne (s : State) (x : Spawn) : State × Nat :=
  if x.status != 0 then (s, x.status * 2 ^ 56)
  else
    let st : TState := match x.task.st with
      | .pending c => if s.counter c = 0 then .ready else .pending c
      | st => st
    let p := s.addTask x.lan { x.task with st }
    (p.1, (p.2.map (fun k => taskId x.lan k.slot k.gen)).getD 0)

/-- Creates the tasks in lane order, and writes each lane's result (R284, R320). -/
def State.spawnAll (s : State) (i : Instr) (r : Run) (d : Nat) (l : List Spawn) : State :=
  let p := l.foldl (fun (p : State × List LaneRes) x =>
    let q := p.1.spawnOne x
    (q.1, p.2 ++ [(x.lane, [(d, BitVec.ofNat 64 q.2)], 0)])) ((s.drainWave r.c.wid).releaseAs r.w 4, [])
  p.1.answerTagged i r (s.laneVals i r) p.2

/-- TSPAWN (R318, R320): a release at device scope. -/
def execTspawn (o : OpX) (s : State) : Host.Outcome State Fault Refusal :=
  s.issue (.tspawn o) (tspawnWait o) (fun s r =>
    match s.tspawnFault o r with
    | some s' => s'
    | none => s.spawnAll (.tspawn o) r o.a.d.toNat (s.spawns o r))

/-- TTIME (R319, R320): a release at device scope. -/
def execTtime (o : OpA) (s : State) : Host.Outcome State Fault Refusal :=
  s.issue (.ttime o) (ttimeWait o) (fun s r =>
    match s.ttimeFault o r with
    | some s' => s'
    | none => s.spawnAll (.ttime o) r o.d.toNat (s.timedSpawns o r))

/-! ### Counters -/

/-- The counters that the lanes of an instruction name (DEDUCED, log 43). -/
def State.counterOps (s : State) (i : Instr) (r : Run) : List (Nat × Nat × Nat) :=
  (lanesOf r.ex).map (fun t =>
    let v := s.srcVals r.w i t
    (t, (v.getD 0 0).toNat % 65536, (v.getD 1 0).toNat % 65536))

/-- Executing lanes whose counter lies outside the grant (R287; DEDUCED, log 43). -/
def State.ungranted (s : State) (r : Run) (l : List (Nat × Nat)) : Lanes :=
  maskOf ((l.filter (fun x => !s.granted r.w.ctx x.2)).map Prod.fst)

/-- TDEP (R321): sets counters in lane order; each lane's destination receives the value before. -/
def execTdep (o : OpA) (s : State) : Host.Outcome State Fault Refusal :=
  s.issue (.tdep o) noWait (fun s r =>
    let l := s.counterOps (.tdep o) r
    let closed := s.ungranted r (l.map (fun x => (x.1, x.2.1)))
    if closed != 0 then s.grantTrap r closed
    else
      let p := l.foldl (fun (p : State × List LaneRes) x =>
        (p.1.putCounter x.2.1 (BitVec.ofNat 16 x.2.2), p.2 ++ [(x.1, [(o.d.toNat, (p.1.counter x.2.1).setWidth 64)], 0)])) (s, [])
      p.1.answerTagged (.tdep o) r (s.laneVals (.tdep o) r) p.2)

/-- Lowers the lanes' counters in lane order until one underflows: the state, the results of the applied lanes, and the
lane that underflows with its counter (DEDUCED, log 43). -/
def State.decAll (s : State) (d : Nat) : List (Nat × Nat) → State × List LaneRes × Option (Nat × Nat)
  | [] => (s, [], none)
  | (t, c) :: l =>
    match s.decCounter c with
    | none => (s, [], some (t, c))
    | some s' =>
      let q := s'.decAll d l
      (q.1, (t, [(d, (s'.counter c).setWidth 64)], 0) :: q.2.1, q.2.2)

/-- TDEC (R322): a release at device scope. On underflow the lanes below are applied, and the trap names the lane. -/
def execTdec (o : OpA) (s : State) : Host.Outcome State Fault Refusal :=
  s.issue (.tdec o) noWait (fun s r =>
    let l := (s.counterOps (.tdec o) r).map (fun x => (x.1, x.2.1))
    let closed := s.ungranted r l
    if closed != 0 then s.grantTrap r closed
    else
      let p := ((s.drainWave r.c.wid).releaseAs r.w 4).decAll o.d.toNat l
      match p.2.2 with
      | none => p.1.answerTagged (.tdec o) r (s.laneVals (.tdec o) r) p.2.1
      | some (t, c) =>
        ((p.1.writeRegsOf (.tdec o) r none p.2.1).modWave r.c.wid Wave.passEntry).precise r { r.trap 0x09 (1#32 <<< t) with info := BitVec.ofNat 64 c })

/-! ### Watches (R297) -/

/-- Registers one lane's watch: the state and the version word read. -/
def State.watchOne (s : State) (ctx ctr : Nat) (loc : Loc) (settle : Word) : State × Word :=
  let w := s.version loc
  let tile := match loc with
    | .mem pa => pa / 4096
    | _ => 0
  let v : Watch := { id := s.nextKey, ctx, tile, ctr, settle }
  let s := { s with nextKey := s.nextKey + 1 }
  if w.getLsbD 62 then (s, w)
  else if w.getLsbD 63 then (s.fireWatch v w, w)
  else
    let s := (s.modLantern (ctr / 4096 % 16) (fun l => { l with watches := l.watches ++ [v] })).settleAdd ctx settle 1
    (if w.toNat % 2 ^ 32 = 0 then s else s.fireWatch v w, w)

/-- TDEP.watch (R297, R321). -/
def execTdepWatch (o : OpA) (s : State) : Host.Outcome State Fault Refusal :=
  s.issue (.tdepWatch o) (tdepWatchWait o) (fun s r =>
    let l := s.watchOps o r
    let f := s.watchLocs o r
    let stage := fun (l : List (Nat × Word × Flt)) => (l.map (·.2.2.stage)).foldl min 9
    let fault := if stage f.2.1 < stage f.1 then s.raise r accAtomic.kind f.2.1 else s.raise r accLoad.kind f.1
    let closed := s.ungranted r (l.map (fun x => (x.1, x.2.1)))
    match fault with
    | some s' => s'
    | none =>
      if closed != 0 then s.grantTrap r closed
      else
        let s := s.touch r.w.ctx (l.map (·.2.2.1))
        let p := l.foldl (fun (p : State × List LaneRes) x =>
          let q := p.1.watchOne r.w.ctx x.2.1 ((aget? f.2.2 x.1).getD (.mem 0)) x.2.2.2
          (q.1, p.2 ++ [(x.1, [(o.d.toNat, q.2)], 0)])) (s, [])
        p.1.answerTagged (.tdepWatch o) r (s.laneVals (.tdepWatch o) r) p.2)

/-! ### Events of the lantern -/

/-- A task's context is not frozen (R286). -/
def State.taskRuns (s : State) (k : Task) : Bool := ((s.ctx? k.ctx).map (fun c => c.st == .running)).getD false

/-- Tasks of a lantern that a tick of the timer wheel releases, in the order of their TTIMEs: none between two ticks (R289,
R438). -/
def State.dueTasks (s : State) (l : Lantern) : List Task :=
  if s.dev.wheelAt != s.dev.clk then []
  else sortTasks (l.tasks.filter (fun k => match k.st with
    | .timed t => decide (t ≤ s.dev.ptp) && s.taskRuns k
    | _ => false))

/-- TIMER_WHEEL_TICK (R289). -/
def execTimerWheelTick (lantern : Nat) (s : State) : Host.Outcome State Fault Refusal :=
  match s.lanterns[lantern]? with
  | none => .next s
  | some l => .next (s.makeReady lantern (s.dueTasks l))

/-- The head of the dispatcher: the first Ready task of the lowest priority whose context is not frozen (R290). -/
def State.headTask (s : State) (l : Lantern) : Option Task :=
  let ready := sortTasks (l.tasks.filter (fun k => k.st == .ready && s.taskRuns k))
  (List.range 24).findSome? (fun p => ready.find? (fun k => k.prio == p))

/-- The tasks that share the head's wave, the head first. -/
def Lantern.gather (l : Lantern) (h : Task) : List Task :=
  (sortTasks (l.tasks.filter (fun k => k.st == .ready && k.ctx == h.ctx && k.entry == h.entry && k.prio == h.prio))).take 32

/-- The place of a wave of one object on a lantern: the lowest core, then the lowest quadrant, that fits. -/
def State.placeFor (s : State) (lantern : Nat) (o : CodeObj) : Option (Nat × Nat) :=
  (List.range Config.coresPerLantern).findSome? (fun c =>
    ((List.range 4).find? (fun q => s.coreFits (24 * lantern + c) o.full q 1)).map (fun q => (24 * lantern + c, q)))

/-- The wave of gathered tasks (R291). -/
def taskWave (ctx lantern wg core quad : Nat) (o : CodeObj) (ks : List Task) (clk : Nat) : Wave :=
  let one := ks.length == 1
  let at_ := fun (k : Task) (r : Nat) => if r = 0 then k.arg else if r = 1 then BitVec.ofNat 64 (taskId lantern k.slot k.gen) else k.ver
  let pc := o.at ((o.entry.getD 0 none).getD 0)
  let base : Wave :=
    { ctx, slot := 0, kind := .task, wg, idx := 0, core, quad, rate := 0, trapbase := o.trapStart, admitted := clk
      threads := (List.range 32).map (fun i =>
        match ks[i]? with
        | some k => { freshThread pc (BitVec.ofNat 64 i) with el := { task := k.slot, obj := k.gen } }
        | none => absent) }
  (List.range 3).foldl (fun w r =>
    let w := ks.zipIdx.foldl (fun (w : Wave) e => w.setReg r e.2 (at_ e.1 r)) w
    w.setTag r (if one then .u ((ks.head?.map (fun k => at_ k r)).getD 0) else .g)) base

/-- Dispatches gathered tasks to a place. -/
def State.dispatch (s : State) (lantern : Nat) (h : Task) (ks : List Task) (core quad : Nat) : State :=
  let k := s.nextKey
  let slot := (s.freeSlot h.ctx).getD 0
  let wid := widOf h.ctx slot
  let unit : Launch :=
    { ctx := h.ctx, ord := 0, pc := 0, obj := h.obj, gangs := 1, gsize := 1, wgsize := 32, isTask := true, nextGang := 1 }
  let gang : Gang := { ctx := h.ctx, launch := k, idx := 0, core, members := [k + 2] }
  let group : Workgroup :=
    { ctx := h.ctx, gang := k + 1, member := 0, core, size := 32, nwave := 1, quad, full := true, coarse := 3 }
  let s := { s with
    nextKey := k + 3, launches := s.launches ++ [(k, unit)], gangs := s.gangs ++ [(k + 1, gang)], wgs := s.wgs ++ [(k + 2, group)] }
  let s := s.addWave (taskWave h.ctx lantern (k + 2) core quad h.obj ks s.dev.clk)
  let run := fun (x : Task) =>
    match ks.findIdx? (fun (y : Task) => y.order == x.order) with
    | some lane => { x with st := .running wid lane }
    | none => x
  s.modLantern lantern (fun l => { l with
    starving := l.starving.filter (fun o => !ks.any (fun y => y.order == o)), tasks := l.tasks.map run })

/-- TASK_DISPATCH (R290). -/
def execTaskDispatch (lantern : Nat) (s : State) : Host.Outcome State Fault Refusal :=
  match s.lanterns[lantern]? with
  | none => .next s
  | some l =>
    match s.headTask l with
    | none => .next s
    | some h =>
      match s.placeFor lantern h.obj, s.freeSlot h.ctx with
      | some (core, quad), some _ =>
        if s.slotsLeft h.ctx = 0 then .next s else .next (s.dispatch lantern h (l.gather h) core quad)
      | _, _ => .next s

/-- The head task has waited 400 µs without a core (R293). -/
def State.headStarves (s : State) (l : Lantern) : Bool :=
  ((s.headTask l).map (fun h => decide (h.since + Config.ticks400us ≤ s.dev.clk))).getD false

/-- A task that starved as the head waits still. -/
def State.starved (s : State) (l : Lantern) : Bool :=
  l.tasks.any (fun k => k.st == .ready && s.taskRuns k && l.starving == some k.order)

/-- TASK_HEAD_STARVATION (R293). -/
def execTaskHeadStarvation (lantern : Nat) (s : State) : Host.Outcome State Fault Refusal :=
  match s.lanterns[lantern]? with
  | none => .next s
  | some l =>
    if !s.starved l && s.headStarves l then .next (s.modLantern lantern (fun l => { l with starving := (s.headTask l).map (·.order) }))
    else .next s

/-- HELD_INSTANCE_ADMIT (R298): the oldest held instance takes the lowest free slot and enters its ready queue. -/
def execHeldInstanceAdmit (lantern : Nat) (s : State) : Host.Outcome State Fault Refusal :=
  match s.lanterns[lantern]? with
  | none => .next s
  | some l =>
    match (sortTasks (s.heldOn l)).head?, l.freeTask with
    | some k, some slot =>
      let rest := { l with tasks := l.tasks.filter (fun x => x.order != k.order) }
      let p := rest.place { k with st := .ready, order := s.nextKey, since := s.dev.clk } slot
      .next { s.modLantern lantern (fun _ => p.1) with nextKey := s.nextKey + 1 }
    | _, _ => .next s

/-- An instance's writes have been acknowledged (R299). -/
def State.settled (s : State) (x : Settling) : Bool :=
  match s.wave? x.wid with
  | none => true
  | some w => w.mitten.all (fun e => e.st == .fault || !x.seqs.contains e.seq)

/-- SETTLE_DECREMENT (R299). -/
def execSettleDecrement (inst : Nat) (s : State) : Host.Outcome State Fault Refusal :=
  match s.settling.find? (fun x => x.id == inst) with
  | none => .next s
  | some x =>
    if s.settled x then .next (({ s with settling := s.settling.filter (fun y => y.id != inst) }).settleAdd x.ctx x.word (-1))
    else .next s

end Sys2Proof.Machine
end

