-- ==== Sys2Proof/Machine/Hold.lean ====
section
/-!
DEFINITION. Held records and the Sconce: shares of a quota (R273, R274), what a lantern does when a record does not fit
(R275-R277), spilled records (R276) and releases (R272), with HREAD and HREL (R323-R325).
-/

namespace Sys2Proof.Machine

/-! ### Elements -/

/-- A cluster's thread has exited and it creates no finer element. -/
def Cluster.barren (c : Cluster) : Bool := c.culled && c.phase == 2

/-- Set-up of a cluster has finished, or it has none. -/
def Cluster.setUp (c : Cluster) : Bool := c.barren || c.phase == 4

/-- Fragments of a cluster that have not retired. -/
def DrawUnit.fragsOf (d : DrawUnit) (obj cls : Nat) : List Frag := d.frags.filter (fun f => f.obj == obj && f.cls == cls)

/-- Every thread of a cluster's elements has retired. -/
def DrawUnit.clusterDone (d : DrawUnit) (obj : Nat) (c : Cluster) : Bool :=
  c.setUp && c.coarse.all (fun x => x.st == 2) && (d.fragsOf obj c.idx).isEmpty

/-- All clusters of an object have been created. -/
def DrawObj.clustersMade (o : DrawObj) : Bool := o.phase == 2 && (o.culled || decide (o.ncls ≤ o.clusters.length))

/-- Every thread of an object's elements has retired. -/
def DrawUnit.objectDone (d : DrawUnit) (o : DrawObj) : Bool := o.clustersMade && o.clusters.all (d.clusterDone o.idx)

def DrawUnit.obj? (d : DrawUnit) (i : Nat) : Option DrawObj := d.objs.find? (fun o => o.idx == i)
def DrawObj.cluster? (o : DrawObj) (j : Nat) : Option Cluster := o.clusters.find? (fun c => c.idx == j)

/-- The frame that a draw belongs to, open or closing. -/
def Ctx.frameOf (c : Ctx) (id : Nat) : Option Frame := (c.frame.toList ++ c.closing).find? (fun f => f.id == id)

/-! ### Shares of the Sconce (R273, R274) -/

/-- Sconce lines of a context's records on a lantern, of those of a kind. -/
def State.linesOf (s : State) (ctx lan : Nat) (p : HeldRec → Bool) : Nat :=
  ((s.recs.filter (fun e => e.2.ctx == ctx && e.2.lantern == lan && e.2.spilled.isNone && p e.2)).map (fun e => e.2.lines)).sum

/-- All of them. -/
def State.linesUsed (s : State) (ctx lan : Nat) : Nat := s.linesOf ctx lan (fun _ => true)

/-- Those of frame, object, cluster and vertex records, which share the quota less the raster reserve (R274). -/
def State.shareUsed (s : State) (ctx lan : Nat) : Nat := s.linesOf ctx lan (fun r => r.rate != 5)

def State.quota (s : State) (ctx : Nat) : Nat := ((s.ctx? ctx).map (fun c => c.holdquota.toNat % 2 ^ 17)).getD 0

/-- A main record is closing: every element of the next finer rate that it covers has been created (R274, R272): the
objects of a frame, the clusters of an object, the vertices of a cluster, the coarse elements of a cluster's vertices, the
samples of a coarse element (DEDUCED, log 61). -/
def State.closing (s : State) (r : HeldRec) : Bool :=
  !r.isRay &&
  (if r.rate == 1 then
    !(((s.ctx? r.ctx).bind (fun (c : Ctx) => c.frame)).any (fun f => f.id == r.frame)) &&
    s.draws.all (fun e => e.2.ctx != r.ctx || e.2.frame != r.frame || e.2.obj.base != r.code ||
      decide (e.2.nobj ≤ e.2.objs.length))
  else
    match s.draw? r.draw with
    | none => true
    | some d =>
      match d.obj? r.el.obj with
      | none => true
      | some o =>
        if r.rate == 2 then o.clustersMade
        else
          match o.cluster? r.el.cls with
          | none => true
          | some c =>
            if r.rate == 5 then
              d.frags.all (fun f => f.started || !(f.obj == o.idx && f.cls == c.idx && f.tri == r.el.tri &&
                f.px / 2 ^ d.coarse == r.el.cx && f.py / 2 ^ d.coarse == r.el.cy))
            else if r.rate == 3 then c.barren || decide (3 ≤ c.phase)
            else c.setUp && c.coarse.all (fun x => x.st != 0))

/-! ### Spilling (R275, R276) -/

/-- The order in which ray records are spilled: least recently read, then sequence, rate and element
(DEDUCED, log 62). -/
def HeldRec.spillKey (r : HeldRec) : List Nat := [r.lastRead, r.seq, r.rate, r.elem]

/-- The ray record that a lantern spills next. -/
def State.spillNext (s : State) (ctx lan : Nat) : Option (Nat × HeldRec) :=
  (s.recs.filter (fun e => e.2.ctx == ctx && e.2.lantern == lan && e.2.isRay && e.2.spilled.isNone)).foldl
    (fun (b : Option (Nat × HeldRec)) e =>
      match b with
      | none => some e
      | some x => if lexLt e.2.spillKey x.2.spillKey then some e else some x) none

/-- The lowest room of n lines in the spill area of a context. -/
def State.spillRoom (s : State) (ctx n : Nat) : Option Nat :=
  let size := ((s.ctx? ctx).map (fun c => c.spillsize.toNat % 2 ^ 40 / 64)).getD 0
  let held := s.recs.filterMap (fun e => if e.2.ctx == ctx then e.2.spilled.map (fun k => (k, e.2.lines)) else none)
  (0 :: held.map (fun h => h.1 + h.2)).foldl (fun (b : Option Nat) k =>
    if decide (k + n ≤ size) && held.all (fun h => decide (k + n ≤ h.1) || decide (h.1 + h.2 ≤ k)) then
      match b with
      | none => some k
      | some x => some (min x k)
    else b) none

/-- The S9 writes a spilled record into its lines of the spill area, in a form of its own: the bytes are free (R273, R276;
DESIGN CHOICE, log 13). -/
def State.spillOut (s : State) (ctx off n : Nat) : State :=
  let base := ((s.ctx? ctx).map (fun c => vaOf c.spillbase)).getD 0
  (List.range n).foldl (fun t k =>
    match s.walk ctx (base + 64 * (off + k)) with
    | .error _ => t
    | .ok m => t.writePa m.pa ((List.range 64).map (fun i => (s.free (freeAt 354 0 + 64 * k + i)).truncate 8))) s

/-- How an attempt to reserve lines ends. -/
inductive Room where
  | fits (s : State)
  /-- stalls until lines are released -/
  | stalls (s : State)
  /-- cause 0x0B -/
  | exhausted (s : State)
deriving DecidableEq, Repr

/-- Room for some lines within a share, with the actions of R275: at most `fuel` records are spilled
(DEDUCED, log 62). -/
def State.makeRoom (ctx lan share need : Nat) : Nat → State → Room
  | 0, s => .exhausted s
  | fuel + 1, s =>
    if s.shareUsed ctx lan + need ≤ share then .fits s
    else if s.recs.any (fun e => e.2.ctx == ctx && e.2.lantern == lan && s.closing e.2) then .stalls s
    else
      match s.spillNext ctx lan with
      | none => .exhausted s
      | some (k, r) =>
        match s.spillRoom ctx r.lines with
        | none => .exhausted s
        | some off =>
          State.makeRoom ctx lan share need fuel
            { s.spillOut ctx off r.lines with recs := amod s.recs k (fun r => { r with spilled := some off }) }

/-- Reserves lines for a record of a draw outside the raster: within the quota less the raster reserve (R274). Where
there is no room the creation stalls, or cause 0x0B is noted (R277; DEDUCED, log 62). -/
def State.reserveLines (s : State) (d : DrawUnit) (lan rate need : Nat) : State × Bool :=
  match State.makeRoom d.ctx lan (s.quota d.ctx - d.obj.reserve) need (s.recs.length + 1) s with
  | .fits s => (s, true)
  | .stalls s => (s, false)
  | .exhausted s =>
    (s.modCtx d.ctx (fun c => if c.holdStalled || c.holdFault.isSome then c else { c with holdFault := some (lan, d.seq, rate) }), false)

/-! ### Records (R271) -/

/-- The registers of one kind of record. -/
def CodeObj.heldRegs (o : CodeObj) (rate : Nat) (ray : Bool) : List Nat :=
  (o.hold.filter (fun h => h.rate == rate && h.vis == ray)).map (·.reg)

/-- The record of an element, main or ray, filled with zero; none where it takes no line. -/
def State.newRec (s : State) (u : Nat) (d : DrawUnit) (rate lan : Nat) (el : Elem) (elem : Nat) (ray : Bool) : State :=
  let n := d.obj.lines rate ray
  if n = 0 then s
  else
    let r : HeldRec :=
      { ctx := d.ctx, draw := u, code := d.obj.base, seq := d.seq, rate, el, elem, lantern := lan, isRay := ray, lines := n
        frame := d.frame, regs := d.obj.heldRegs rate ray, lastRead := s.dev.clk
        frameScope := ray && d.obj.hold.any (fun h => h.rate == rate && h.vis && h.scope == 2) }
    { s with recs := s.recs ++ [(s.nextKey, r)], nextKey := s.nextKey + 1 }

/-- Both records of an element. -/
def State.newRecs (s : State) (u : Nat) (d : DrawUnit) (rate lan : Nat) (el : Elem) (elem : Nat) : State :=
  (s.newRec u d rate lan el elem false).newRec u d rate lan el elem true

/-- Lines have been released: a stalled creation of the context is tried again (R277). -/
def State.dropRecs (s : State) (ctx : Nat) (p : Nat → HeldRec → Bool) : State :=
  if s.recs.any (fun e => p e.1 e.2) then
    ({ s with recs := s.recs.filter (fun e => !p e.1 e.2) }).modCtx ctx (fun c => { c with holdFault := none, holdStalled := false })
  else s

/-! ### Release (R272) -/

/-- The reference count of a main record is zero (DEDUCED, log 61). -/
def State.recFree (s : State) (r : HeldRec) : Bool :=
  let live := fun (rate : Nat) (p : HeldRec → Bool) => s.recs.any (fun e => e.2.draw == r.draw && e.2.rate == rate && !e.2.isRay && p e.2)
  match s.draw? r.draw with
  | none => r.rate != 1 && !r.isRay
  | some d =>
    match d.obj? r.el.obj with
    | none => false
    | some o =>
      let c := o.cluster? r.el.cls
      let done := (c.map (d.clusterDone o.idx)).getD true
      match r.rate, r.isRay with
      | 2, false => d.objectDone o && !live 3 (fun x => x.el.obj == o.idx)
      | 3, false => done && !live 4 (fun x => x.el.obj == o.idx && x.el.cls == r.el.cls)
      | 4, false => done
      | 4, true => (c.map Cluster.barren).getD false
      | 5, false =>
        ((c.map (fun c => c.coarse.all (fun x => x.st == 2 || !(x.tri == r.el.tri && x.cx == r.el.cx && x.cy == r.el.cy)))).getD true) &&
        (d.fragsOf o.idx r.el.cls).all (fun f => !(f.tri == r.el.tri && f.px / 2 ^ d.coarse == r.el.cx &&
          f.py / 2 ^ d.coarse == r.el.cy))
      | _, _ => false

/-- HELD_RECORD_RELEASE (R272): a record whose count is zero; the vertex records of one cluster go together
(DEDUCED, log 61). -/
def execHeldRecordRelease (rec : Nat) (s : State) : Host.Outcome State Fault Refusal :=
  match aget? s.recs rec with
  | none => .next s
  | some r =>
    if s.recFree r then
      .next (s.dropRecs r.ctx (fun k x => k == rec || (r.rate == 4 && x.rate == 4 && x.isRay == r.isRay && x.draw == r.draw &&
        x.el.obj == r.el.obj && x.el.cls == r.el.cls)))
    else .next s

/-! ### HREAD and HREL (R323-R325) -/

/-- The element that a handle names: rate, sequence, object, cluster, vertex; none for a field that its RATE does not
use. -/
def handleOf (h : Word) : Option (Nat × Nat × Nat × Nat × Nat) :=
  let n := h.toNat
  let rate := n / 2 ^ 61
  let seq := n / 2 ^ 48 % 2 ^ 13
  let obj := n / 2 ^ 24 % 2 ^ 24
  let cls := n / 2 ^ 8 % 2 ^ 16
  let vtx := n / 4 % 64
  if n % 4 != 0 || !(rate == 2 || rate == 3 || rate == 4) || (rate == 2 && cls != 0) || (rate != 4 && vtx != 0) then none
  else some (rate, seq, obj, cls, vtx)

/-- The live ray record that a handle names, in the frame of the reading wave's draw. -/
def State.handleRec (s : State) (w : Wave) (h : Word) : Option (Nat × HeldRec) :=
  match handleOf h with
  | none => none
  | some (rate, seq, obj, cls, vtx) =>
    let frame := ((s.draw? w.draw).map (·.frame)).getD 0
    s.recs.find? (fun e => e.2.isRay && e.2.ctx == w.ctx && e.2.frame == frame && e.2.rate == rate && e.2.seq == seq &&
      e.2.el.obj == obj && e.2.el.cls == cls && e.2.el.vtx == vtx)

/-- What HREAD gives a thread: zero without a live record, or where vR's entry has another rate. What a record of another
code object that does not hold vR gives is open, as is a spilled record once a program has stored into the spill area (R273)
(DESIGN CHOICE, log 63). -/
def State.hreadVal (s : State) (w : Wave) (t r : Nat) (h : Word) : Word :=
  match s.handleRec w h with
  | none => 0
  | some (_, c) =>
    if !(s.obj w).hold.any (fun e => e.reg == r && e.vis && e.rate == c.rate) then 0
    else if c.spoiled || (c.spilled.isSome && ((s.ctx? c.ctx).map (·.spoilt)).getD false) || !c.regs.contains r then s.free (freeAt 341 t)
    else tget 0 c.vals r

/-- A read of a record: it was read now, and a spilled one comes back where it fits (R276). -/
def State.readRec (s : State) (k : Nat) : State :=
  match aget? s.recs k with
  | none => s
  | some c =>
    let reserve := ((s.draw? c.draw).map (fun d => d.obj.reserve)).getD 0
    let back := c.spilled.isSome && decide (s.shareUsed c.ctx c.lantern + c.lines ≤ s.quota c.ctx - reserve)
    let v := { c with
      lastRead := s.dev.clk, spilled := if back then none else c.spilled
      spoiled := c.spoiled || (c.spilled.isSome && ((s.ctx? c.ctx).map (·.spoilt)).getD false) }
    { s with recs := amod s.recs k (fun _ => v) }

/-- The load's pc of a poisoned held value (R373). -/
def HeldRec.poisonOf (c : HeldRec) (r : Nat) : Option Word :=
  if tget 0 c.poison r = 0 then none else some (tget 0 c.poison r - 1)

/-- Cause 0x16 for a poisoned value that is no operand register of the thread (R373; DEDUCED, log 64). -/
def State.poisonTrap (s : State) (r : Run) (l : List (Nat × Word)) : State :=
  let src := (l.head?.map Prod.snd).getD 0
  let ws := s.instrWords r.w src
  s.precise r { r.trap 0x16 (maskOf (l.map Prod.fst)) with pc := src, w0 := ws.1, w1 := ws.2 }

/-- HREAD (R324; DEDUCED, log 64). -/
def execHread (o : OpA) (s : State) : Host.Outcome State Fault Refusal :=
  s.issue (.hread o) noWait (fun s r =>
    let reg := (groupAt o.sb 1).headD 0
    let hs := (lanesOf r.ex).map (fun t => (t, (s.srcVals r.w (.hread o) t).getD 0 0))
    let bad := hs.filterMap (fun x => ((s.handleRec r.w x.2).bind (fun c =>
      if (s.obj r.w).hold.any (fun e => e.reg == reg && e.vis && e.rate == c.2.rate) then c.2.poisonOf reg else none)).map (fun p => (x.1, p)))
    if bad != [] then s.poisonTrap r bad
    else
      let res := hs.map (fun x => (x.1, [(o.d.toNat, s.hreadVal r.w x.1 reg x.2)], (0 : FFlags)))
      let s := hs.foldl (fun s x => match s.handleRec r.w x.2 with
        | some (k, _) => s.readRec k
        | none => s) s
      s.answerLater (.hread o) r 7 [] 0 res)

/-- HREL (R325). -/
def execHrel (o : OpA) (s : State) : Host.Outcome State Fault Refusal :=
  s.issue (.hrel o) noWait (fun s r =>
    let ks := (lanesOf r.ex).filterMap (fun t => (s.handleRec r.w ((s.srcVals r.w (.hrel o) t).getD 0 0)).map Prod.fst)
    (s.dropRecs r.w.ctx (fun k _ => ks.contains k)).finish (.hrel o) r)

end Sys2Proof.Machine
end

