-- ==== Sys2Proof/Machine/Raster.lean ====
section
/-!
DEFINITION. The raster arithmetic: set-up of triangles, edge functions, coverage, sample positions, depth, and the
screen blocks (spec/13 R264-R270, R278).
-/

namespace Sys2Proof.Machine

/-! ### Vertices (R264) -/

/-- Held value of a vertex-home register of a vertex of a draw, with its poison mark; zero without a record. -/
def State.vertexVal (s : State) (u : Nat) (d : DrawUnit) (obj cls vtx reg : Nat) : Word × Word :=
  match s.recs.find? (fun e => e.2.draw == u && e.2.rate == 4 && e.2.isRay == d.obj.rayVisible reg && e.2.el.obj == obj &&
      e.2.el.cls == cls && e.2.el.vtx == vtx) with
  | none => (0, 0)
  | some (_, c) => (tget 0 c.vals reg, tget 0 c.poison reg)

/-- A vertex as set-up takes it: fixed-point position, depth and reciprocal clip value; none where it discards the
triangle. -/
structure SetVtx where
  x : Int
  y : Int
  z : BitVec 32
  q : BitVec 32
deriving DecidableEq, Repr

/-- A coordinate in range, as 16.8 fixed point. -/
def fixed (v : FVal) : Option Int :=
  match v with
  | .fin _ q => if (Q.ofInt (-8192)).le q && q.lt (Q.ofInt 8192) then some ((q.mul (Q.ofInt 256)).round 0) else none
  | _ => none

/-- A reciprocal clip value that set-up accepts. -/
def clipOk (v : FVal) : Bool := v.isFin && !v.isZero && !v.isNeg

def State.setVertex (s : State) (u : Nat) (d : DrawUnit) (obj cls vtx : Nat) : Option SetVtx :=
  let p := (s.vertexVal u d obj cls vtx d.posreg).1
  let z := (s.vertexVal u d obj cls vtx (d.posreg + 1)).1
  match fixed (fmtF32.value (sub p 0 32)), fixed (fmtF32.value (sub p 1 32)), clipOk (fmtF32.value (sub z 1 32)) with
  | some x, some y, true => some { x, y, z := z.setWidth 32, q := (z >>> 32).setWidth 32 }
  | _, _, _ => none

/-! ### Edge functions and coverage (R265, R266) -/

/-- E_ab at a point. -/
def edge (ax ay bx by_ px py : Int) : Int := (bx - ax) * (py - ay) - (by_ - ay) * (px - ax)

/-- The triangle of three vertices in index order: none where it is discarded. -/
def setTriangle (cull idx : Nat) (ids : List Nat) (v : List SetVtx) : Option Tri :=
  match ids, v with
  | [i0, i1, i2], [v0, v1, v2] =>
    let a := edge v0.x v0.y v1.x v1.y v2.x v2.y
    if a = 0 || (cull == 1 && decide (0 < a)) || (cull == 2 && decide (a < 0)) then none
    else
      let o := if 0 < a then [(i0, v0), (i1, v1), (i2, v2)] else [(i0, v0), (i2, v2), (i1, v1)]
      some { idx, v := o.map Prod.fst, provoking := i0, xs := o.map (·.2.x), ys := o.map (·.2.y), area := a.natAbs
             zs := o.map (·.2.z), qs := o.map (·.2.q) }
  | _, _ => none

/-- Edge k of a triangle in set-up order: from vertex k + 1 to vertex k + 2. -/
def Tri.edgeAt (t : Tri) (k : Nat) (px py : Int) : Int :=
  let a := (k + 1) % 3
  let b := (k + 2) % 3
  edge (t.xs.getD a 0) (t.ys.getD a 0) (t.xs.getD b 0) (t.ys.getD b 0) px py

/-- Edge k owns its points. -/
def Tri.owns (t : Tri) (k : Nat) : Bool :=
  let a := (k + 1) % 3
  let b := (k + 2) % 3
  let dx := t.xs.getD b 0 - t.xs.getD a 0
  let dy := t.ys.getD b 0 - t.ys.getD a 0
  decide (dy < 0) || (decide (dy = 0) && decide (0 < dx))

/-- A point is inside by the ownership rule. -/
def Tri.inside (t : Tri) (px py : Int) : Bool :=
  (List.range 3).all (fun k => let e := t.edgeAt k px py; decide (0 < e) || (decide (e = 0) && t.owns k))

/-- The depth at a point: the f32 nearest to the weighted sum (R269). -/
def Tri.depth (t : Tri) (px py : Int) : Nat :=
  let terms := (List.range 3).map (fun k =>
    ((FVal.ofQ { num := t.edgeAt k px py, den := 1 }).mul (fmtF32.value ((t.zs.getD k 0).toNat))).1)
  let v := match (FVal.sum 0 terms).1 with
    | .fin n q => .fin n (q.div (Q.ofInt t.area))
    | x => x
  (fmtF32.write rne v).1

/-- A depth from 0 to 1. -/
def depthOk (z : Nat) : Bool :=
  match fmtF32.value z with
  | .fin _ q => (Q.ofInt 0).le q && q.le (Q.ofInt 1)
  | _ => false

/-! ### Samples (R267) -/

/-- Sample positions in sixteenths of a pixel. -/
def samplePos : Nat → List (Nat × Nat)
  | 0 => [(8, 8)]
  | 1 => [(12, 4), (4, 12)]
  | 2 => [(5, 1), (13, 5), (1, 11), (9, 15)]
  | _ => [(3, 1), (11, 3), (7, 5), (15, 7), (1, 9), (9, 11), (5, 13), (13, 15)]

/-- The point of a sample. -/
def samplePoint (spp px py smp : Nat) : Int × Int :=
  let p := (samplePos spp).getD smp (8, 8)
  ((256 * px + 16 * p.1 : Nat), (256 * py + 16 * p.2 : Nat))

/-- The centre of a coarse pixel (R268). -/
def coarsePoint (coarse cx cy : Nat) : Int × Int :=
  let c := 2 ^ coarse
  ((256 * c * cx + 128 * c : Nat), (256 * c * cy + 128 * c : Nat))

/-- Covered samples of a triangle with their depths: pixel row, column, sample, in that order (R266, R269)
(DEDUCED, log 66). -/
def Tri.samples (t : Tri) (width height spp : Nat) : List (Nat × Nat × Nat × Nat) :=
  let lo := fun (l : List Int) => ((l.foldl min (l.headD 0)) / 256).toNat
  let hi := fun (l : List Int) (n : Nat) => min n (((l.foldl max (l.headD 0)) / 256 + 1).toNat)
  let x0 := lo t.xs
  let y0 := lo t.ys
  (List.range (hi t.ys height - y0)).flatMap (fun j =>
    (List.range (hi t.xs width - x0)).flatMap (fun i =>
      (List.range (2 ^ spp)).filterMap (fun k =>
        let p := samplePoint spp (x0 + i) (y0 + j) k
        if t.inside p.1 p.2 then
          let z := t.depth p.1 p.2
          if depthOk z then some (y0 + j, x0 + i, k, z) else none
        else none)))

/-! ### Screen blocks (R278) -/

/-- The lantern of a pixel's screen block, and the block. -/
def blockOf (px py : Nat) : Nat × Nat := (px / 64, py / 64)

def State.blockLantern (s : State) (ctx : Nat) (b : Nat × Nat) : Nat :=
  let ls := s.partLanterns (s.partOfCtx ctx)
  ls.getD ((b.1 + 2 * b.2) % max 1 ls.length) 0

end Sys2Proof.Machine
end

