-- ==== Sys2Proof/Machine/Draw.lean ====
section
/-!
DEFINITION. The elements of draws: their creation in order (spec/13 R260-R263, R268), cause 0x0B (R277), and INTERP,
ECULL and RSPAWN with the start of rays (spec/15 R326-R328).
-/

namespace Sys2Proof.Machine

/-- A draw of a context that is not frozen: a frozen context's draws keep their place (R382). -/
def State.runningDraw? (s : State) (u : Nat) : Option DrawUnit :=
  (s.draw? u).filter (fun d => ((s.ctx? d.ctx).map (fun c => c.st == .running)).getD false)

/-! ### Starting waves -/

/-- One element of a wave: what it stands for, its sys.elem and its sys.eptr. -/
structure Started where
  el   : Elem
  elem : Nat
  eptr : Word := 0
deriving DecidableEq, Repr

/-- Room for a wave group of n waves of an object on a lantern: the lowest core, then the lowest quadrant. -/
def State.groupPlace (s : State) (lantern : Nat) (o : CodeObj) (n : Nat) : Option (Nat × Nat) :=
  (List.range Config.coresPerLantern).findSome? (fun c =>
    ((List.range 4).find? (fun q => s.coreFits (24 * lantern + c) o.full q n)).map (fun q => (24 * lantern + c, q)))

/-- One wave of a group. -/
def State.addDrawWave (s : State) (u : Nat) (d : DrawUnit) (wg core quad rate entry : Nat) (idx : Nat) (l : List Started) : State :=
  s.addWave
    { ctx := d.ctx, slot := 0, kind := .draw, wg, idx, core, quad := (quad + idx) % 4, rate, draw := u, trapbase := d.obj.trapStart
      admitted := s.dev.clk
      threads := (List.range 32).map (fun i =>
        match l[i]? with
        | some x => { freshThread (d.obj.at entry) (BitVec.ofNat 64 x.elem) with el := x.el, eptr := x.eptr }
        | none => absent) }

/-- Starts the threads of elements of one rate on a lantern as one wave group (R263): the state and the group, or none
where no core has room. A rate without an entry starts nothing. -/
def State.startGroup (s : State) (u : Nat) (d : DrawUnit) (lantern rate : Nat) (l : List Started) : Option (State × Nat) :=
  match d.obj.entry.getD rate none with
  | none => some (s, 0)
  | some entry =>
    let n := (l.length + 31) / 32
    match s.groupPlace lantern d.obj n with
    | none => none
    | some (core, quad) =>
      if s.slotsLeft d.ctx < n then none
      else
        let k := s.nextKey
        let gang : Gang := { ctx := d.ctx, launch := u, idx := 0, core, members := [k + 1] }
        let group : Workgroup :=
          { ctx := d.ctx, gang := k, member := 0, core, size := 32 * n, nwave := n, quad, full := true, coarse := 3 }
        let s := { s with nextKey := k + 2, gangs := s.gangs ++ [(k, gang)], wgs := s.wgs ++ [(k + 1, group)] }
        some ((List.range n).foldl (fun s i => s.addDrawWave u d (k + 1) core quad rate entry i ((l.drop (32 * i)).take 32)) s, k + 1)

/-- Phase of an element once it has been created: its thread runs, or it has none. -/
def DrawUnit.firstPhase (d : DrawUnit) (rate : Nat) : Nat := if (d.obj.entry.getD rate none).isSome then 1 else 2

/-! ### Reports (R261) -/

/-- A fault-queue record of a draw that belongs to no thread. -/
def State.drawReport (s : State) (d : DrawUnit) (cause : Nat) (addr : Word) : State :=
  let ws := s.instrWords (agentWave d.ctx) d.pc
  s.faultRecord d.ctx { cause, flags := 0, pc := d.pc, addr, w0 := ws.1, w1 := ws.2 }

/-! ### Frame elements (R260) -/

/-- A draw's frame, and the phase of its code object's element there: 0 not created. -/
def State.framePhase (s : State) (d : DrawUnit) : Nat :=
  match ((s.ctx? d.ctx).bind (fun (c : Ctx) => c.frameOf d.frame)) with
  | none => 2
  | some f => ((f.elements.find? (fun x => x.1 == d.obj.base)).map Prod.snd).getD 0

def Frame.addElement (f : Frame) (id : Nat) (code : Word) (phase : Nat) : Frame :=
  if f.id == id then { f with elements := f.elements ++ [(code, phase)] } else f

/-- The lantern of the i-th object of a draw: a lantern of the partition, a free choice (R263; DESIGN CHOICE, log 105). -/
def State.objLantern (s : State) (ctx i : Nat) : Nat :=
  let ls := s.partLanterns (s.partOfCtx ctx)
  ls.getD ((i + (s.free (freeAt 353 0)).toNat) % max 1 ls.length) 0

/-- A draw is the first of its code object in its frame (R260). -/
def State.firstOfFrame (s : State) (d : DrawUnit) : Bool :=
  s.draws.all (fun e => e.2.ctx != d.ctx || e.2.frame != d.frame || e.2.obj.base != d.obj.base || decide (d.seq ≤ e.2.seq))

/-- What a failed reservation leaves: a spilled record or a cause that is due, or nothing. -/
def State.stalled (s : State) (d : DrawUnit) (t : State) : Option State :=
  let due := fun (s : State) => (s.ctx? d.ctx).bind (fun (c : Ctx) => c.holdFault)
  if t.recs = s.recs ∧ due t = due s then none else some t

/-- The frame element of a draw's code object starts, if it is due and has room. -/
def State.tryFrame (s : State) (u : Nat) : Option State :=
  match s.runningDraw? u with
  | none => none
  | some d =>
    if d.gone || s.framePhase d != 0 || !s.firstOfFrame d then none
    else
      let lan := s.objLantern d.ctx 0
      let start : List Started := [{ el := {}, elem := 0, eptr := d.recAddr }]
      match s.startGroup u d lan 1 start with
      | none => none
      | some _ =>
        match s.reserveLines d lan 1 (d.obj.linesOf 1) with
        | (t, false) => s.stalled d t
        | (t, true) =>
          let s := (((t.startGroup u d lan 1 start).map Prod.fst).getD t).newRecs u d 1 lan {} 0
          some (s.modCtx d.ctx (fun c => { c with
            frame := c.frame.map (fun (f : Frame) => f.addElement d.frame d.obj.base (d.firstPhase 1))
            closing := c.closing.map (fun (f : Frame) => f.addElement d.frame d.obj.base (d.firstPhase 1)) }))

/-- FRAME_ELEMENT_START (R260). -/
def execFrameElementStart (u : Nat) (s : State) : Host.Outcome State Fault Refusal := .next ((s.tryFrame u).getD s)

/-! ### Objects (R262) -/

/-- Earlier objects of a draw on a lantern have all their clusters. -/
def DrawUnit.lanternMade (d : DrawUnit) (lan : Nat) : Bool :=
  d.objs.all (fun o => o.lantern != lan || o.clustersMade)

/-- No object of an earlier draw is still to be created, and theirs on a lantern have all their clusters. -/
def State.earlierMade (s : State) (u : Nat) (ctx lan : Nat) : Bool :=
  s.draws.all (fun e => e.2.ctx != ctx || e.2.gone || decide (u ≤ e.1) || (e.2.lanternMade lan && decide (e.2.nobj ≤ e.2.objs.length)))

/-- The record of an object: its cluster list and count, or the cause that it is reported with (R261). -/
def State.readObject (s : State) (d : DrawUnit) (at_ : Word) : Except Nat (Word × Nat) :=
  match s.agentLoad d.ctx [0, 4] at_ 32 32 with
  | .error c => .error c
  | .ok b =>
    let clist := BitVec.ofNat 64 (fieldAt b 0 8)
    if clist.toNat % 64 != 0 || !(spaceOf clist == 0 || spaceOf clist == 4) || fieldAt b 0x0A 6 != 0 then .error 0x01
    else .ok (clist, fieldAt b 8 2)

/-- The next object of a draw is created, if it is due and has room. -/
def State.tryObject (s : State) (u : Nat) : Option State :=
  match s.runningDraw? u with
  | none => none
  | some d =>
    let i := d.objs.length
    let lan := s.objLantern d.ctx i
    if d.gone || s.framePhase d != 2 || decide (d.nobj ≤ i) || !d.lanternMade lan || !s.earlierMade u d.ctx lan then none
    else
      let at_ := addrAdd d.objlist (BitVec.ofNat 64 (32 * i))
      let start : List Started := [{ el := { obj := i }, elem := i, eptr := at_ }]
      match s.startGroup u d lan 2 start with
      | none => none
      | some _ =>
        match s.reserveLines d lan 2 (d.obj.linesOf 2) with
        | (t, false) => s.stalled d t
        | (t, true) =>
          let s := ((t.startGroup u d lan 2 start).map Prod.fst).getD t
          let s := s.newRecs u d 2 lan { obj := i } i
          let p := s.readObject d at_
          let o : DrawObj := match p with
            | .ok (clist, ncls) => { idx := i, lantern := lan, addr := at_, phase := d.firstPhase 2, clist, ncls }
            | .error _ => { idx := i, lantern := lan, addr := at_, phase := d.firstPhase 2, culled := true }
          let s := s.modDraw u (fun d => { d with objs := d.objs ++ [o] })
          some (match p with
            | .error c => s.drawReport d c at_
            | .ok _ => s)

/-- OBJECT_CREATE (R262; DEDUCED, log 60). -/
def execObjectCreate (u : Nat) (s : State) : Host.Outcome State Fault Refusal := .next ((s.tryObject u).getD s)

/-! ### Clusters (R261, R262, R274) -/

/-- The record of a cluster, or the cause that it is reported with. -/
def State.readCluster (s : State) (d : DrawUnit) (idx lan : Nat) (at_ : Word) : Except Nat Cluster :=
  match s.agentLoad d.ctx [0, 4] at_ 64 64 with
  | .error c => .error c
  | .ok b =>
    let iptr := BitVec.ofNat 64 (fieldAt b 8 8)
    let sp := spaceOf iptr
    let v := fieldAt b 0x10 1
    let t := fieldAt b 0x11 1
    if v = 0 || decide (64 < v) || decide (124 < t) || fieldAt b 0x14 12 != 0 || !(sp == 0 || sp == 1 || sp == 2 || sp == 4) then
      .error 0x01
    else
      .ok { idx, lantern := lan, addr := at_, phase := d.firstPhase 3, vptr := BitVec.ofNat 64 (fieldAt b 0 8), iptr, vcount := v
            tcount := t, vstride := fieldAt b 0x12 2 }

/-- The records of one cluster and of its vertices, reserved together. -/
def State.addCluster (s : State) (u : Nat) (d : DrawUnit) (o : DrawObj) (j : Nat) : State × Option Cluster :=
  let at_ := addrAdd o.clist (BitVec.ofNat 64 (64 * j))
  let p := s.readCluster d j o.lantern at_
  let n := match p with
    | .ok c => c.vcount
    | .error _ => 0
  match s.reserveLines d o.lantern 3 (d.obj.linesOf 3 + n * d.obj.linesOf 4) with
  | (t, false) => (t, none)
  | (t, true) =>
    let s := t.newRecs u d 3 o.lantern { obj := o.idx, cls := j } j
    let s := (List.range n).foldl (fun s v => s.newRecs u d 4 o.lantern { obj := o.idx, cls := j, vtx := v } v) s
    match p with
    | .ok c => (s, some c)
    | .error c =>
      (s.drawReport d c at_, some { idx := j, lantern := o.lantern, addr := at_, phase := d.firstPhase 3, culled := true })

/-- As many of the next clusters of an object as have room, up to `fuel`. -/
def State.addClusters (s : State) (u : Nat) (d : DrawUnit) (o : DrawObj) : Nat → Nat → State × List Cluster
  | 0, _ => (s, [])
  | fuel + 1, j =>
    if o.ncls ≤ j then (s, [])
    else
      match s.addCluster u d o j with
      | (t, none) => (t, [])
      | (t, some c) =>
        let q := t.addClusters u d o fuel (j + 1)
        (q.1, c :: q.2)

/-- The next clusters of an object are created as one wave, if they are due and have room. -/
def State.tryClusters (s : State) (u i : Nat) : Option State :=
  match (s.runningDraw? u).bind (fun d => (d.obj? i).map (fun o => (d, o))) with
  | none => none
  | some (d, o) =>
    if d.gone || o.phase != 2 || o.culled || decide (o.ncls ≤ o.clusters.length) || (s.groupPlace o.lantern d.obj 1).isNone then none
    else
      let p := s.addClusters u d o 32 o.clusters.length
      let start := p.2.map (fun c => ({ el := { obj := i, cls := c.idx }, elem := c.idx, eptr := c.addr } : Started))
      if p.2.isEmpty then s.stalled d p.1
      else
        match p.1.startGroup u d o.lantern 3 start with
        | none => none
        | some (s, g) => some (s.modObj u i (fun o => { o with clusters := o.clusters ++ p.2.map (fun c => { c with wg := g }) }))

/-- CLUSTER_CREATE (R262; DEDUCED, log 60). -/
def execClusterCreate (u obj : Nat) (s : State) : Host.Outcome State Fault Refusal := .next ((s.tryClusters u obj).getD s)

/-- A cluster of a draw. -/
def DrawUnit.find (d : DrawUnit) (i j : Nat) : Option Cluster := (d.obj? i).bind (fun o => o.cluster? j)

/-- The vertices of a cluster are created all at once. -/
def State.tryVertices (s : State) (u i j : Nat) : Option State :=
  match (s.runningDraw? u).bind (fun d => (d.find i j).map (fun c => (d, c))) with
  | none => none
  | some (d, c) =>
    if d.gone || c.phase != 2 || c.culled then none
    else
      let start := (List.range c.vcount).map (fun v =>
        ({ el := { obj := i, cls := j, vtx := v }, elem := v, eptr := addrAdd c.vptr (BitVec.ofNat 64 (v * c.vstride)) } : Started))
      match s.startGroup u d c.lantern 4 start with
      | none => none
      | some (s, _) =>
        some (s.modCluster u i j (fun c => { c with phase := 3, vtxLeft := if d.firstPhase 4 = 1 then c.vcount else 0 }))

/-- VERTEX_CREATE (R262). -/
def execVertexCreate (u obj cls : Nat) (s : State) : Host.Outcome State Fault Refusal := .next ((s.tryVertices u obj cls).getD s)

/-! ### Set-up (R264, R268) -/

/-- Every cluster before cluster j of object i, in key order, is in some condition; `next` is what a draw or object
needs to be complete in. -/
def DrawUnit.before (d : DrawUnit) (i j : Nat) (p : Nat → Cluster → Bool) : Bool :=
  d.objs.all (fun o => decide (i < o.idx) || o.clusters.all (fun c => (o.idx == i && decide (j ≤ c.idx)) || p o.idx c)) &&
  d.objs.all (fun o => decide (i ≤ o.idx) || o.clustersMade)

/-- The same over the earlier draws of the context. -/
def State.allBefore (s : State) (u : Nat) (d : DrawUnit) (i j : Nat) (p : DrawUnit → Nat → Cluster → Bool) : Bool :=
  d.before i j (p d) &&
  s.draws.all (fun e => e.2.ctx != d.ctx || e.2.gone || decide (u ≤ e.1) ||
    (decide (e.2.nobj ≤ e.2.objs.length) && e.2.objs.all (fun o => o.clustersMade && o.clusters.all (p e.2 o.idx))))

/-- The 3-byte index lists of a cluster, or the cause and address at which they cannot be read. -/
def State.readIndices (s : State) (d : DrawUnit) (c : Cluster) : Except (Nat × Word) (List Nat) :=
  let w := { agentWave d.ctx with wg := c.wg }
  (List.range (3 * c.tcount)).foldl (fun (a : Except (Nat × Word) (List Nat)) k =>
    match a with
    | .error e => .error e
    | .ok l =>
      let p := addrAdd c.iptr (BitVec.ofNat 64 k)
      match s.resolve w accLoad [0, 1, 2, 4] 1 1 p 0 with
      | .error f => .error (f.cause, p)
      | .ok loc =>
        if s.badLoc loc 1 then .error (0x16, p)
        else .ok (l ++ [leNat ((s.readLoc d.ctx loc 1 (freeAt 342 0 + k)).getD [])])) (.ok [])

/-- The triangles of a cluster that set-up keeps, in ascending index (DEDUCED, log 66). -/
def State.setTriangles (s : State) (u : Nat) (d : DrawUnit) (i : Nat) (c : Cluster) (ix : List Nat) : List Tri :=
  (List.range c.tcount).filterMap (fun t =>
    let ids := (ix.drop (3 * t)).take 3
    if ids.any (fun v => decide (c.vcount ≤ v)) then none
    else setTriangle d.cull t ids (ids.filterMap (fun v => s.setVertex u d i c.idx v)))

/-- The fragments of a triangle (DEDUCED, log 66). -/
def Tri.frags (t : Tri) (u : Nat) (d : DrawUnit) (i j : Nat) (l : List (Nat × Nat × Nat × Nat)) : List Frag :=
  l.map (fun x => { draw := u, seq := d.seq, obj := i, cls := j, tri := t.idx, px := x.2.1, py := x.1, smp := x.2.2.1
                    z := BitVec.ofNat 32 x.2.2.2 })

/-- The coarse elements of a triangle, by coarse row and column. -/
def Tri.coarseOf (t : Tri) (coarse : Nat) (l : List (Nat × Nat × Nat × Nat)) : List CoarsePx :=
  let c := 2 ^ coarse
  let cells := (l.map (fun x => (x.1 / c, x.2.1 / c))).eraseDups
  let rows := (sortNat (cells.map Prod.fst)).eraseDups
  rows.flatMap (fun y => (sortNat ((cells.filter (fun e => e.1 == y)).map Prod.snd)).map (fun x =>
    { tri := t.idx, cx := x, cy := y }))

/-- Set-up of a cluster whose vertices have all exited: its triangles, coarse elements and fragments. -/
def State.setUp (s : State) (u : Nat) (d : DrawUnit) (i : Nat) (c : Cluster) : State :=
  match s.readIndices d c with
  | .error e => (s.modCluster u i c.idx (fun c => { c with phase := 4 })).drawReport d e.1 e.2
  | .ok ix =>
    let tris := s.setTriangles u d i c ix
    let cov := tris.map (fun t => (t, t.samples d.width d.height d.spp))
    let coarse := if (d.obj.entry.getD 5 none).isSome then cov.flatMap (fun x => x.1.coarseOf d.coarse x.2) else []
    let frags := if (d.obj.entry.getD 6 none).isSome then cov.flatMap (fun x => x.1.frags u d i c.idx x.2) else []
    (s.modCluster u i c.idx (fun c => { c with phase := 4, tris, coarse })).modDraw u (fun d => { d with frags := d.frags ++ frags })

/-- The provoking vertex of a triangle. -/
def Cluster.provoking (c : Cluster) (t : Nat) : Nat := ((c.tris.find? (fun x => x.idx == t)).map (·.provoking)).getD 0

/-- The covering coarse element of a fragment has exited, or there is none. -/
def Cluster.coarseDone (d : DrawUnit) (c : Cluster) (f : Frag) : Bool :=
  c.coarse.all (fun x => x.st == 2 || !(x.tri == f.tri && x.cx == f.px / 2 ^ d.coarse && x.cy == f.py / 2 ^ d.coarse))

/-- The next sample threads of a cluster: those of one block, from its first fragment that has not started. -/
def DrawUnit.nextFrags (d : DrawUnit) (i : Nat) (c : Cluster) : List Frag :=
  let wait := (d.fragsOf i c.idx).filter (fun f => !f.started)
  match wait.head? with
  | none => []
  | some f => ((wait.filter (fun g => blockOf g.px g.py == blockOf f.px f.py)).takeWhile (Cluster.coarseDone d c)).take 32

/-- Starts a wave of sample threads. -/
def State.startFrags (s : State) (u : Nat) (d : DrawUnit) (i : Nat) (c : Cluster) (l : List Frag) : Option State :=
  match l.head? with
  | none => none
  | some f =>
    let lan := s.blockLantern d.ctx (blockOf f.px f.py)
    let start := l.map (fun g => ({
      el := { obj := i, cls := c.idx, vtx := c.provoking g.tri, tri := g.tri, cx := g.px / 2 ^ d.coarse, cy := g.py / 2 ^ d.coarse,
              px := g.px, py := g.py, smp := g.smp }
      elem := (g.py * d.width + g.px) * 2 ^ d.spp + g.smp } : Started))
    let wid := widOf d.ctx ((s.freeSlot d.ctx).getD 0)
    match s.startGroup u d lan 6 start with
    | none => none
    | some (s, _) =>
      some (s.modDraw u (fun d => { d with frags := d.frags.map (fun g =>
        match l.findIdx? (fun x => x == g) with
        | some lane => { g with started := true, wid, lane }
        | none => g) }))

/-- Coarse elements of the block of the first one that has not started, as many as have lines (R274: coarse records may
use the whole quota, and wait for lines). -/
def State.takeCoarse (s : State) (d : DrawUnit) (c : Cluster) : List CoarsePx :=
  let wait := c.coarse.filter (fun x => x.st == 0)
  match wait.head? with
  | none => []
  | some f =>
    let at_ := fun (x : CoarsePx) => blockOf (x.cx * 2 ^ d.coarse) (x.cy * 2 ^ d.coarse)
    let lan := s.blockLantern d.ctx (at_ f)
    let lines := d.obj.linesOf 5
    let room := s.quota d.ctx - s.linesUsed d.ctx lan
    let n := if lines = 0 then 32 else min 32 (room / lines)
    (wait.filter (fun x => at_ x == at_ f)).take n

/-- Starts a wave of coarse threads. -/
def State.startCoarsePx (s : State) (u : Nat) (d : DrawUnit) (i : Nat) (c : Cluster) (l : List CoarsePx) : Option State :=
  match l.head? with
  | none => none
  | some f =>
    let lan := s.blockLantern d.ctx (blockOf (f.cx * 2 ^ d.coarse) (f.cy * 2 ^ d.coarse))
    let width := (d.width + 2 ^ d.coarse - 1) / 2 ^ d.coarse
    let el := fun (x : CoarsePx) => ({ obj := i, cls := c.idx, vtx := c.provoking x.tri, tri := x.tri, cx := x.cx, cy := x.cy } : Elem)
    let num := fun (x : CoarsePx) => x.cy * width + x.cx
    match s.startGroup u d lan 5 (l.map (fun x => ({ el := el x, elem := num x } : Started))) with
    | none => none
    | some (s, _) =>
      let s := l.foldl (fun s x => s.newRecs u d 5 lan (el x) (num x)) s
      some (s.modCluster u i c.idx (fun c => { c with coarse := c.coarse.map (fun x => if l.contains x then { x with st := 1 } else x) }))

/-- The next thing that set-up of a cluster does: set its triangles up, start sample threads, or start coarse threads;
each in key order over the draws of the context (R278). -/
def State.trySetup (s : State) (u i j : Nat) : Option State :=
  match (s.runningDraw? u).bind (fun d => (d.find i j).map (fun c => (d, c))) with
  | none => none
  | some (d, c) =>
    if d.gone then none
    else if c.phase == 3 then
      if c.vtxLeft = 0 && s.allBefore u d i j (fun _ _ c => c.setUp) then some (s.setUp u d i c) else none
    else if c.phase == 4 then
      let frags := if s.allBefore u d i j (fun e k c => c.setUp && (e.fragsOf k c.idx).all (·.started)) then
        s.startFrags u d i c (d.nextFrags i c) else none
      match frags with
      | some s => some s
      | none =>
        if s.allBefore u d i j (fun _ _ c => c.setUp && c.coarse.all (fun x => x.st != 0)) then
          s.startCoarsePx u d i c (s.takeCoarse d c)
        else none
    else none

/-- TRIANGLE_SETUP (R264). -/
def execTriangleSetup (u obj cls : Nat) (s : State) : Host.Outcome State Fault Refusal := .next ((s.trySetup u obj cls).getD s)

/-! ### Cause 0x0B (R277) -/

/-- The first wave of a context's control workgroup that runs. -/
def State.controlWave (s : State) (ctx : Nat) : Option (Nat × Wave) :=
  match (s.ctx? ctx).bind (fun c => c.control) with
  | none => none
  | some u => s.waves.find? (fun e => e.2.ctx == ctx && e.2.live != 0 && ((s.launchOf e.2).map Prod.fst) == some u)

/-- sys.tinfo of cause 0x0B (R371). -/
def holdInfo (f : Nat × Nat × Nat) : Word := BitVec.ofNat 64 (f.1 % 16 + f.2.1 % 2 ^ 13 * 16 + f.2.2 % 8 * 2 ^ 17)

/-- HOLD_STORAGE_EXHAUSTED (R277): the trap of the control wave, once it is not in its handler (R374), or a fault-queue
record without one. -/
def execHoldStorageExhausted (ctx : Nat) (s : State) : Host.Outcome State Fault Refusal :=
  match (s.ctx? ctx).bind (fun (c : Ctx) => c.holdFault) with
  | none => .next s
  | some f =>
    let noted := s.modCtx ctx (fun c => { c with holdFault := none, holdStalled := true })
    match s.controlWave ctx with
    | none => .next (noted.faultRecord ctx { cause := 0x0B, flags := 0, pc := 0, info := holdInfo f })
    | some (wid, w) =>
      if w.frozen || w.trap.inHandler then .next s
      else
        let pc := ((lowest w.live).map (fun t => (w.thread t).pc)).getD 0
        let ws := s.instrWords w pc
        .next ((noted.takeTrap wid 0 (fun _ => pc)
          { cause := 0x0B, mask := (s.free (freeAt 343 0)).setWidth 32, pc, info := holdInfo f, w0 := ws.1, w1 := ws.2 }).useFree)

/-! ### INTERP (R270, R326) -/

/-- The triangle of a coarse or sample thread with its evaluation point. -/
def State.triOf (s : State) (w : Wave) (t : Nat) : Option (DrawUnit × Tri × Int × Int) :=
  let e := (w.thread t).el
  match s.draw? w.draw with
  | none => none
  | some d =>
    match (d.find e.obj e.cls).bind (fun c => c.tris.find? (fun x => x.idx == e.tri)) with
    | none => none
    | some tri =>
      let p := if w.rate == 5 then coarsePoint d.coarse e.cx e.cy else samplePoint d.spp e.px e.py e.smp
      some (d, tri, p.1, p.2)

/-- E_i × q_i of the three vertices. -/
def Tri.weights (t : Tri) (px py : Int) : List Q :=
  (List.range 3).map (fun k => (Q.ofInt (t.edgeAt k px py)).mul (fmtF32.value ((t.qs.getD k 0).toNat)).q)

/-- One sub-element of INTERP from the weights and the three values. -/
def interpVal (f : Fmt) (r : Rnd) (ws : List Q) (vals : List Nat) : Nat × FFlags :=
  let den := ws.foldl Q.add (Q.ofInt 0)
  let terms := (ws.zip vals).filterMap (fun x =>
    if x.1.isZero then none
    else
      let k := x.1.div den
      some (match f.read r.ftz x.2 with
        | .nan => .nan
        | .inf n => .inf (n != k.isNeg)
        | .fin n q => .fin (n != k.isNeg) (q.mul k)))
  let p := FVal.sum r.mode terms
  let y := f.write r p.1
  (y.1, y.2 ||| p.2)

/-- The vertices whose values a thread of INTERP takes: those of weight other than zero, or the provoking one. -/
def Tri.takes (t : Tri) (px py : Int) : List Nat :=
  let ws := t.weights px py
  if (ws.foldl Q.add (Q.ofInt 0)).isZero then [t.provoking] else ((t.v.zip ws).filter (fun x => !x.2.isZero)).map Prod.fst

/-- The lanes of INTERP that would consume a poisoned value (R373). -/
def State.interpPoison (s : State) (r : Run) (reg : Nat) : List (Nat × Word) :=
  (lanesOf r.ex).filterMap (fun t =>
    match s.triOf r.w t with
    | none => none
    | some (d, tri, px, py) =>
      let e := (r.w.thread t).el
      (tri.takes px py).findSome? (fun v =>
        let p := (s.vertexVal r.w.draw d e.obj e.cls v reg).2
        if p = 0 then none else some (t, p - 1)))

/-- INTERP (R326; DEDUCED, log 64); a NaN of the provoking vertex becomes the canonical one (R74). -/
def execInterp (o : OpA) (s : State) : Host.Outcome State Fault Refusal :=
  s.issue (.interp o) noWait (fun s r =>
    let reg := (groupAt o.sa 1).headD 0
    let bad := s.interpPoison r reg
    if bad != [] then s.poisonTrap r bad
    else
      s.commitRegs (.interp o) r ((lanesOf r.ex).map (fun t =>
        match s.triOf r.w t with
        | none => (t, [(o.d.toNat, 0)], 0)
        | some (d, tri, px, py) =>
          let e := (r.w.thread t).el
          let ws := tri.weights px py
          let vals := tri.v.map (fun v => (s.vertexVal r.w.draw d e.obj e.cls v reg).1)
          if (ws.foldl Q.add (Q.ofInt 0)).isZero then
            let v := (s.vertexVal r.w.draw d e.obj e.cls tri.provoking reg).1
            let f := fmtOfTy o.ty
            (t, [(o.d.toNat, (buildSubs o.ty.width o.ty.nsub (fun k => ((f.write rne (f.value (sub v k o.ty.width))).1, 0))).1)], 0)
          else
            let y := buildSubs o.ty.width o.ty.nsub (fun k =>
              interpVal (fmtOfTy o.ty) (rndOf o.mod) ws (vals.map (fun v => sub v k o.ty.width)))
            (t, [(o.d.toNat, y.1)], y.2))))

/-! ### ECULL and RSPAWN (R327, R328) -/

/-- ECULL (R327). -/
def execEcull (o : OpA) (s : State) : Host.Outcome State Fault Refusal :=
  s.issue (.ecull o) noWait (fun s r =>
    (s.modWave r.c.wid (fun w => (lanesOf r.ex).foldl (fun w t => w.modThread t (fun th => { th with culled := true })) w)).finish
      (.ecull o) r)

/-- RSPAWN (R328): a release at device scope. -/
def execRspawn (o : OpA) (s : State) : Host.Outcome State Fault Refusal :=
  s.issue (.rspawn o) rspawnWait (fun s r =>
    match s.draw? r.w.draw with
    | none => s.finish (.rspawn o) r
    | some d =>
      let ls := lanesOf r.ex
      if r.ex != 0 && (d.obj.entry.getD 7 none).isNone then s.precise r (r.trap 0x01 r.ex)
      else if decide (2 ^ 31 < d.rayCount + ls.length) then s.grantTrap r r.ex
      else
        let rays := ls.zipIdx.map (fun x => ({ lantern := r.w.core / 24, num := d.rayCount + x.2
                                               eptr := (s.srcVals r.w (.rspawn o) x.1).getD 0 0 } : Ray))
        let res := ls.zipIdx.map (fun x => (x.1, [(o.d.toNat, BitVec.ofNat 64 (d.rayCount + x.2))], (0 : FFlags)))
        let t := s
        let s := ((s.drainWave r.c.wid).releaseAs r.w 4).modDraw r.w.draw (fun d => { d with
          rays := d.rays ++ rays, rayCount := d.rayCount + ls.length })
        s.answerTagged (.rspawn o) r (t.laneVals (.rspawn o) r) res)

/-- The next rays of a draw on a lantern start as one wave, if a core has room. -/
def State.tryRays (s : State) (u lan : Nat) : Option State :=
  match s.runningDraw? u with
  | none => none
  | some d =>
    let l := (d.rays.filter (fun x => x.lantern == lan)).take 32
    if d.gone || l.isEmpty then none
    else
      match s.startGroup u d lan 7 (l.map (fun x => ({ el := { ray := x.num }, elem := x.num, eptr := x.eptr } : Started))) with
      | none => none
      | some (s, _) => some (s.modDraw u (fun d => { d with rays := d.rays.filter (fun x => !l.contains x) }))

/-- RAY_START (R328). -/
def execRayStart (u lantern : Nat) (s : State) : Host.Outcome State Fault Refusal := .next ((s.tryRays u lantern).getD s)

end Sys2Proof.Machine
end

