-- ==== Sys2Proof/Machine/Texture.lean ====
section
/-!
DEFINITION. TEX: descriptors, texels, wrapping and filtering (spec/15 R329-R331).
-/

namespace Sys2Proof.Machine

/-- One of the several loads of an instruction that reads structures in memory: a lane, an address, a place, a size. -/
structure Piece where
  lane : Nat
  ea   : Word
  loc  : Loc
  size : Nat
deriving DecidableEq, Repr

/-- The bytes that such a load reads (R331). -/
def State.pieceBytes (s : State) (i : Instr) (r : Run) (p : Piece) : List Byte :=
  (s.loadBytes r.w p.lane p.loc p.size (s.viewOf r.w i p.ea)).getD []

/-- Such loads are performed: what their core has seen (R171). -/
def State.piecesSeen (s : State) (i : Instr) (r : Run) (l : List Piece) : State :=
  l.foldl (fun s p => s.afterLoad r.w p.lane p.loc p.size (s.viewOf r.w i p.ea)) s

/-- The lanes whose loads meet uncorrectable data. -/
def State.badPieces (s : State) (l : List Piece) : Lanes := maskOf ((l.filter (fun p => s.badLoc p.loc p.size)).map (·.lane))

/-- A texture descriptor (R329). -/
structure TexDesc where
  base   : Word
  tw     : Nat
  th     : Nat
  levels : Nat
  fmt    : Nat
deriving DecidableEq, Repr

/-- The descriptor of 32 bytes, or none for a field outside its values. -/
def texDesc (b : List Byte) : Option TexDesc :=
  let d : TexDesc :=
    { base := BitVec.ofNat 64 (fieldAt b 0 8), tw := fieldAt b 8 2, th := fieldAt b 10 2, levels := fieldAt b 12 1, fmt := fieldAt b 13 1 }
  let size := fun (n : Nat) => decide (1 ≤ n) && decide (n ≤ 16384)
  if (spaceOf d.base == 0 || spaceOf d.base == 4) && d.base.toNat % 64 == 0 && size d.tw && size d.th && decide (1 ≤ d.levels) &&
    decide (d.levels ≤ 15) && decide (d.fmt ≤ 2) && fieldAt b 14 18 == 0 then some d
  else none

def TexDesc.texel (d : TexDesc) : Nat := if d.fmt = 1 then 8 else 4
def TexDesc.width (d : TexDesc) (k : Nat) : Nat := max 1 (d.tw / 2 ^ k)
def TexDesc.height (d : TexDesc) (k : Nat) : Nat := max 1 (d.th / 2 ^ k)

/-- Offset of level k: each level begins at the next multiple of 64. -/
def TexDesc.levelAt (d : TexDesc) (k : Nat) : Nat :=
  (List.range k).foldl (fun o j => o + (d.width j * d.height j * d.texel + 63) / 64 * 64) 0

/-- Address of texel (i, j) of level k. -/
def TexDesc.addr (d : TexDesc) (k i j : Nat) : Word :=
  addrAdd d.base (BitVec.ofNat 64 (d.levelAt k + (j * d.width k + i) * d.texel))

/-- Channels of a texel. -/
def TexDesc.channels (d : TexDesc) (b : List Byte) : List FVal :=
  let n := leNat b
  if d.fmt = 0 then (List.range 4).map (fun k => .fin false { num := (n / 256 ^ k % 256 : Nat), den := 255 })
  else if d.fmt = 1 then (List.range 4).map (fun k => fmtF16.value (n / 65536 ^ k % 65536))
  else [fmtF32.value n, .fin false (Q.ofInt 0), .fin false (Q.ofInt 0), .fin false (Q.ofInt 1)]

/-- An index wrapped along an axis (R331). -/
def wrapIndex (mode w : Nat) (i : Int) : Nat :=
  if mode = 0 then (i % w).toNat
  else if mode = 1 then (min (max i 0) (w - 1)).toNat
  else
    let m := (i % (2 * w)).toNat
    if m < w then m else 2 * w - 1 - m

/-- frac8. -/
def frac8 (x : Q) : Q := { num := ((x.sub (Q.ofInt x.floor)).mul (Q.ofInt 256)).round 0, den := 256 }

/-- ⌊x⌋ with its fraction in steps of 1/256, a fraction of one carried into the index. -/
def carry8 (x : Q) : Int × Q :=
  let a := frac8 x
  if a.eq (Q.ofInt 1) then (x.floor + 1, Q.ofInt 0) else (x.floor, a)

/-- A weighted texel: weight, level, column, row. -/
abbrev Texel := Q × Nat × Nat × Nat

/-- The filters: weighted texels of a sample at (u, v) on level k. -/
def TexDesc.point (d : TexDesc) (wu wv : Nat) (u v : Q) (k : Nat) : List Texel :=
  let i := (u.mul (Q.ofInt (d.width k))).floor
  let j := (v.mul (Q.ofInt (d.height k))).floor
  [(Q.ofInt 1, k, wrapIndex wu (d.width k) i, wrapIndex wv (d.height k) j)]

def TexDesc.bilin (d : TexDesc) (wu wv : Nat) (u v : Q) (k : Nat) : List Texel :=
  let half : Q := { num := 1, den := 2 }
  let x := carry8 ((u.mul (Q.ofInt (d.width k))).sub half)
  let y := carry8 ((v.mul (Q.ofInt (d.height k))).sub half)
  let one := Q.ofInt 1
  let at_ := fun (w : Q) (i j : Int) => ((w, k, wrapIndex wu (d.width k) i, wrapIndex wv (d.height k) j) : Texel)
  [at_ ((one.sub x.2).mul (one.sub y.2)) x.1 y.1, at_ (x.2.mul (one.sub y.2)) (x.1 + 1) y.1,
   at_ ((one.sub x.2).mul y.2) x.1 (y.1 + 1), at_ (x.2.mul y.2) (x.1 + 1) (y.1 + 1)]

/-- Scales the weights of texels. -/
def scaleTexels (g : Q) (l : List Texel) : List Texel := l.map (fun t => (g.mul t.1, t.2))

/-- The texels of a sample, those of weight zero left out (R331; DEDUCED, log 67). -/
def TexDesc.texels (d : TexDesc) (filt wu wv : Nat) (u v lod : Q) : List Texel :=
  let top := Q.ofInt (d.levels - 1)
  let l := (lod.max (Q.ofInt 0)).min top
  let near := (l.add { num := 1, den := 2 }).floor.toNat
  let all :=
    if filt = 0 then d.point wu wv u v near
    else if filt = 1 then d.bilin wu wv u v near
    else
      let k := carry8 l
      scaleTexels ((Q.ofInt 1).sub k.2) (d.bilin wu wv u v k.1.toNat) ++
        scaleTexels k.2 (d.bilin wu wv u v (min (k.1.toNat + 1) (d.levels - 1)))
  all.filter (fun t => !t.1.isZero)

/-- A coordinate: a NaN or an infinity reads as 0 and sets INVALID. -/
def texCoord (slot : Nat) : Q × FFlags :=
  match fmtF32.value slot with
  | .fin _ q => (q, 0)
  | _ => (Q.ofInt 0, fInvalid)

/-- One channel from its weighted values, rounded once (DEDUCED, log 67). -/
def texChannel (f : Fmt) (ch : Nat) (l : List (Q × List FVal)) : Nat × FFlags :=
  let p := FVal.sum 0 (l.map (fun x =>
    match x.2.getD ch .nan with
    | .fin n q => .fin n (q.mul x.1)
    | v => v))
  let y := f.write rne p.1
  (y.1, y.2 ||| p.2)

/-- The registers of four channels: f32x2 in a pair, or f16x4. -/
def texResult (ty : Ty) (d : Nat) (l : List (Q × List FVal)) : List (Nat × Word) × FFlags :=
  let c := (List.range 4).map (fun ch => texChannel (fmtOfTy ty) ch l)
  let at_ := fun (k : Nat) => (c.getD k (0, 0)).1
  let fl := c.foldl (fun a x => a ||| x.2) 0
  if ty == .f16x4 then ([(d, BitVec.ofNat 64 (packSubs 16 [at_ 0, at_ 1, at_ 2, at_ 3]))], fl)
  else ([(d, BitVec.ofNat 64 (packSubs 32 [at_ 0, at_ 1])), (d + 1, BitVec.ofNat 64 (packSubs 32 [at_ 2, at_ 3]))], fl)

/-- Zero in every channel. -/
def texZero (ty : Ty) (d : Nat) : List (Nat × Word) := if ty == .f16x4 then [(d, 0)] else [(d, 0), (d + 1, 0)]

/-- One lane's sample: its descriptor, its texels and the flags of its coordinates. -/
structure TexLane where
  lane   : Nat
  desc   : Option TexDesc
  texels : List Texel
  flags  : FFlags
deriving DecidableEq, Repr

def texLane (o : OpX) (v : List Word) (lane : Nat) (b : List Byte) : TexLane :=
  let u := texCoord (sub (v.getD 0 0) 0 32)
  let w := texCoord (sub (v.getD 0 0) 1 32)
  let l := texCoord (sub (v.getD 1 0) 0 32)
  let desc := texDesc b
  { lane, desc
    texels := match desc with
      | none => []
      | some d => d.texels (field o.w1 63 62) (field o.w1 61 60) (field o.w1 59 58) u.1 w.1 l.1
    flags := u.2 ||| w.2 ||| l.2 ||| (if desc.isNone then fInvalid else 0) }

/-- The texels that a sample loads, with their lanes. -/
def TexLane.loads (x : TexLane) : List (Nat × Word × TexDesc × Q) :=
  match x.desc with
  | none => []
  | some d => x.texels.map (fun t => (x.lane, d.addr t.2.1 t.2.2.1 t.2.2.2, d, t.1))

/-- TEX (R331): relaxed loads of the descriptor and of the texels, with precise faults. -/
def execTex (o : OpX) (s : State) : Host.Outcome State Fault Refusal :=
  s.issue (.tex o) noWait (fun s r =>
    let ea := s.addrs (.tex o) r (fun v => v.getD 2 0)
    s.checked r accLoad [0, 1, 2, 4] 32 32 ea (fun s locs =>
      let descs := locs.map (fun l => ({ lane := l.1, ea := (aget? ea l.1).getD 0, loc := l.2, size := 32 } : Piece))
      let lanes := descs.map (fun p => texLane o (s.srcVals r.w (.tex o) p.lane) p.lane (s.pieceBytes (.tex o) r p))
      let loads := lanes.flatMap TexLane.loads
      -- texels of a descriptor all have one size; a fault of any of them is precise
      let p := s.resolveAll r.w accLoad [0, 4] 4 4 (loads.map (fun x => (x.1, x.2.1)))
      match s.raise r accLoad.kind p.1 with
      | some s' => s'
      | none =>
        let s := s.touch r.w.ctx (loads.map (·.2.1))
        let texels := (loads.zip p.2).map (fun x =>
          ((x.1.2.2.2, x.1.2.2.1), ({ lane := x.1.1, ea := x.1.2.1, loc := x.2.2, size := x.1.2.2.1.texel } : Piece)))
        let read := texels.map (fun x => (x.2.lane, x.1.1, x.1.2.channels (s.pieceBytes (.tex o) r x.2)))
        let res := lanes.map (fun x =>
          if x.desc.isNone then (x.lane, texZero o.a.ty o.a.d.toNat, x.flags)
          else
            let y := texResult o.a.ty o.a.d.toNat ((read.filter (fun z => z.1 == x.lane)).map (·.2))
            (x.lane, y.1, x.flags ||| y.2))
        let all := descs ++ texels.map Prod.snd
        (s.piecesSeen (.tex o) r all).answerLater (.tex o) r 7 ea (s.badPieces all) res))

end Sys2Proof.Machine
end

