-- ==== Sys2Proof/Machine/Ray.lean ====
section
/-!
DEFINITION. BOXT and TRIT (spec/15 R332-R334).
-/

namespace Sys2Proof.Machine

/-- A ray: origin, direction, and its interval. -/
structure RayVals where
  o    : List FVal
  d    : List FVal
  tmin : FVal
  tmax : FVal
deriving DecidableEq, Repr

/-- The ray of a group of four registers (R332). -/
def rayOf (g : List Word) : RayVals :=
  let f := fun (r k : Nat) => fmtF32.value (sub (g.getD r 0) k 32)
  { o := [f 0 0, f 0 1, f 1 0], d := [f 2 0, f 2 1, f 3 0], tmin := f 1 1, tmax := f 3 1 }

def FVal.maxNum (a b : FVal) : FVal := if a.ltNum b then b else a
def FVal.minNum (a b : FVal) : FVal := if b.ltNum a then b else a

/-- The f32 value that a value rounds to in a mode. -/
def roundTo (mode : Nat) (v : FVal) : FVal := fmtF32.value (fmtF32.write { mode, sat := false, ftz := false } v).1

/-- Reads n words of four bytes of each lane as relaxed loads, each lane from its own address, and goes on with each
lane's values and the lanes whose data is uncorrectable. -/
def State.loadFloats (s : State) (i : Instr) (r : Run) (align n : Nat) (l : List (Nat × Word))
    (body : State → List (Nat × List Nat) → Lanes → State) : State :=
  let p := s.resolveAll r.w accLoad [0, 1, 2, 4] (4 * n) align l
  let words := l.flatMap (fun x => (List.range n).map (fun k => (x.1, addrAdd x.2 (BitVec.ofNat 64 (4 * k)))))
  let q := s.resolveAll r.w accLoad [0, 1, 2, 4] 4 4 words
  match s.raise r accLoad.kind (p.1 ++ q.1) with
  | some s' => s'
  | none =>
    let s := s.touch r.w.ctx (words.map Prod.snd)
    let loads := (words.zip q.2).map (fun x => ({ lane := x.1.1, ea := x.1.2, loc := x.2.2, size := 4 } : Piece))
    let vals := loads.map (fun p => (p.lane, leNat (s.pieceBytes i r p)))
    body (s.piecesSeen i r loads) (l.map (fun x => (x.1, (vals.filter (fun v => v.1 == x.1)).map Prod.snd))) (s.badPieces loads)

/-! ### BOXT (R333) -/

/-- A quotient where it enters min, or max: of two infinities it narrows nothing. -/
def boxQuot (forMin : Bool) (a d : FVal) : FVal :=
  match a, d with
  | .fin _ p, .fin _ q => .ofQ (p.div q)
  | .inf n, .fin _ q => .inf (n != q.isNeg)
  | .fin _ _, .inf _ => .fin false (Q.ofInt 0)
  | .inf _, .inf _ => .inf forMin
  | _, _ => .nan

/-- bound - origin, the origin finite. -/
def boxDiff (b o : FVal) : FVal :=
  match b, o with
  | .fin _ p, .fin _ q => .ofQ (p.sub q)
  | v, _ => v

/-- One axis: none for a miss, or the narrowed interval. -/
def boxAxis (lo hi o d : FVal) (iv : FVal × FVal) : Option (FVal × FVal) :=
  if d.isZero then if lo.leNum o && o.leNum hi then some iv else none
  else
    let a := boxDiff lo o
    let b := boxDiff hi o
    let near := (boxQuot true a d).minNum (boxQuot true b d)
    let far := (boxQuot false a d).maxNum (boxQuot false b d)
    some (iv.1.maxNum (roundTo 3 near), iv.2.minNum (roundTo 2 far))

/-- One child: its distance when it is hit. -/
def boxChild (r : RayVals) (b : List FVal) : Option FVal :=
  let all := b ++ r.o ++ r.d ++ [r.tmin, r.tmax]
  if all.any FVal.isNan || r.o.any FVal.isInf || (List.range 3).any (fun a => (vAt b (3 + a)).ltNum (vAt b a)) then none
  else
    match (List.range 3).foldl (fun (iv : Option (FVal × FVal)) a =>
        match iv with
        | none => none
        | some iv => boxAxis (vAt b a) (vAt b (3 + a)) (vAt r.o a) (vAt r.d a) iv) (some (r.tmin, r.tmax)) with
    | none => none
    | some (near, far) => if near.leNum far then some near else none

/-- Inserts a child by ascending distance, after equal ones. -/
def insertHit (x : Nat × FVal) : List (Nat × FVal) → List (Nat × FVal)
  | [] => [x]
  | y :: l => if x.2.ltNum y.2 then x :: y :: l else y :: insertHit x l

/-- The result word of BOXT. -/
def boxResult (r : RayVals) (node : List Nat) : Word :=
  let vals := node.map fmtF32.value
  let hits := (List.range 4).filterMap (fun c => (boxChild r ((vals.drop (6 * c)).take 6)).map (fun d => (c, d)))
  let sorted := (hits.foldl (fun l x => insertHit x l) []).map Prod.fst
  let order := sorted ++ (List.range 4).filter (fun c => !sorted.contains c)
  BitVec.ofNat 64 (packSubs 1 ((List.range 4).map (fun c => if sorted.contains c then 1 else 0)) + 16 * packSubs 2 order +
    2 ^ 12 * sorted.length)

/-- BOXT (R333). -/
def execBoxt (o : OpA) (s : State) : Host.Outcome State Fault Refusal :=
  s.issue (.boxt o) noWait (fun s r =>
    let ea := s.addrs (.boxt o) r (fun v => v.getD 0 0)
    s.loadFloats (.boxt o) r 128 24 ea (fun s vals bad =>
      s.answerLater (.boxt o) r 7 ea bad (vals.map (fun x =>
        (x.1, [(o.d.toNat, boxResult (rayOf (s.groupVals r.w (.boxt o) x.1 (groupAt o.sa 4))) x.2)], 0)))))

/-! ### TRIT (R334) -/

/-- An f32 rounding of an exact value that notes its overflow. -/
def rnd32 (q : Q) : Q × Bool :=
  let y := fmtF32.write rne (FVal.ofQ q)
  ((fmtF32.value y.1).q, y.2 &&& fOverflow != 0)

def qAt (l : List Q) (k : Nat) : Q := l.getD k (Q.ofInt 0)

/-- The axis of the largest magnitude, the lowest on a tie. -/
def bigAxis (d : List Q) : Nat :=
  (List.range 3).foldl (fun b a => if (qAt d b).abs.lt (qAt d a).abs then a else b) 0

/-- A hit: t, u, v as f32 patterns. -/
structure TriHit where
  t : Nat
  u : Nat
  v : Nat
deriving DecidableEq, Repr

/-- trit of R334 on finite inputs. -/
def tritFinite (cull : Nat) (o d : List Q) (tmin tmax : Q) (v : List (List Q)) : Option TriHit :=
  if d.all Q.isZero then none
  else
    let kz := bigAxis d
    let kx := (kz + 1) % 3
    let ky := (kz + 2) % 3
    let (kx, ky) := if (qAt d kz).isNeg then (ky, kx) else (kx, ky)
    let sx := rnd32 ((qAt d kx).div (qAt d kz))
    let sy := rnd32 ((qAt d ky).div (qAt d kz))
    let sz := rnd32 ((Q.ofInt 1).div (qAt d kz))
    let pts := v.map (fun p =>
      let a := (List.range 3).map (fun k => rnd32 ((qAt p k).sub (qAt o k)))
      let at_ := fun (k : Nat) => (a.getD k (Q.ofInt 0, false)).1
      let x := rnd32 ((at_ kx).sub (sx.1.mul (at_ kz)))
      let y := rnd32 ((at_ ky).sub (sy.1.mul (at_ kz)))
      let z := rnd32 (sz.1.mul (at_ kz))
      ([x.1, y.1, z.1], a.any (·.2) || x.2 || y.2 || z.2))
    let c := fun (i k : Nat) => qAt ((pts.getD i ([], false)).1) k
    let cross := fun (i j : Nat) => ((c i 0).mul (c j 1)).sub ((c i 1).mul (c j 0))
    let uu := cross 2 1
    let vv := cross 0 2
    let ww := cross 1 0
    let all := [uu, vv, ww]
    let det := (uu.add vv).add ww
    if (all.any Q.isNeg && all.any (fun q => !q.isNeg && !q.isZero)) || det.isZero || (cull == 1 && det.isNeg) ||
        (cull == 2 && !det.isNeg) then none
    else
      let at_ := (((uu.mul (c 0 2)).add (vv.mul (c 1 2))).add (ww.mul (c 2 2))).div det
      let t := rnd32 at_
      let big := sx.2 || sy.2 || sz.2 || pts.any (·.2) || t.2
      if big || !(tmin.le t.1 && t.1.le tmax) then none
      else
        let pat := fun (q : Q) => (fmtF32.write rne (FVal.ofQ q)).1
        some { t := pat at_, u := pat (vv.div det), v := pat (ww.div det) }

/-- trit of R334 (DEDUCED, log 67). -/
def trit (cull : Nat) (r : RayVals) (node : List Nat) : Option TriHit :=
  let vals := node.map fmtF32.value
  let all := vals ++ r.o ++ r.d ++ [r.tmin, r.tmax]
  if all.any (fun x => !x.isFin) then none
  else tritFinite cull (r.o.map FVal.q) (r.d.map FVal.q) r.tmin.q r.tmax.q
    ((List.range 3).map (fun i => ((vals.drop (3 * i)).take 3).map FVal.q))

/-- TRIT (R334). -/
def execTrit (o : OpX) (s : State) : Host.Outcome State Fault Refusal :=
  s.issue (.trit o) noWait (fun s r =>
    let ea := s.addrs (.trit o) r (fun v => v.getD 0 0)
    s.loadFloats (.trit o) r 16 9 ea (fun s vals bad =>
      s.answerLater (.trit o) r 7 ea bad (vals.map (fun x =>
        let d := o.a.d.toNat
        match trit (field o.w1 63 62) (rayOf (s.groupVals r.w (.trit o) x.1 (groupAt o.a.sa 4))) x.2 with
        | some h => (x.1, [(d, BitVec.ofNat 64 (packSubs 32 [h.t, h.u])), (d + 1, BitVec.ofNat 64 (packSubs 32 [h.v, 1]))], 0)
        | none => (x.1, [(d, BitVec.ofNat 64 0x7F800000), (d + 1, 0)], 0)))))

end Sys2Proof.Machine
end

