-- ==== Sys2Proof/Machine/Pixel.lean ====
section
/-!
DEFINITION. Turns, pixel locks, depth and blend: PIXLK, PIXUL, PXOUT and FRAGMENT_TURN_BEGIN (spec/13 R279-R282,
spec/15 R335, R336).
-/

namespace Sys2Proof.Machine

/-! ### Turns (R279) -/

/-- Changes the fragments of some threads of a wave. -/
def State.modFrags (s : State) (w : Wave) (wid : Nat) (lanes : Lanes) (f : Frag → Frag) : State :=
  s.modDraw w.draw (fun d => { d with frags := d.frags.map (fun g => if g.started && g.wid == wid && lanes.getLsbD g.lane then f g else g) })

/-- A fragment's place within its pixel's draw. -/
def Frag.key (f : Frag) : List Nat := [f.obj, f.cls, f.tri, f.smp]

/-- A fragment has ended its turn, and its target writes have been sent (R280, R336). -/
def State.turnOver (s : State) (f : Frag) : Bool :=
  f.turn == 2 && !((s.wave? f.wid).map (fun w =>
    w.mitten.any (fun e => e.inFifo && (e.ins matches .pxout _) && e.exec.getLsbD f.lane))).getD false

/-- Every fragment of the pixel with a lower key has ended its turn (DEDUCED, log 65). -/
def State.turnCame (s : State) (u : Nat) (d : DrawUnit) (f : Frag) : Bool :=
  s.draws.all (fun e => e.2.ctx != d.ctx || decide (u < e.1) || e.2.frags.all (fun g =>
    !(g.px == f.px && g.py == f.py) || !(decide (e.1 < u) || lexLt g.key f.key) || s.turnOver g))

/-- FRAGMENT_TURN_BEGIN (R279). -/
def execFragmentTurnBegin (wid lane : Nat) (s : State) : Host.Outcome State Fault Refusal :=
  match s.wave? wid with
  | none => .next s
  | some w =>
    match s.draw? w.draw, s.fragOf w wid lane with
    | some d, some f =>
      if f.turn == 0 && s.turnCame w.draw d f then .next (s.modFrags w wid (1#32 <<< lane) (fun g => { g with turn := 1 }))
      else .next s
    | _, _ => .next s

/-- Executing threads whose fragment is in some condition. -/
def State.fragLanes (s : State) (r : Run) (p : Option Frag → Bool) : Lanes :=
  maskOf ((lanesOf r.ex).filter (fun t => p (s.fragOf r.w r.c.wid t)))

/-- The issue without the threads that wait for their turns (DEDUCED, log 65). -/
def Run.without (r : Run) (wait : Lanes) : Run := { r with ex := r.ex &&& ~~~wait, c := { r.c with lanes := r.c.lanes &&& ~~~wait } }

/-- PIXLK (R335). -/
def execPixlk (o : OpA) (s : State) : Host.Outcome State Fault Refusal :=
  s.issue (.pixlk o) turnWait (fun s r =>
    let bad := s.fragLanes r (fun f => (f.map (fun f => f.lock || f.turn == 2)).getD true)
    if bad != 0 then s.precise r (r.trap 0x01 bad)
    else
      let q := r.without (s.turnless r)
      (s.modFrags r.w r.c.wid q.ex (fun f => { f with lock := true })).finish (.pixlk o) q)

/-- PIXUL (R335): a release at gang scope that ends the turn. -/
def execPixul (o : OpA) (s : State) : Host.Outcome State Fault Refusal :=
  s.issue (.pixul o) noWait (fun s r =>
    let bad := s.fragLanes r (fun f => (f.map (fun f => !f.lock)).getD true)
    if bad != 0 then s.precise r (r.trap 0x01 bad)
    else (((s.drainWave r.c.wid).releaseAs r.w 3).modFrags r.w r.c.wid r.ex (fun f => { f with lock := false, turn := 2 })).finish (.pixul o) r)

/-! ### PXOUT (R336) -/

/-- The accesses to the depth target, which an entry keeps under its lane plus 32. -/
def depthKeys {α : Type} (l : List (Nat × α)) : List (Nat × α) := l.map (fun x => (x.1 + 32, x.2))

/-- PXOUT (R336): the checks of a store, and an entry of class S whose lanes blend when it is sent; without the lock the
turn ends. -/
def execPxout (o : OpA) (s : State) : Host.Outcome State Fault Refusal :=
  s.issue (.pxout o) turnWait (fun s r =>
    let late := s.fragLanes r (fun f => (f.map (fun f => f.turn == 2)).getD true)
    let q := r.without (s.turnless r)
    match s.draw? r.w.draw with
    | none => s.finish (.pxout o) r
    | some d =>
      if late != 0 then s.precise r (r.trap 0x01 late)
      else
        let fs := (lanesOf q.ex).filterMap (fun t => (s.fragOf r.w r.c.wid t).map (fun f => (t, f)))
        let n := colourBytes d.cfmt
        let colours := fs.map (fun x => (x.1, d.colourAt x.2))
        let depths := if d.depth = 0 then [] else fs.map (fun x => (x.1, d.depthAt x.2))
        let cs := s.resolveAll r.w accStore [0, 4] n n colours
        let ds := s.resolveAll r.w accStore [0, 4] 4 4 depths
        match s.raise r accStore.kind (fs.flatMap (fun x => (cs.1 ++ ds.1).filter (fun y => y.1 == x.1))) with
        | some s' => s'
        | none =>
          let s := s.touch r.w.ctx ((colours ++ depths).map Prod.snd)
          let e : Entry :=
            { q.entry (.pxout o) .s 1 with
              addr := (colours.head?.map Prod.snd).getD 0, loc := cs.2 ++ depthKeys ds.2, ea := colours ++ depthKeys depths
              vals := fs.map (fun x =>
                (x.1, s.groupVals r.w (.pxout o) x.1 (groupAt o.sa 2) ++ [x.2.z.setWidth 64])) }
          (s.modFrags r.w r.c.wid q.ex (fun f => if f.lock then f else { f with turn := 2 })).finishEntry (.pxout o) q e)

end Sys2Proof.Machine
end

