-- ==== Sys2Proof/Machine/System.lean ====
section
/-!
DEFINITION. System registers (spec/18 R363, R364, spec/13 R273, spec/19 R370-R377), TLBI (R352) and PRIO (R365, R245).
-/

namespace Sys2Proof.Machine

/-! ### SYSR -/

/-- sys.gang, sys.wg and sys.stage of a wave (R14, R291). -/
def State.gangOf (s : State) (w : Wave) : Nat :=
  if w.kind == .draw || w.kind == .task then 0
  else (((s.wg? w.wg).bind (fun g => s.gang? g.gang)).map (·.idx)).getD 0
def State.wgOf (s : State) (w : Wave) : Nat :=
  if w.kind == .draw || w.kind == .task then 0 else ((s.wg? w.wg).map s.wgIndex).getD 0
def State.stageOf (s : State) (w : Wave) : Nat :=
  if w.kind == .draw then w.rate else if w.kind == .task then 0 else ((s.wg? w.wg).map (·.stage)).getD 0

/-- sys.ctx (R364). -/
def State.ctxWord (s : State) (ctx : Nat) : Word :=
  let c : Option Ctx := s.ctx? ctx
  BitVec.ofNat 64 (ctx % 64 + (c.map (·.part)).getD 0 % 4 * 256 + (if ctx == 0 || (c.map (·.priv)).getD false then 2 ^ 16 else 0))

/-- A trap register (R370). -/
def trapReg (w : Wave) (th : Thread) (n : Nat) : Word :=
  match n with
  | 0x080 => w.trap.tcause
  | 0x081 => w.trap.tmask
  | 0x082 => w.trap.tpc
  | 0x083 => w.trap.taddr
  | 0x084 => w.trap.tinfo
  | 0x085 => w.trap.tfrom
  | 0x086 => w.trap.tword0
  | 0x087 => w.trap.tword1
  | 0x088 => th.tepc
  | 0x089 => th.tcond
  | 0x08A => if w.trap.inHandler then 1 else 0
  | 0x08B => th.tscratch0
  | 0x08C => th.tscratch1
  | 0x08D => th.tscratch2
  | 0x08E => th.tscratch3
  | n => w.trap.trec.getD (n - 0x0C0) 0

/-- A register of the context. -/
def ctxReg (c : Ctx) (n : Nat) : Word :=
  match n with
  | 0x048 => c.holdquota
  | 0x049 => c.spillbase
  | 0x04A => c.spillsize
  | 0x051 => c.ctxctl
  | 0x058 => c.ptroot
  | 0x090 => c.fqbase
  | 0x091 => c.fqctl
  | 0x092 => c.fqhead
  | 0x093 => c.fqtail
  | _ => c.fqlost

/-- The value of system register n for thread t (R14, R363, R364; DEDUCED, log 70). -/
def State.sysReg (s : State) (w : Wave) (t n : Nat) : Word :=
  let th := w.thread t
  let o := s.obj w
  if n = 0x000 then BitVec.ofNat 64 t
  else if n = 0x001 then tidOf w t
  else if n = 0x002 then BitVec.ofNat 64 w.idx
  else if n = 0x003 then BitVec.ofNat 64 (s.wgOf w)
  else if n = 0x004 then BitVec.ofNat 64 (s.gangOf w)
  else if n = 0x005 then BitVec.ofNat 64 (s.stageOf w)
  else if n = 0x006 then th.elem
  else if n = 0x007 then th.eptr
  else if n = 0x008 then BitVec.ofNat 64 (if o.det then o.ncore else 384)
  else if n = 0x009 then BitVec.ofNat 64 o.ftablen
  else if n = 0x010 then BitVec.ofNat 64 (if o.det then w.retired else s.dev.clk)
  else if n = 0x011 then BitVec.ofNat 64 s.dev.ptp
  else if n = 0x012 then BitVec.ofNat 64 (((s.parts[s.partOfCtx w.ctx]?).map (·.forecast)).getD 0)
  else if n = 0x018 then w.fflags
  else if n = 0x019 then th.lsp
  else if 0x020 ≤ n ∧ n ≤ 0x02F then
    let f := o.split.getD (n - 0x020) 0
    BitVec.ofNat 64 (if f = 0 then 1 else f)
  else if n = 0x040 then w.trapbase
  else if n = 0x050 then s.ctxWord w.ctx
  else if n = 0x060 then BitVec.ofNat 64 s.dev.lcstate
  else if (0x080 ≤ n ∧ n ≤ 0x08E) ∨ 0x0C0 ≤ n then trapReg w th n
  else ((s.ctx? w.ctx).map (fun c => ctxReg c n)).getD 0

/-- SYSR (R363). sys.ptroot is closed to other than privileged waves. -/
def execSysr (o : OpI) (s : State) : Host.Outcome State Fault Refusal :=
  s.issue (.sysr o) (sysrWait o) (fun s r =>
    let n := o.imm.toNat
    let w := if n == 0x018 then r.w.landFlags (fun x => decide (x.1 ≤ s.dev.clk)) else r.w
    if n == 0x058 && !s.isPriv r.w && r.ex != 0 then s.precise r (r.trap 0x02 r.ex)
    else s.commitRegs (.sysr o) r ((lanesOf r.ex).map (fun t => (t, [(o.d.toNat, s.sysReg w t n)], 0))))

/-! ### SYSW -/

/-- Who may write a system register (R364, R370). -/
inductive Writers where
  | nobody | any | priv | ctl
deriving DecidableEq, Repr

def writers (n : Nat) : Writers :=
  if n = 0x018 ∨ n = 0x019 ∨ n = 0x088 ∨ n = 0x089 ∨ (0x08B ≤ n ∧ n ≤ 0x08E) ∨ n = 0x093 then .any
  else if n = 0x040 ∨ n = 0x048 ∨ n = 0x051 ∨ n = 0x058 then .priv
  else if n = 0x049 ∨ n = 0x04A ∨ n = 0x090 ∨ n = 0x091 then .ctl
  else .nobody

def State.mayWrite (s : State) (w : Wave) (n : Nat) : Bool :=
  match writers n with
  | .any => true
  | .priv => s.isPriv w
  | .ctl => s.isControl w
  | .nobody => false

/-- The frame of every SYSW: the privilege of its register, an issue without executing threads, and its values: SA of the
lowest executing thread (DEDUCED, log 70). -/
def State.writeSys (s : State) (i : Instr) (o : OpI) (body : State → Run → Word → State) : Host.Outcome State Fault Refusal :=
  s.issue i (syswWait o) (fun s r =>
    if r.ex = 0 then s.finish i r
    else if !s.mayWrite r.w o.imm.toNat then s.precise r (r.trap 0x02 r.ex)
    else body s r ((s.srcVals r.w i r.low).getD 0 0))

/-- A register of the context: cause 0x05 for a value that breaks its rule (R363). -/
def State.writeCtx (s : State) (i : Instr) (r : Run) (ok : Bool) (f : Ctx → Ctx) : State :=
  if ok then (s.modCtx r.w.ctx f).finish i r else s.grantTrap r r.ex

/-- Writes a register of each executing thread (DEDUCED, log 70). -/
def State.writeThreads (s : State) (i : Instr) (r : Run) (f : Word → Thread → Thread) : State :=
  (s.modWave r.c.wid (fun w => (lanesOf r.ex).foldl (fun w t => w.modThread t (f ((s.srcVals r.w i t).getD 0 0))) w)).finish i r

/-- The value of the highest executing thread, which stands last in a register of the wave (R104, R363). -/
def State.lastVal (s : State) (i : Instr) (r : Run) : Word := (s.srcVals r.w i ((lanesOf r.ex).getLast?.getD 0)).getD 0 0

/-- SYSW of a register without a behaviour of its own (R363). -/
def execSysw (o : OpI) (s : State) : Host.Outcome State Fault Refusal :=
  s.writeSys (.sysw o) o (fun s r v =>
    let i : Instr := .sysw o
    match o.imm.toNat with
    | 0x019 => s.writeThreads i r (fun v th => { th with lsp := v })
    | 0x088 => s.writeThreads i r (fun v th => { th with tepc := v })
    | 0x089 => s.writeThreads i r (fun v th => { th with tcond := v &&& 0xF })
    | 0x08B => s.writeThreads i r (fun v th => { th with tscratch0 := v })
    | 0x08C => s.writeThreads i r (fun v th => { th with tscratch1 := v })
    | 0x08D => s.writeThreads i r (fun v th => { th with tscratch2 := v })
    | 0x08E => s.writeThreads i r (fun v th => { th with tscratch3 := v })
    | 0x093 => s.writeCtx i r true (fun c => { c with fqtail := v })
    | 0x051 => s.writeCtx i r (decide (v.toNat ≤ 1)) (fun c => { c with ctxctl := v })
    | _ => s.finish i r)

/-- Sconce lines of a lantern that the other contexts of a partition have reserved (R273). -/
def State.linesReserved (s : State) (ctx : Nat) : Nat :=
  ((s.ctxs.filter (fun e => e.1 != ctx && e.2.part == s.partOfCtx ctx)).map (fun e => e.2.holdquota.toNat)).sum

/-- SYSW of sys.holdquota (R273). -/
def execSyswHoldquota (o : OpI) (s : State) : Host.Outcome State Fault Refusal :=
  s.writeSys (.syswHoldquota o) o (fun s r v =>
    s.writeCtx (.syswHoldquota o) r (decide (v.toNat + s.linesReserved r.w.ctx ≤ Config.sconceLines)) (fun c => { c with holdquota := v }))

/-- The end of the spilled records of a context, in bytes of its spill area. -/
def State.spillEnd (s : State) (ctx : Nat) : Nat :=
  (s.recs.map (fun e => if e.2.ctx == ctx then (e.2.spilled.map (fun k => 64 * (k + e.2.lines))).getD 0 else 0)).foldl max 0

/-- SYSW of sys.spillbase (R273). -/
def execSyswSpillbase (o : OpI) (s : State) : Host.Outcome State Fault Refusal :=
  s.writeSys (.syswSpillbase o) o (fun s r v =>
    s.writeCtx (.syswSpillbase o) r (s.spillEnd r.w.ctx == 0 && spaceOf v == 0 && v.toNat % 64 == 0) (fun c => { c with spillbase := v }))

/-- SYSW of sys.spillsize (R273): a larger area lets a stalled creation be tried again (R277). -/
def execSyswSpillsize (o : OpI) (s : State) : Host.Outcome State Fault Refusal :=
  s.writeSys (.syswSpillsize o) o (fun s r v =>
    s.writeCtx (.syswSpillsize o) r (decide (v.toNat < 2 ^ 40) && v.toNat % 64 == 0 && decide (s.spillEnd r.w.ctx ≤ v.toNat))
      (fun c => { c with spillsize := v, holdStalled := c.holdStalled && decide (v.toNat ≤ c.spillsize.toNat) }))

/-- The fault queue is empty. -/
def State.queueEmpty (s : State) (ctx : Nat) : Bool := ((s.ctx? ctx).map (fun c => c.fqhead == c.fqtail)).getD true

/-- SYSW of sys.fqbase (R377). -/
def execSyswFqbase (o : OpI) (s : State) : Host.Outcome State Fault Refusal :=
  s.writeSys (.syswFqbase o) o (fun s r v =>
    s.writeCtx (.syswFqbase o) r (s.queueEmpty r.w.ctx && spaceOf v == 0 && v.toNat % 4096 == 0) (fun c => { c with fqbase := v }))

/-- SYSW of sys.fqctl (R377). -/
def execSyswFqctl (o : OpI) (s : State) : Host.Outcome State Fault Refusal :=
  s.writeSys (.syswFqctl o) o (fun s r v =>
    s.writeCtx (.syswFqctl o) r (s.queueEmpty r.w.ctx && (v &&& 0xFFFFFFFF7000FFF0) == 0 && decide (v.toNat % 16 ≤ 12))
      (fun c => { c with fqctl := v }))

/-- SYSW of sys.trapbase (R372): the issuing wave's own value. -/
def execSyswTrapbase (o : OpI) (s : State) : Host.Outcome State Fault Refusal :=
  s.writeSys (.syswTrapbase o) o (fun s r _ =>
    (s.modWave r.c.wid (fun w => { w with trapbase := s.lastVal (.syswTrapbase o) r })).finish (.syswTrapbase o) r)

/-- SYSW of sys.ptroot (R364): walks use it after tlbi.asid. -/
def execSyswPtroot (o : OpI) (s : State) : Host.Outcome State Fault Refusal :=
  s.writeSys (.syswPtroot o) o (fun s r v =>
    s.writeCtx (.syswPtroot o) r (v.toNat % 4096 == 0 && decide (v.toNat < 2 ^ 52)) (fun c => { c with ptroot := v }))

/-- SYSW of sys.fflags (R91, R93). Flags of other groups that land in the same cycle land before the write or after it
(DESIGN CHOICE, log 107). -/
def execSyswFflags (o : OpI) (s : State) : Host.Outcome State Fault Refusal :=
  s.writeSys (.syswFflags o) o (fun s r _ =>
    let before := fun (x : Nat × Lanes × FFlags) => decide (x.1 < s.dev.clk) || (x.1 == s.dev.clk && s.freeBit (freeAt 355 0))
    (s.modWave r.c.wid (fun w =>
      { w.landFlags before with fflags := s.lastVal (.syswFflags o) r &&& fflagsMask })).finish (.syswFflags o) r)

/-! ### TLBI (R351, R352) -/

/-- Drops translations with the instruction-cache lines filled through them (R351; DESIGN CHOICE, log 11)
(DEDUCED, log 71). -/
def State.dropTlb (s : State) (p : Tlb → Bool) : State :=
  let gone := s.tlb.filter p
  { s with
    tlb := s.tlb.filter (fun t => !p t)
    icache := s.icache.filter (fun l => !gone.any (fun t => t.asid == l.asid && decide (t.va ≤ l.va) && decide (l.va < t.va + t.size))) }

/-- The contexts that a TLBI names. -/
def State.tlbiCtxs (s : State) (r : Run) (one : Option Nat) : List Nat :=
  match one with
  | some a => [a]
  | none => (s.ctxs.filter (fun e => r.w.ctx == 0 || (e.1 != 0 && e.2.part == s.partOfCtx r.w.ctx))).map Prod.fst

/-- The effect of a TLBI: the earlier accesses of the contexts' waves are performed, and the translations are dropped.
Roots that were written take effect (R364; DEDUCED, log 71). -/
def State.tlbiAct (s : State) (i : Instr) (r : Run) (one : Option Nat) (roots : Bool) (p : Tlb → Bool) : State :=
  let cs := s.tlbiCtxs r one
  let s := (s.drainWave r.c.wid).releaseAs r.w 4
  let s := (s.waves.filter (fun e => e.1 == r.c.wid || (cs.contains e.2.ctx && !e.2.frozen))).foldl (fun s e => s.drainWave e.1) s
  let s := s.dropTlb p
  let s := if roots then cs.foldl (fun s k => s.modCtx k (fun c => { c with walkroot := c.ptroot })) s else s
  s.finish i r

/-- An ASID that lies outside the issuing context's partition (DEDUCED, log 7). -/
def State.asidOutside (s : State) (w : Wave) (a : Nat) : Bool :=
  w.ctx != 0 && ((s.ctx? a).map (fun c => a == 0 || c.part != s.partOfCtx w.ctx)).getD false

/-- tlbi.va (R352; DESIGN CHOICE, log 30). -/
def execTlbiVa (o : OpA) (s : State) : Host.Outcome State Fault Refusal :=
  s.issue (.tlbiVa o) (tlbiWait (.tlbiVa o)) (fun s r =>
    let v := s.srcVals r.w (.tlbiVa o) r.low
    let a := v.getD 0 0
    let b := (v.getD 1 0).toNat
    let sp := spaceOf a
    let low : Lanes := 1#32 <<< r.low
    if r.ex = 0 then s.finish (.tlbiVa o) r
    else if 64 ≤ b then s.precise r (r.trap 0x01 low)
    else if !(sp == 0 || sp == 4 || sp == 5) then s.precise r (r.fltTrap { stage := 0, cause := 0x06 } ((s.free (freeAt 340 0)).toNat % 8) low a)
    else if s.asidOutside r.w b then s.grantTrap r low
    else s.tlbiAct (.tlbiVa o) r (some b) false (tlbiHits (.tlbiVa o) s r))

/-- tlbi.asid (R352). -/
def execTlbiAsid (o : OpA) (s : State) : Host.Outcome State Fault Refusal :=
  s.issue (.tlbiAsid o) (tlbiWait (.tlbiAsid o)) (fun s r =>
    let b := ((s.srcVals r.w (.tlbiAsid o) r.low).getD 0 0).toNat
    let low : Lanes := 1#32 <<< r.low
    if r.ex = 0 then s.finish (.tlbiAsid o) r
    else if 64 ≤ b then s.precise r (r.trap 0x01 low)
    else if s.asidOutside r.w b then s.grantTrap r low
    else s.tlbiAct (.tlbiAsid o) r (some b) true (tlbiHits (.tlbiAsid o) s r))

/-- tlbi.all (R352). -/
def execTlbiAll (o : OpA) (s : State) : Host.Outcome State Fault Refusal :=
  s.issue (.tlbiAll o) (tlbiWait (.tlbiAll o)) (fun s r =>
    if r.ex = 0 then s.finish (.tlbiAll o) r
    else s.tlbiAct (.tlbiAll o) r none true (tlbiHits (.tlbiAll o) s r))

/-! ### PRIO (R245, R365) -/

/-- Gives contexts new levels: each core uses the old ones until it switches, at most 600 ns later (R245; DEDUCED,
log 72). -/
def State.relevel (s : State) (l : List (Nat × Nat)) : State :=
  let changed := l.filter (fun x => ((s.ctx? x.1).map (·.level)).getD 0 != x.2)
  let cores := fun (ctx : Nat) => (s.partLanterns (s.partOfCtx ctx)).flatMap (fun l => (List.range Config.coresPerLantern).map (24 * l + ·))
  let old := changed.foldl (fun t x => (cores x.1).foldl (fun t c =>
    let k := 64 * c + x.1
    if tget 0 t k = 0 then tset 0 t k (64 * (s.dev.clk + Config.ticks600ns) + ((s.ctx? x.1).map (·.level)).getD 0 + 1) else t) t) s.oldLevels
  changed.foldl (fun s x => s.modCtx x.1 (fun c => { c with level := x.2 })) { s with oldLevels := old }

/-- The status of a PRIO that names some contexts. -/
def State.prioStatus (s : State) (w : Wave) (l : List Nat) : Nat :=
  if l.any (fun k => (s.ctx? k).isNone) then 1
  else if l.any (fun k => k == 0 || (w.ctx != 0 && s.partOfCtx k != s.partOfCtx w.ctx)) then 2
  else 0

/-- prio.xchg (R365). -/
def execPrioXchg (o : OpA) (s : State) : Host.Outcome State Fault Refusal :=
  s.issue (.prioXchg o) noWait (fun s r =>
    let v := s.srcVals r.w (.prioXchg o) r.low
    let a := (v.getD 0 0).toNat % 64
    let b := (v.getD 1 0).toNat % 64
    if r.ex = 0 then s.finish (.prioXchg o) r
    else
      let st := s.prioStatus r.w [a, b]
      let level := fun (k : Nat) => ((s.ctx? k).map (·.level)).getD 0
      (if st = 0 then s.relevel [(a, level b), (b, level a)] else s).answerTagged (.prioXchg o) r
        (s.lowVals (.prioXchg o) r o.d) (r.oneValue o.d st))

/-- prio.set (R365). -/
def execPrioSet (o : OpA) (s : State) : Host.Outcome State Fault Refusal :=
  s.issue (.prioSet o) noWait (fun s r =>
    let v := s.srcVals r.w (.prioSet o) r.low
    let a := (v.getD 0 0).toNat % 64
    let n := (v.getD 1 0).toNat % 256
    if r.ex = 0 then s.finish (.prioSet o) r
    else
      let p := s.prioStatus r.w [a]
      let st := if p != 0 then p else if n < 4 ∨ 23 < n then 3 else 0
      (if st = 0 then s.relevel [(a, n)] else s).answerTagged (.prioSet o) r (s.lowVals (.prioSet o) r o.d) (r.oneValue o.d st))

/-- PRIO_CORE_SWITCH (R245): a core takes the new levels (DEDUCED, log 72). -/
def execPrioCoreSwitch (core : Nat) (s : State) : Host.Outcome State Fault Refusal :=
  .next { s with oldLevels := s.oldLevels.filter (fun e => e.1 / 64 != core) }

end Sys2Proof.Machine
end

