-- ==== Sys2Proof/Machine/Partner.lean ====
section
/-!
DEFINITION. The partner journal (spec/21): records and their check, the two copies of a record, acknowledgements, the
partner's side, and the waits of EMIT and JPART.
-/

namespace Sys2Proof.Machine

/-! ### Records (R401) -/

/-- One bit of CRC-32C (Castagnoli), least significant bit first. -/
def crcStep (c : BitVec 32) : BitVec 32 := if c.getLsbD 0 then (c >>> 1) ^^^ 0x82F63B78#32 else c >>> 1

def crcByte (c : BitVec 32) (b : Byte) : BitVec 32 :=
  (List.range 8).foldl (fun c _ => crcStep c) (c ^^^ b.setWidth 32)

def crc32c (bs : List Byte) : BitVec 32 := ~~~(bs.foldl crcByte 0xFFFFFFFF#32)

/-- The 64 bytes of a record (DEDUCED, log 90). -/
def recordBytes (idx seq step kind ctx : Nat) (payload : List Byte) : List Byte :=
  let head := toBytes 8 idx ++ toBytes 4 seq ++ toBytes 4 step ++ toBytes 1 kind ++ toBytes 1 payload.length ++
    toBytes 1 (ctx % 64) ++ toBytes 1 0
  let body := payload ++ List.replicate (40 - payload.length) 0
  head ++ toBytes 4 (crc32c (head ++ body)).toNat ++ body

/-! ### The journal state (R400, R403) -/

def State.journal? (s : State) (ctx : Nat) : Option Journal := (s.ctx? ctx).bind (·.journal)

def State.modJournal (s : State) (ctx : Nat) (f : Journal → Journal) : State :=
  s.modCtx ctx (fun c => { c with journal := c.journal.map f })

/-- A record's offset in the region and in the shadow. -/
def Journal.offset (j : Journal) (idx : Nat) : Nat := 64 * (idx % 2 ^ j.log2)

/-- HEAD moves to the oldest live record; what is truncated and acknowledged is forgotten (R403). -/
def Journal.advance (j : Journal) : Journal :=
  { j with
    head := ((j.recs.filter (·.live)).map (·.idx)).foldl min j.next
    recs := j.recs.filter (fun r => r.live || !r.acked) }

/-- A record has been sent and not acknowledged. -/
def Journal.watched (j : Journal) : Bool := j.recs.any (fun r => r.sent && !r.acked)

/-! ### The partner's side (R405) -/

/-- A record arrives at an endpoint of this S9 from a node: the state, or none where no journal window takes it. A slot
keeps the record of the highest INDEX. -/
def State.arrive (s : State) (part src a : Nat) (bytes : List Byte) : Option State :=
  let fits := fun (v : Win) => v.ctx.isNone && v.part == part && v.nodes.contains src && decide (v.nbase ≤ a) &&
    decide (a + 64 ≤ v.nbase + v.len) && (a - v.nbase) % 64 == 0
  match s.windows.findIdx? fits, s.windows.find? fits with
  | some k, some v =>
    let slot := (a - v.nbase) / 64
    let idx := leNat (bytes.take 8)
    if bytes.length != 64 || (s.served a).isNone then none
    else if idx + 1 < tget 0 v.high slot then some s
    else some { s.writePa a bytes with windows := lmod s.windows k (fun v => { v with high := tset 0 v.high slot (idx + 1) }) }
  | _, _ => none

/-! ### Acknowledgements (R186, R404) -/

/-- The entry of a JRNL or JTRUNC. -/
def Entry.isRecord (e : Entry) : Bool :=
  match e.ins with
  | .jrnl _ | .jtrunc _ => true
  | _ => false

/-- Marks a record as acknowledged, frees its Mitten entry in a wave that runs, and truncates a record that ends its
sequence (R404). -/
def State.ackRecord (s : State) (ctx idx : Nat) : State :=
  let s := s.modJournal ctx (fun j => ({ j with
    recs := j.recs.map (fun r =>
      if r.idx == idx then { r with acked := true, live := r.live && !(r.kind == 6 && r.step == 2 ^ 32 - 1) } else r) } : Journal).advance)
  { s with waves := s.waves.map (fun (e : Nat × Wave) =>
      if e.2.ctx == ctx && !e.2.frozen then
        (e.1, { e.2 with mitten := e.2.mitten.filter (fun m => !(m.isRecord && m.record == some idx)) })
      else e) }

/-! ### Sending (R401, R186) -/

/-- Sends a record to the partner. A partner of this S9 writes and acknowledges it at once; the watch of R406 begins with
the first record that is not acknowledged. -/
def State.sendRecord (s : State) (ctx : Nat) (r : JRec) : State :=
  match s.journal? ctx with
  | none => s
  | some j =>
    let s := s.modJournal ctx (fun j => { j with
      heard := if j.watched then j.heard else s.dev.clk
      recs := j.recs.map (fun x => if x.idx == r.idx then { x with sent := true } else x) })
    let a := j.pbase + j.offset r.idx
    match s.partOfNode j.partner with
    | none => s.emit (.journal j.partner a r.bytes)
    | some p =>
      match s.arrive p (s.nodeOfCtx ctx) a r.bytes with
      | none => s
      | some s => s.ackRecord ctx r.idx

/-- A new record: it takes the next INDEX, stands in the shadow and goes to the partner. -/
def State.writeRecord (s : State) (core ctx seq step kind : Nat) (payload : List Byte) : State × JRec :=
  match s.journal? ctx with
  | none => (s, { idx := 0, seq, step, kind, bytes := [] })
  | some j =>
    let r : JRec := { idx := j.next, seq, step, kind, core, bytes := recordBytes j.next seq step kind ctx payload }
    let s := s.writePa (j.shadow + j.offset j.next) r.bytes
    let s := s.modJournal ctx (fun j => { j with next := j.next + 1, recs := j.recs ++ [r] })
    (s, r)

/-- A JRNL or JTRUNC is reissued at restore: its record is written once (R389). -/
def State.reissueRecord (s : State) (wid ctx : Nat) (e : Entry) : State :=
  match (s.journal? ctx).bind (fun j => j.recs.find? (fun r => some r.idx == e.record && !r.acked)) with
  | none => s.modWave wid (fun w => w.dropEntry e.seq)
  | some r => s.sendRecord ctx r

/-! ### EMIT (R422) -/

/-- The sequence, node, location and value of an EMIT's entry. -/
def Entry.emitSeq (e : Entry) : Nat := ((((e.vals.head?).map Prod.snd).getD []).getD 1 0).toNat % 2 ^ 32
def Entry.emitNode (e : Entry) : Nat := ((((e.vals.head?).map Prod.snd).getD []).getD 1 0).toNat / 2 ^ 32 % 4096
def Entry.emitAt (e : Entry) : Word := (((e.vals.head?).map Prod.snd).getD []).getD 2 0
def Entry.emitValue (e : Entry) : Word := (((e.vals.head?).map Prod.snd).getD []).getD 3 0

/-- The partner has acknowledged every record of the sequence that happens before the EMIT: those of other cores that no
release has followed need not (R422; DEDUCED, log 53). -/
def Journal.allows (j : Journal) (core seq bound : Nat) (skip : Bool) : Bool :=
  j.recs.all (fun r => r.seq != seq || decide (bound ≤ r.idx) || r.acked || (skip && r.core != core && !r.rel))

/-- The fault of a lost partner or of a context without a journal, with its sequence (R371, R406). -/
def lostTrap (lanes : Lanes) (pc : Word) (w0 w1 : Word) (seq : Nat) : TrapInfo :=
  { cause := 0x15, mask := lanes, pc, info := BitVec.ofNat 64 (seq % 2 ^ 32), w0, w1 }

/-- The waiting threads of a wave's entry. -/
def Wave.emitLanes (w : Wave) (e : Entry) : Lanes :=
  maskOf ((lanesOf e.exec).filter (fun t => (w.thread t).wait == .emit && (w.thread t).pc == e.pc))

/-- The waiting threads of an EMIT trap at it, and it is withdrawn. -/
def State.emitTrap (s : State) (wid : Nat) (e : Entry) (lanes : Lanes) (i : TrapInfo) : State :=
  (s.modWave wid (fun w => (lanesOf lanes).foldl (fun w t => w.modThread t (fun th => { th with wait := .none }))
    (w.dropEntry e.seq))).takeTrap wid lanes (fun _ => e.pc) i

/-- The release, the store and the message of an EMIT (DEDUCED, log 53). -/
def State.performEmit (s : State) (wid : Nat) (w : Wave) (e : Entry) (lanes : Lanes) (irq : Bool) : State :=
  let low := (lowest e.exec).getD 0
  match s.resolve w accStore [0, 3, 4] 8 8 e.emitAt (freeAt 348 0) with
  | .error f =>
    s.emitTrap wid e lanes { cause := f.cause, mask := 1#32 <<< low, pc := e.pc, addr := e.emitAt, malformed := f.malformed
                             level := f.level, w0 := e.w0, w1 := e.w1
                             info := if decide (3 ≤ f.cause) && decide (f.cause ≤ 6) then (if f.walkEntry then 6 else 1) else 0 }
  | .ok l =>
    let s := ((s.drainWave wid).releaseAs w 5).touch w.ctx [e.emitAt]
    let loc := [(low, l)]
    let s := match s.storeLane w.ctx (s.writer w) l (toBytes 8 e.emitValue.toNat) with
      | .error c => s.modWave wid (fun w => w.modEntry e.seq (fun e => { e with st := .fault, orig := c, loc, exec := 1#32 <<< low }))
      | .ok s =>
        let s := ((s.freeTags e.emitAt l 8).noteTag w e.ins e.seq [l]).modWave wid (fun w => w.modEntry e.seq (fun e => { e with st := .sent, loc, exec := 1#32 <<< low }))
        if irq then s.sendIrq e.emitNode 0 w.ctx e.emitSeq else s
    s.release wid lanes (· == .emit)

/-- What a waiting EMIT does now: it performs, it traps when the partner is lost, or it waits on. One whose threads have
left it is withdrawn. -/
def State.tryEmit (s : State) (wid : Nat) (e : Entry) : State :=
  match s.wave? wid, e.ins with
  | some w, .emit o =>
    let lanes := w.emitLanes e
    let go := s.performEmit wid w e lanes (o.mod.getLsbD 0)
    if e.st != .issued || w.frozen then s
    else if lanes = 0 then (if w.trap.inHandler then s else s.modWave wid (fun w => w.dropEntry e.seq))
    else
      match s.journal? w.ctx with
      | none => go
      | some j =>
        if j.lost then s.emitTrap wid e lanes { lostTrap lanes e.pc e.w0 e.w1 e.emitSeq with deferred := true, trec := e.words w }
        else if j.allows w.core e.emitSeq (e.record.getD 0) (s.freeBit (freeAt 356 0)) then go
        else s
  | _, _ => s

/-- Every EMIT of a wave, in order. -/
def State.tryEmits (s : State) (wid : Nat) : State :=
  match s.wave? wid with
  | none => s
  | some w => (w.mitten.filter (fun e => e.ins matches .emit _)).foldl (fun s e => s.tryEmit wid e) s

/-! ### JPART (R407, R423) -/

/-- Waits that end with a status. -/
def Wait.isAnswered : Wait → Bool
  | .jpart _ _ _ => true
  | .freeze _ _ => true
  | _ => false

/-- A register of a waiting thread receives a status, if it names one, and the thread goes on. -/
def State.answerThread (s : State) (wid t d status : Nat) : State :=
  let s := if d < 256 then s.modWave wid (fun w => (w.setReg d t (BitVec.ofNat 64 status)).setTag d .g) else s
  s.release wid (1#32 <<< t) Wait.isAnswered

/-- A JPART ends once the new partner has acknowledged every record below an index; a lost partner faults it. -/
def State.tryJpart (s : State) (wid t d upto : Nat) (stby : Bool) : State :=
  match s.wave? wid with
  | none => s
  | some w =>
    match s.journal? w.ctx with
    | none => s
    | some j =>
      if j.lost then
        let pc := (w.thread t).pc
        let lanes := maskOf ((List.range 32).filter (fun u => (w.thread u).wait == .jpart d upto stby && (w.thread u).pc == pc))
        let ws := s.instrWords w pc
        s.takeTrap wid lanes (fun _ => pc)
          { cause := 0x15, mask := lanes, pc, w0 := ws.1, w1 := ws.2, info := s.free (freeAt 348 1) &&& 0xFFFFFFFF }
      else if j.recs.all (fun r => decide (upto ≤ r.idx) || r.acked) then
        (if stby then s.modJournal w.ctx (fun j => { j with standby := none }) else s).answerThread wid t d 0
      else s

/-- Every JPART of a wave. -/
def State.tryJparts (s : State) (wid : Nat) : State :=
  (List.range 32).foldl (fun s t =>
    match s.wave? wid with
    | none => s
    | some w =>
      match (w.thread t).wait with
      | .jpart d upto stby => if w.frozen then s else s.tryJpart wid t d upto stby
      | _ => s) s

/-- What the waits for a context's partner do now. -/
def State.tryPartner (s : State) (ctx : Nat) : State :=
  ((s.waves.filter (fun e => e.2.ctx == ctx)).foldl (fun s e => (s.tryEmits e.1).tryJparts e.1) s).useFree

end Sys2Proof.Machine
end

