-- ==== Sys2Proof/Machine/Rotation.lean ====
section
/-!
DEFINITION. The choice of an issue group: the order of a quadrant (R240, R241), the rotation of a deterministic gang
(R243), and the events that end the waits whose step it decides (R137, R202).
-/

namespace Sys2Proof.Machine

/-! ### The rotation of DET (R243) -/

/-- What a wave does with its step. -/
inductive Work where
  /-- a group issues, or is waited for -/
  | issue (lanes : Lanes) (pc : Word)
  /-- the exchange group at a lane issues (R137) -/
  | exchange (lane : Nat)
  /-- the group that waits at a lane's WAITM or VWAIT tests again (R202) -/
  | memory (lane : Nat)
deriving DecidableEq, Repr

/-- The lowest lane of each group of waiting threads. -/
def Wave.waitLanes (w : Wave) (p : Wait → Bool) : List Nat :=
  let l := (List.range 32).filter (fun t => (w.thread t).present && !(w.thread t).exited && p (w.thread t).wait)
  l.filter (fun t => l.all (fun u => decide (t ≤ u) || (w.thread u).pc != (w.thread t).pc))

/-- A waiting thread that has not passed now passes. -/
def State.memReady (s : State) (wid lane : Nat) : Bool :=
  match s.waiters wid lane isMemWait with
  | none => false
  | some (i, s', r) => (s'.passes i r).any (fun p => p.2.isSome && (r.w.thread p.1).wait == .memory none) || r.ex == 0

/-- What a wave can do with its step: a group that is not stopped, an exchange group, a wait that ends. -/
def State.works (s : State) (wid : Nat) (w : Wave) : List (Nat × Work) :=
  let l := (w.groups (2 ^ 62)).map (fun g => (g, s.standing wid w g))
  if l.any (fun x => x.2 == .empty) then []
  else
    (l.filter (fun x => x.2 != .stopped)).map (fun x => ((lowest x.1.1).getD 0, Work.issue x.1.1 x.1.2)) ++
    ((w.waitLanes (· == .exchange)).filter (fun t => (s.exchangeReady wid t).isSome)).map (fun t => (t, .exchange t)) ++
    ((w.waitLanes isMemWait).filter (s.memReady wid)).map (fun t => (t, .memory t))

/-- A round of the gang's convergence registers is complete and its operation has not issued (R159). -/
def State.roundDue (s : State) (a : Gang) : Bool :=
  a.members.any (fun g => (List.range 16).any (fun k =>
    let c := ((s.wg? g).map (fun x => convOf x k)).getD {}
    c.isOpen && s.roundFull c g))

/-- The wave whose step it is in a rotation, with its work: the first wave from `turn` on that has not exited and is not
stopped, and of its groups the first after the one that it issued last (R243, R104; DEDUCED, log 84). A frozen wave
holds the rotation, and so does a round that is to issue within the step (R159). -/
def State.nextWork (s : State) (gk : Nat) (a : Gang) : Option (Nat × Option Work) :=
  if s.roundDue a then none
  else
    let ws := s.waves.filter (fun e => (s.detGang e.2).map Prod.fst == some gk && e.2.live != 0 && !e.2.ended)
    let able := ws.filterMap (fun e =>
      if e.2.frozen then some (e.1, s.place e.2, none)
      else (firstBy (fun x => (x.1 + 31 - e.2.lastLane) % 32) (s.works e.1 e.2)).map (fun x => (e.1, s.place e.2, some x.2)))
    let after := able.filter (fun x => decide (a.turn ≤ x.2.1))
    (firstBy (fun x => x.2.1) (if after.isEmpty then able else after)).map (fun x => (x.1, x.2.2))

/-- The wave whose step it is in a rotation. -/
def State.turnOf (s : State) (gk : Nat) (a : Gang) : Option Nat := (s.nextWork gk a).map Prod.fst

/-- A wave may do some work now under its gang's rotation (DEDUCED, log 84). -/
def State.inTurn (s : State) (wid : Nat) (w : Wave) (x : Work) : Bool :=
  match s.detGang w with
  | none => true
  | some (gk, a) => s.nextWork gk a == some (wid, some x)

/-! ### Waits that end at a wave's step -/

/-- The exchange group at a lane may issue, under DET in its wave's step. -/
def State.exchangeDue (s : State) (wid lane : Nat) : Bool :=
  match s.wave? wid with
  | none => false
  | some w => s.inTurn wid w (.exchange ((lowest (w.exchangeAt lane)).getD 0))

/-- The exchange group issues together (R137). -/
def execExchangeGroupIssue (wid lane : Nat) (s : State) : Host.Outcome State Fault Refusal :=
  match s.exchangeReady wid lane with
  | none => .next s
  | some (i, s', r) =>
    if !s.exchangeDue wid lane then .next s
    else
      let s' := s'.modWave wid (fun w =>
        let w := { w with exch := tset 0 w.exch r.c.pc.toNat 0 }
        (lanesOf r.c.lanes).foldl (fun w t => w.modThread t (fun th => { th with wait := .none })) w)
      .next (s'.crossIssue i r (crossFn i))

/-- The wait at a lane may be tested, under DET in its wave's step. -/
def State.memDue (s : State) (wid : Nat) (r : Run) : Bool := s.inTurn wid r.w (.memory r.lowestLane)

/-- WAITM_PASS (R202): the threads of a waiting group that have not passed read their words again. -/
def execWaitmPass (wid lane : Nat) (s : State) : Host.Outcome State Fault Refusal :=
  match s.waiters wid lane isMemWait with
  | some (.waitm o, s', r) => if s.memDue wid r then .next (s'.memWait (.waitm o) o.d.toNat r) else .next s
  | some (.vwait o, s', r) => if s.memDue wid r then .next (s'.memWait (.vwait o) o.d.toNat r) else .next s
  | _ => .next s

/-! ### The choice of a quadrant (R240, R241) -/

/-- Power control may withhold this slot from a deterministic gang (R7; DESIGN CHOICE, log 55). -/
def State.withheld (s : State) (w : Wave) : Bool := s.dev.throttled && s.isDet w && s.freeBit (freeAt 350 0)

/-- Ready groups of an issue port: (wave, group). -/
def State.readyOn (s : State) (port : Nat) : List (Nat × Wave × Lanes × Word) :=
  (s.waves.filter (fun e => e.2.port == port && e.2.runs)).flatMap (fun e =>
    if s.withheld e.2 then []
    else
      let l := s.readyGroups e.1 e.2 s.dev.clk
      let l := if (s.detGang e.2).isNone then l else l.filter (fun g => s.inTurn e.1 e.2 (.issue g.1 g.2))
      l.map (fun g => (e.1, e.2, g.1, g.2)))

/-- The order of R240 and R241 as a list of numbers, lower first (DEDUCED, log 83). Slots of waves of different contexts
are compared by number, and equal ones leave the order of creation (DESIGN CHOICE, log 109). -/
def State.rank (s : State) (e : Nat × Wave × Lanes × Word) : List Nat :=
  let w := e.2.1
  let lane := (lowest e.2.2.1).getD 0
  let late := tget 0 w.overdue lane
  let turn := (lane + 31 - w.lastLane) % 32
  if late != 0 && (s.detGang w).isNone then [0, late, w.slot, lane]
  else [1, s.levelOn w.core w.ctx, if w.yieldAt == s.dev.clk && w.yieldAt != 0 then 1 else 0, w.admitted, w.slot, turn]

/-- The group that a port issues (DEDUCED, log 83). -/
def State.choose (s : State) (port : Nat) : Option (Nat × Wave × Lanes × Word) :=
  (s.readyOn port).foldl (fun b e =>
    match b with
    | none => some e
    | some x => if lexLt (s.rank e) (s.rank x) then some e else some x) none

/-- A group that fetch moves past a word of another rate, which takes no issue slot (R17). -/
def State.passing (s : State) : Option (Nat × Wave × Lanes × Word) :=
  s.waves.findSome? (fun e =>
    if e.2.runs then ((e.2.groups s.dev.clk).find? (fun g => s.otherRateAt e.2 g.2)).map (fun g => (e.1, e.2, g.1, g.2)) else none)

/-- The group stands at a BAR. -/
def State.atBar (s : State) (e : Nat × Wave × Lanes × Word) : Bool :=
  match s.wordsAt e.2.1 e.2.2.2 with
  | .error _ => false
  | .ok (w0, w1, _) => match decodeWords w0 w1 with
    | .ok (.bar _) => true
    | _ => false

/-- The next issue of the cycle: a word that is passed over; else the lowest port that has not issued and has a ready
group (DESIGN CHOICE, log 8), but arrivals at a barrier in one cycle go by wave slot (R253). -/
def State.nextIssue (s : State) : Option (Nat × Wave × Lanes × Word) :=
  match s.passing with
  | some e => some e
  | none =>
    let ports := sortNat ((((s.waves.filter (fun e => e.2.runs)).map (fun e => e.2.port)).filter (fun q => !s.issued.contains q)).eraseDups)
    match ports.findSome? s.choose with
    | none => none
    | some e =>
      if s.atBar e then
        firstBy (fun x => x.2.1.slot) ((ports.filterMap s.choose).filter (fun x => x.2.1.core == e.2.1.core && s.atBar x))
      else some e

/-- Under DET every access of a step is performed before the next step reads or writes memory (R243). -/
def State.drainGang (s : State) (gk : Nat) : State :=
  (s.waves.filter (fun e => ((s.wg? e.2.wg).map (·.gang)) == some gk)).foldl (fun s e => s.drainWave e.1) s

/-- Takes the next issue slot. -/
def State.fetchIssue (s : State) : Fetched :=
  match s.nextIssue with
  | none => .idle
  | some (wid, w, lanes, pc) =>
    let s := match s.detGang w with
      | some (gk, _) => s.drainGang gk
      | none => s
    s.fetchGroup wid w lanes pc

/-- The event that a deterministic gang's rotation brings before its next issue: a round, a barrier or a rejoin that is
complete (R159, R257), or the step of a wave whose wait ends (R243). -/
def State.stepEvent (s : State) : Option Instr :=
  (s.gangs.filter (fun e => e.2.st == .admitted && ((s.launch? e.2.launch).map (·.obj.det)).getD false)).findSome? (fun e =>
    let ws := s.waves.filter (fun x => (s.detGang x.2).map Prod.fst == some e.1 && x.2.runs)
    let rounds := e.2.members.flatMap (fun g =>
      (List.range (((s.wg? g).map (·.convs.length)).getD 0)).filterMap (fun k =>
        let c := ((s.wg? g).map (fun x => convOf x k)).getD {}
        if c.isOpen && s.roundFull c g then some (Instr.convergenceRoundIssue g k) else none))
    let bars := e.2.members.flatMap (fun g =>
      (List.range (((s.wg? g).map (·.bars.length)).getD 0)).filterMap (fun n =>
        if (s.barReady g n).isSome then some (Instr.barrierComplete g n) else none)) ++
      (if s.gbarReady e.1 then [.barrierComplete e.1 16] else [])
    let joins := ws.flatMap (fun x => (x.2.joins.filter (fun j => !(s.joinable x.2 j).isEmpty)).map (fun j => Instr.joinRelease x.1 j.pc))
    let stuck := (ws.filter (fun x => x.2.lowestJoin.isSome && s.joinDeadlock x.1 x.2)).map (fun x => Instr.joinDeadlockRelease x.1)
    match (rounds ++ bars ++ joins ++ stuck).head? with
    | some i => some i
    | none =>
      match s.nextWork e.1 e.2 with
      | some (wid, some (.exchange t)) => some (.exchangeGroupIssue wid t)
      | some (wid, some (.memory t)) => some (.waitmPass wid t)
      | _ => none)

end Sys2Proof.Machine
end

