-- ==== Sys2Proof/Machine/Save.lean ====
section
/-!
DEFINITION. Units, the save area and the restore: stopping a gang (R381, R426), the bytes of a save (R391-R394), placing
a saved gang again and reissuing its Mitten (R389, R396) (spec/20).
-/

namespace Sys2Proof.Machine

/-! ### Units (R380, R382) -/

/-- A freeze covers a gang of its context. -/
def Freeze.covers (f : Freeze) (ctx gk : Nat) : Bool := f.ctx == ctx && (f.gang.isNone || f.gang == some gk)

/-- The freeze that a unit is under: its own, or for a gang the one of its context that has stopped it. -/
def State.freezeOf (s : State) (ctx : Nat) (gang : Option Nat) : Option (Nat × Freeze) :=
  s.freezes.find? (fun e => e.2.ctx == ctx && (e.2.gang == gang ||
    match gang with
    | some k => e.2.gangs.contains k || (e.2.gang.isNone && e.2.phase == 0)
    | none => false))

/-- Gangs of a unit that still run. -/
def State.unitRunning (s : State) (f : Freeze) : List (Nat × Gang) :=
  s.gangs.filter (fun e => f.covers e.2.ctx e.1 && e.2.st == .admitted)

/-- The waves of a gang. -/
def State.gangWaves (s : State) (gk : Nat) : List (Nat × Wave) :=
  s.waves.filter (fun e => ((s.wg? e.2.wg).map (·.gang)) == some gk)

/-! ### The answer of a freeze (R418) -/

/-- Ends a freeze: the threads that wait at FRZ and the nodes that sent FREEZE receive its status. -/
def State.answerFreeze (s : State) (f status : Nat) : State :=
  let answers := ((aget? s.freezes f).map (·.answer)).getD []
  let s := s.waves.foldl (fun s e => (List.range 32).foldl (fun s t =>
    match (e.2.thread t).wait with
    | .freeze k d => if k == f then s.answerThread e.1 t d status else s
    | _ => s) s) s
  let s := answers.foldl (fun s a => s.emit (.response a.1 a.2 status)) s
  { s with freezes := amod s.freezes f (fun x => { x with answer := [] }) }

/-! ### Stopping (R381, R387, R425, R426) -/

/-- The state of an outcome. -/
def nextOr (s : State) (o : Host.Outcome State Fault Refusal) : State :=
  match o with
  | .next t => t
  | _ => s

/-- An access of an entry goes to a scratchpad. -/
def Entry.ownPad (e : Entry) : Bool := e.loc.any (fun x =>
  match x.2 with
  | .spad _ _ => true
  | _ => false)

/-- Accesses to the unit's own scratchpads that have left the FIFO are performed and return their results (R426). -/
def State.finishOwn (s : State) (wid : Nat) : State :=
  match s.wave? wid with
  | none => s
  | some w =>
    (w.mitten.filter (fun e => e.ownPad && !e.inFifo && e.st != .fault)).foldl (fun s e =>
      let s := nextOr s (execLoadComplete wid e.seq 0 s)
      let s := nextOr s (execStoreAcknowledge wid e.seq s)
      nextOr s (execAtomicResultReturn wid e.seq s)) s

/-- The end of a deterministic gang's turn: the step that follows is the rotation's first (R425)
(DEDUCED, log 84). -/
def State.turnEnded (s : State) (gk : Nat) (a : Gang) : Bool :=
  let det := ((s.launch? a.launch).map (·.obj.det)).getD false
  !det || a.turn == 0 ||
    (!s.roundDue a && match (s.turnOf gk a).bind s.wave? with
     | none => true
     | some w => decide (s.place w < a.turn))

/-- The tag of a record belongs to a wave (R386). -/
def TagRec.isOf (r : TagRec) (w : Wave) : Bool := r.tag / 4096 == w.ctx % 64 * 2 ^ 14 + w.slot % 2 ^ 14

/-- Barriers of a gang that are complete release their threads, so that at most one generation of each is left to save. -/
def State.completeBars (s : State) (gk : Nat) : State :=
  let gs := ((s.gang? gk).map (·.members)).getD []
  let s := gs.foldl (fun s g => (List.range 16).foldl (fun s n =>
    (List.range (((s.wg? g).map (fun x => (barOf x n).gens.length)).getD 0)).foldl (fun s _ =>
      if (s.barReady g n).isSome then nextOr s (execBarrierComplete g n s) else s) s) s) s
  if s.gbarReady gk then nextOr s (execBarrierComplete gk 16 s) else s

/-- At a stop the flags of fixed-latency results are set (R381), the latches are invalid (R161), and a thread that waits for
memory tests again (R202). -/
def Wave.stopped (w : Wave) : Wave :=
  { w.landFlags (fun _ => true) with
    frozen := true, latchA := {}, latchB := {}
    threads := w.threads.map (fun th =>
      match th.wait with
      | .memory _ => { th with wait := .memory none }
      | _ => th) }

/-- Stops a gang: its own scratchpad accesses are performed, its tags are pinned, and its waves issue no more. What they
have performed every agent sees (R187) (DEDUCED, log 73). -/
def State.stopGang (s : State) (gk : Nat) : State :=
  let s := s.completeBars gk
  let s := (s.gangWaves gk).foldl (fun s e => s.finishOwn e.1) s
  let ws := s.gangWaves gk
  let s := ws.foldl (fun s e => s.push e.2.core 5) s
  let s := { s with
    tagrecs := s.tagrecs.map (fun (r : TagRec) => if ws.any (fun e => r.isOf e.2) then { r with pinned := true } else r)
    waves := s.waves.map (fun (e : Nat × Wave) => if ws.any (fun x => x.1 == e.1) then (e.1, e.2.stopped) else e) }
  s.modGang gk (fun a => { a with st := .frozen })

/-! ### The save (R391-R394) -/

/-- Zeros up to n bytes. -/
def padTo (n : Nat) (bs : List Byte) : List Byte := bs ++ List.replicate (n - bs.length) 0


/-- One word of each thread, in lane order. -/
def eachLane (w : Wave) (f : Thread → Word) : List Byte := wordBytes ((List.range 32).map (fun t => f (w.thread t)))

/-- A record with its header (R391). -/
def saveRecord (kind : Nat) (gid : Word) (body : List Byte) : List Byte :=
  let body := padTo (body.length + (64 - (body.length + 16) % 64) % 64) body
  toBytes 2 kind ++ [0, 0] ++ toBytes 4 ((body.length + 16) / 64) ++ toBytes 8 gid.toNat ++ body

/-- The registers of the context in a context record, by number (R392). -/
def Ctx.saved (c : Ctx) : List Word := [c.spillbase, c.spillsize, c.ctxctl, c.fqbase, c.fqctl, c.fqhead, c.fqtail, c.fqlost]

/-- A context record (R392). -/
def contextRecord (c : Ctx) (status total frozenAt ngang ntask : Nat) : List Byte :=
  saveRecord 1 0 (padTo 240 ([0x53, 0x4B, 0x46, 0x33, 1, BitVec.ofNat 8 status, 0, 0] ++ toBytes 8 total ++
    toBytes 8 frozenAt ++ toBytes 4 ngang ++ toBytes 4 ntask ++ wordBytes c.saved))

/-- The GID of a gang (R379). -/
def State.gangGid (s : State) (gk : Nat) (a : Gang) : Word :=
  match s.launch? a.launch with
  | some l => gidWord (if l.control then 3 else 0) l.ord a.idx 0 0 a.ctx
  | none => ((s.gangWaves gk).head?.map (fun e => s.gidOf e.2)).getD (gidWord 1 (((s.draw? a.launch).map (·.ord)).getD 0) 0 0 0 a.ctx)

/-- A gang record (R392). -/
def State.gangRecord (s : State) (gk : Nat) (a : Gang) (status : Nat) : List Byte :=
  let l : Option Launch := s.launch? a.launch
  let det := (l.map (fun (l : Launch) => l.obj.det)).getD false
  let logical := if det then a.idx % max 1 ((l.map (fun (l : Launch) => l.obj.ncore)).getD 1) else 0
  let arrivals := (List.range 24).flatMap (fun m => (List.range 32).flatMap (fun i =>
    toBytes 4 (((s.waves.find? (fun e => e.2.idx == i && e.2.kind != .access && some e.2.wg == a.members[m]?)).map
      (fun e => (tget 0 a.gbar e.1).toNat)).getD 0)))
  saveRecord 2 (s.gangGid gk a) (toBytes 8 a.idx ++ toBytes 1 a.members.length ++ toBytes 1 logical ++ toBytes 1 status ++
    List.replicate 37 0 ++ arrivals)

/-- Masks of a workgroup's 32 waves. -/
def State.waveMasks (s : State) (k : Nat) (t : Table Lanes) : List Byte :=
  (List.range 32).flatMap (fun i =>
    toBytes 4 (((s.waves.find? (fun e => e.2.wg == k && e.2.idx == i && e.2.kind != .access)).map (fun e => (tget 0 t e.1).toNat)).getD 0))

/-- A workgroup record (R393): its overflow area is written as zero. -/
def State.groupRecord (s : State) (k : Nat) (g : Workgroup) (gid : Word) : List Byte :=
  let a := s.allotOf g
  let bars := (List.range 16).flatMap (fun n =>
    let x : BarGen := (barOf g n).gens.headD { count := 0, arrivals := [] }
    toBytes 2 x.count ++ List.replicate 14 0 ++ s.waveMasks k x.arrivals)
  let convs := (List.range 16).flatMap (fun n =>
    let c := convOf g n
    let idx := ((s.wave? c.wave).map (·.idx)).getD 0
    toBytes 4 c.w.toNat ++ toBytes 2 (if c.isOpen then 2 ^ 15 + idx % 32 else 0) ++ [0, 0] ++ toBytes 8 c.pc.toNat ++ s.waveMasks k c.sigs)
  let fixed := toBytes 1 ((if g.full then 1 else 0) + (if g.acqAt then 2 else 0)) ++ toBytes 1 g.nwave ++ toBytes 2 g.size ++
    toBytes 2 a.spad ++ toBytes 2 g.tickets.length ++ toBytes 1 g.member ++ toBytes 1 g.stage
  saveRecord 3 gid (padTo 48 fixed ++ bars ++ convs ++ pad64 (wordBytes g.tickets) ++ padTo (256 * a.spad) (readTable g.spad 0 (s.window g)))

/-- A register in its tag's form (R24). -/
def Wave.savedReg (w : Wave) (r : Nat) : List Byte :=
  match w.tag r with
  | .u v => wordBytes [v]
  | .a base stride => wordBytes [base, stride]
  | .g => wordBytes ((List.range 32).map (w.reg r))
  | .h v => wordBytes [v]

def Tag.code : Tag → Nat
  | .u _ => 0
  | .a _ _ => 1
  | .g => 2
  | .h _ => 3

/-- The trap block of a wave (R394), before its padding. -/
def Wave.trapBlock (w : Wave) : List Byte :=
  wordBytes [w.trap.tcause, w.trap.tmask, w.trap.tpc, w.trap.taddr, w.trap.tinfo, w.trap.tfrom, w.trap.tword0, w.trap.tword1] ++
  eachLane w (·.tepc) ++ eachLane w (·.tcond) ++ wordBytes [if w.trap.inHandler then 1 else 0] ++ eachLane w (·.tscratch0) ++
  eachLane w (·.tscratch1) ++ eachLane w (·.tscratch2) ++ eachLane w (·.tscratch3) ++ wordBytes [w.trap.tfrom] ++
  padTo 64 (wordBytes w.trap.trec)

/-- A wave record (R394). -/
def State.waveRecord (s : State) (w : Wave) : List Byte :=
  let a := s.allot w
  let held := w.trapBlock
  let trapped := held.any (· != 0)
  let bits := fun (f : Nat → Bool) (n : Nat) => ((List.range n).filter f).foldl (fun x i => x + 2 ^ i) 0
  let masks := toBytes 4 w.present.toNat ++ toBytes 4 (maskOf ((List.range 32).filter (fun t => (w.thread t).exited))).toNat
  let fixed :=
    toBytes 8 w.retired ++ toBytes 8 w.fflags.toNat ++
    toBytes 64 ((List.range 256).foldl (fun x r => x + (w.tag r).code * 4 ^ r) 0) ++
    toBytes 32 (bits (fun r => tget 0 w.poison r != 0) 256) ++
    toBytes 16 ((List.range 32).foldl (fun x t => x + (w.thread t).cond.toNat * 16 ^ t) 0) ++ masks ++
    toBytes 1 (a.n / 8) ++ toBytes 1 (a.rows / 16) ++ toBytes 2 a.g ++ toBytes 1 w.mitten.length ++
    toBytes 1 ((if trapped then 1 else 0) + (if w.kind == .access then 2 else 0)) ++ toBytes 2 w.slot ++
    padTo 8 (w.queues.flatMap (fun q => toBytes 1 q.depth)) ++ padTo 8 (w.queues.flatMap (fun q => toBytes 1 q.entries.length)) ++
    toBytes 2 w.seqNext ++ toBytes 2 w.copySeq ++ toBytes 4 0 ++ wordBytes [w.trapbase] ++ List.replicate 64 0 ++
    padTo 128 ((w.joins.take 8).flatMap (fun j => toBytes 8 j.pc.toNat ++ toBytes 4 j.arrived.toNat ++ toBytes 4 (if j.isOpen then 1 else 0))) ++
    eachLane w (·.pc) ++ eachLane w (·.lsp)
  saveRecord 4 (s.gidOf w) (padTo 1008 fixed ++ pad64 ((List.range a.n).flatMap w.savedReg) ++
    (List.range a.rows).flatMap (fun i => (List.range 256).flatMap (fun j => toBytes 4 (w.cell i j).toNat)) ++
    w.queues.flatMap (fun q => q.entries.flatMap (fun e => padTo 256 (wordBytes ((e.getD []).take 32)))) ++
    w.mitten.flatMap (fun e => wordBytes (e.words w)) ++ w.mitten.flatMap Entry.operands ++ (if trapped then padTo 1792 held else []))

/-- A gang's record with its workgroups and their waves, each compute wave before its access wave (R391). -/
def State.gangSave (s : State) (gk : Nat) (a : Gang) (status : Nat) : List Byte :=
  s.gangRecord gk a status ++ a.members.flatMap (fun k =>
    match s.wg? k with
    | none => []
    | some g =>
      let ws := (s.waves.filter (fun e => e.2.wg == k)).map Prod.snd
      let gid := BitVec.ofNat 64 ((s.gangGid gk a).toNat + g.member * 2 ^ 16)
      s.groupRecord k g gid ++ (List.range 32).flatMap (fun i =>
        ((ws.filter (fun w => w.idx == i && w.kind != .access)) ++ ws.filter (fun w => w.idx == i && w.kind == .access)).flatMap
          s.waveRecord))

def State.isTaskGang (s : State) (a : Gang) : Bool := ((s.launch? a.launch).map (·.isTask)).getD false

/-- The stopped gangs of a freeze in the order of R391: the control workgroup, then ascending (ORD, gang index). -/
def State.saveOrder (s : State) (f : Freeze) : List (Nat × Gang) :=
  let gs := s.gangs.filter (fun e => f.gangs.contains e.1 && !s.isTaskGang e.2)
  let key := fun (e : Nat × Gang) =>
    match s.launch? e.2.launch with
    | some l => [if l.control then 0 else 1, l.ord, e.2.idx, e.1]
    | none => [1, ((s.draw? e.2.launch).map (·.ord)).getD 0, e.2.idx, e.1]
  gs.foldl (fun acc e => acc.filter (fun x => !lexLt (key e) (key x)) ++ [e] ++ acc.filter (fun x => lexLt (key e) (key x))) []

/-- Task waves of a freeze, by slot. -/
def State.saveTasks (s : State) (f : Freeze) : List Wave :=
  let ws := (s.waves.filter (fun e => e.2.kind == .task && (((s.wg? e.2.wg).map (fun g => f.gangs.contains g.gang)).getD false))).map Prod.snd
  (List.range 16384).flatMap (fun k => ws.filter (fun w => w.slot == k))

/-- The bytes of a save (DEDUCED, log 73). -/
def State.saveBytes (s : State) (f : Freeze) (status : Nat) : List Byte :=
  match f.gang with
  | some _ => (s.saveOrder f).flatMap (fun e => s.gangSave e.1 e.2 status)
  | none =>
    let gangs := s.saveOrder f
    let body := gangs.flatMap (fun e => s.gangSave e.1 e.2 0) ++ (s.saveTasks f).flatMap s.waveRecord
    match s.ctx? f.ctx with
    | none => body
    | some c => contextRecord c status (256 + body.length) f.frozenAt gangs.length (s.saveTasks f).length ++ body

/-- Requests the freeze of a unit, or joins the one that it is under: the freeze's key (R380, R382,
R397). A unit whose restore is placed and not complete stays stopped, and is saved again. -/
def State.requestFreeze (s : State) (ctx : Nat) (gang : Option Nat) (area : Nat) (requeue : Bool) (spare : Option Nat) : State × Nat :=
  let us := ((s.ctx? ctx).map (·.deadlineUs)).getD 200
  let due := s.dev.ptp + 1000 * us
  match s.freezeOf ctx gang with
  | some e =>
    if e.2.phase == 3 then
      let f := { e.2 with phase := 1, area, deadline := due, size := (s.saveBytes e.2 0).length }
      let s := { s with freezes := amod s.freezes e.1 (fun _ => f) }
      ((if e.2.gang.isNone then s.modCtx ctx (fun c => { c with st := .freezing }) else s), e.1)
    else (s, e.1)
  | none =>
    let f : Freeze := { ctx, gang, area, deadline := due, requeue, spare }
    let s := { s with freezes := s.freezes ++ [(s.nextKey, f)], nextKey := s.nextKey + 1 }
    ((if gang.isNone then s.modCtx ctx (fun c => { c with st := .freezing }) else s), s.nextKey - 1)

/-- The place of STATUS in a save area (R392). -/
def Freeze.statusAt (f : Freeze) : Nat := f.area + (if f.gang.isSome then 0x1A else 0x15)

/-- Every byte of a range can be written as partition memory of a context. -/
def State.writable (s : State) (ctx pa n : Nat) : Bool :=
  (List.range (n / 4096 + 2)).all (fun i =>
    let a := min (pa + 4096 * i) (pa + n - 1)
    n == 0 || (s.ctxHasPa ctx a && (s.served a).isSome))

/-! ### Reissue (R389) -/

/-- The run of an entry's original issue. -/
def Entry.run (e : Entry) (wid : Nat) (w : Wave) : Run :=
  { c := { wid, lanes := e.exec, pc := e.pc, w0 := e.w0, w1 := e.w1 }, w, ex := e.exec }

/-- Resolves an entry's addresses anew: the lanes that fail with the first cause, and the new locations. -/
def State.anew (s : State) (w : Wave) (e : Entry) (acc : Acc) (spaces : List Nat) (size align : Nat) : Lanes × Nat × List (Nat × Loc) :=
  let p := s.resolveAll w acc spaces size align e.ea
  (maskOf (p.1.map Prod.fst), ((worstFault (p.1.map (fun x => (x.1, x.2.2)))).map (fun x => x.1.cause)).getD 0, p.2)

/-- A load reads again, after the wave's earlier stores; lanes whose translation no longer holds leave a deferred fault. -/
def State.reissueLoad (s : State) (wid : Nat) (w : Wave) (e : Entry) (o : OpM) (spaces : List Nat) (n : Nat)
    (regs : Wave → Nat → Loc → List Byte → List Word) : State :=
  let w := { w with mitten := w.mitten.takeWhile (fun x => x.seq != e.seq) }
  let r := e.run wid w
  let a := s.anew w e accLoad spaces o.size.bytes o.size.bytes
  let p := s.sample e.ins r n e.ea a.2.2 (fun t bs => regs w t ((aget? a.2.2 t).getD (.mem 0)) bs)
  let failed := a.1 ||| p.2.1
  let e' := { e with loc := a.2.2, res := p.1, bad := p.2.2 }
  let s := (s.touch w.ctx (e.ea.map Prod.snd)).loaded e.ins r o n e.ea a.2.2
  if failed = 0 then s.modWave wid (fun w => w.modEntry e.seq (fun _ => e'))
  else
    let ok := e.exec &&& ~~~failed
    (s.modWave wid (fun w => if e.queue.isSome then w else Entry.write s e' ok p.2.2 w)).modWave wid (fun w =>
      w.modEntry e.seq (fun _ => { e' with st := .fault, orig := if a.1 = 0 then 0x05 else a.2.1, done := ok }))

/-- A store of the FIFO is sent, and held as T from then on; the accesses of a lane, one to each target for PXOUT, are
checked anew. -/
def State.reissueStore (s : State) (wid : Nat) (w : Wave) (e : Entry) (spaces : List Nat) (n : Nat) : State :=
  let a := s.anew w e accStore spaces n n
  let failed := maskOf ((List.range 32).filter (fun t => e.exec.getLsbD t && e.ea.any (fun x =>
    x.1 % 32 == t && !a.2.2.any (fun y => y.1 == x.1))))
  let s := s.touch w.ctx (e.ea.map Prod.snd)
  if failed = 0 then s.sendStore wid w { e with loc := a.2.2 }
  else
    let s := if a.2.2.isEmpty then s else s.sendStore wid w { e with loc := a.2.2, exec := e.exec &&& ~~~failed }
    s.modWave wid (fun w => w.modEntry e.seq (fun x => { x with
      st := .fault, cls := .t, orig := a.2.1, exec := e.exec, done := e.exec &&& ~~~failed }))

/-- A CHAIN whose translation fails at its reissue: its ticket is gone, and its chain is broken (R200, R389). -/
def State.breakChain (s : State) (wid : Nat) (w : Wave) (e : Entry) : State :=
  match s.launchOf w with
  | none => s
  | some (u, l) =>
    match l.chains.find? (fun c => c.tickets.any (fun t => t.wid == wid && t.entry == e.seq)) with
    | none => s
    | some c =>
      (s.modLaunch u (fun l => l.modChain c.loc c.wide (fun c =>
        { c with broken := true, tickets := c.tickets.filter (fun t => !(t.wid == wid && t.entry == e.seq)) }))).release wid e.exec
          (· == .chain)

/-- A T access that its memory side has, or waits to perform: only its translation is checked anew, for the lanes outside
DONE (R389; DEDUCED, log 73). -/
def State.reissueTagged (s : State) (wid : Nat) (w : Wave) (e : Entry) : State :=
  let acc := if storeFault e && !(e.ins matches .red _) then accStore else accAtomic
  let left := e.exec &&& ~~~e.done
  let p := s.resolveAll w acc [0, 1, 2, 3, 4] 1 1 (e.ea.filter (fun x => left.getLsbD (x.1 % 32)))
  let failed := maskOf (p.1.map (fun x => x.1 % 32))
  let orig := ((worstFault (p.1.map (fun x => (x.1, x.2.2)))).map (fun x => x.1.cause)).getD 0
  let ok := e.exec &&& ~~~failed
  let s := s.touch w.ctx (e.ea.map Prod.snd)
  if failed = 0 then s
  else
    let mark := fun (s : State) => s.modWave wid (fun w => (if e.st == .sent then Entry.write s e ok 0 w else w).modEntry e.seq
      (fun x => { x with st := .fault, orig, done := ok }))
    match e.ins with
    | .redb _ => s.redbFail wid w e failed orig
    | .faddo _ =>
      mark (s.modLaunch (((s.launchOf w).map Prod.fst).getD 0) (fun l => { l with
        faddo := l.faddo.filter (fun c => !(c.wid == wid && c.entry.seq == e.seq && failed.getLsbD c.lane)) }))
    | .chain _ => mark (s.breakChain wid w e)
    | .emit _ => if e.st == .issued then s else mark s
    | _ => mark s

/-- Reissues one entry by its class. An engine operation reads its operands anew; a copy is whole again, or goes on from
its cursor; what has been applied under its tag stays as it is. -/
def State.reissueEntry (s : State) (wid : Nat) (e : Entry) : State :=
  match s.wave? wid with
  | none => s
  | some w =>
    let put := fun (f : Entry → Entry) => s.modWave wid (fun w => w.modEntry e.seq f)
    if e.st == .fault then s
    else if e.isCopy then put (fun e => { e with reissued := true })
    else
      match e.ins with
      | .ld o => s.reissueLoad wid w e o ldSpaces o.size.bytes (fun w t loc bs =>
          let ws := wordsOf o.size.regs bs
          if spaceOf ((aget? e.ea t).getD 0) == 4 then ws ++ [s.tagAt w t loc] else ws)
      | .ldq o => s.reissueLoad wid w e o [0, 1, 2, 3, 4, 5] o.size.bytes (fun _ _ _ bs => wordsOf 1 bs)
      | .st o => if e.inFifo then s.reissueStore wid w e stSpaces o.size.bytes else s.reissueTagged wid w e
      | .stt _ => if e.inFifo then s.reissueStore wid w e [0, 4] 4096 else s.reissueTagged wid w e
      | .pxout _ => if e.inFifo then s.reissueStore wid w e [0, 4] 4 else s.reissueTagged wid w e
      | .acld o =>
        let base := match o.a.sa with | .reg x => x.toNat | _ => 0
        put (fun e => { e with vals := (lanesOf e.exec).map (fun t => (t, s.groupVals w e.ins t ((List.range (acGroup o.w1)).map (base + ·)))) })
      | .maskt o =>
        let a := match o.a.sa with | .reg x => x.toNat | _ => 0
        put (fun e => { e with vals := (List.range 32).map (fun t => (t, [s.regVal w t a])) ++ [(32, [s.lane0 w o.a.sb])] })
      | .mma _ | .mmag _ | .mmar _ | .mperm _ => put (fun e => { e with snap := [], latches := true })
      | .jrnl _ | .jtrunc _ => s.reissueRecord wid w.ctx e
      | _ => if e.cls == .t then s.reissueTagged wid w e else s

/-! ### Restore (R396) -/

/-- What a completed save holds of its unit. -/
def State.savedUnit (s : State) (f : Freeze) (bytes : List Byte) : SavedUnit :=
  let wgs := s.wgs.filter (fun e => f.gangs.contains e.2.gang)
  { ctx := f.ctx, gang := f.gang, area := f.area, bytes, wgs, waves := s.waves.filter (fun e => wgs.any (fun g => g.1 == e.2.wg))
    gangs := (s.gangs.filter (fun e => f.gangs.contains e.1)).map (fun e => (e.1, { e.2 with st := .saved })) }

/-- Keeps a completed save; those whose areas it has overwritten are gone. -/
def State.keepSave (s : State) (v : SavedUnit) : State :=
  { s with saves := s.saves.filter (fun x =>
      !(decide (x.area < v.area + v.bytes.length) && decide (v.area < x.area + x.bytes.length))) ++ [v] }

/-- The save of a freeze's unit that stands whole in an area (R419). -/
def State.saveAt (s : State) (f : Freeze) (pa : Nat) : Option SavedUnit :=
  s.saves.find? (fun v => v.ctx == f.ctx && v.gang == f.gang && v.area == pa && s.readPa pa v.bytes.length == v.bytes)

/-- Brings back what an earlier save of a unit holds of the gangs that the unit still has (DESIGN CHOICE, log 106). -/
def State.bringBack (s : State) (f : Freeze) (v : SavedUnit) : State :=
  let gks := (v.gangs.map Prod.fst).filter (fun k => f.gangs.contains k && (s.gang? k).isSome)
  let mine := fun (wg : Nat) => (s.wgs ++ v.wgs).any (fun e => e.1 == wg && gks.contains e.2.gang)
  let waves := s.waves.filter (fun e => !mine e.2.wg)
  { s with
    gangs := s.gangs.map (fun e => if gks.contains e.1 then (e.1, (aget? v.gangs e.1).getD e.2) else e)
    wgs := s.wgs.filter (fun e => !mine e.1) ++ v.wgs.filter (fun e => mine e.1)
    waves := waves ++ v.waves.filter (fun e => mine e.2.wg && !waves.any (fun x => x.1 == e.1)) }

/-- What a store into the save area leaves of a thread (R380). -/
def Thread.unspecified (th : Thread) (v : Nat → Word) : Thread :=
  if !th.present then th
  else
    { th with
      pc := v 0, cond := (v 1).setWidth 4, lsp := v 2, tepc := v 3, tcond := v 4, tscratch0 := v 5, tscratch1 := v 6
      tscratch2 := v 7, tscratch3 := v 8, exited := (v 9).getLsbD 0 }

/-- What a store into the save area leaves of a Mitten entry: it is there or not, with any operands (R380). -/
def Entry.unspecified (e : Entry) (v : Nat → Word) : Option Entry :=
  if (v 0).getLsbD 0 then none
  else
    some { e with
      exec := e.exec &&& (v 1).setWidth 32, done := e.done &&& (v 2).setWidth 32, addr := v 3
      ea := e.ea.map (fun x => (x.1, v (16 + x.1))), vals := e.vals.map (fun x => (x.1, x.2.mapIdx (fun i _ => v (128 + 64 * i + x.1))))
      res := e.res.map (fun x => (x.1, x.2.mapIdx (fun i _ => v (8192 + 64 * i + x.1)))) }

/-- What a store into the save area leaves of a wave: nothing is specified (R380). -/
def State.unspecify (s : State) (wid : Nat) : State :=
  match s.wave? wid with
  | none => s
  | some w =>
    let a := s.allot w
    let v := fun (base k : Nat) => s.free (65536 * base + k)
    let bits := fun (base : Nat) (n : Nat) => (List.range n).filter (fun k => (v base k).getLsbD 0)
    (s.modWave wid (fun w => { w with
      regs := (List.range a.n).foldl (fun m r => (List.range 32).foldl (fun m t => tset 0 m (32 * r + t) (v 0 (32 * r + t))) m) []
      acc := (List.range a.rows).foldl (fun m i => (List.range 256).foldl (fun m j =>
        tset 0 m (256 * i + j) ((v 1 (256 * i + j)).setWidth 32)) m) []
      tags := (List.range a.n).foldl (fun m r => tset (.u 0) m r .g) []
      poison := (bits 2 a.n).foldl (fun m r => tset 0 m r (v 3 r)) []
      fflags := v 4 0 &&& fflagsMask, retired := (v 4 1).toNat, trapbase := v 4 2, seqNext := (v 4 3).toNat % 4096
      copySeq := (v 4 4).toNat % 1024
      queues := w.queues.mapIdx (fun q x => { x with
        entries := (List.range ((v 5 q).toNat % (x.depth + 1))).map (fun e => some ((List.range 32).map (fun t => v 6 (1024 * q + 32 * e + t)))) })
      joins := w.joins.mapIdx (fun i j => { j with pc := v 7 i, arrived := (v 8 i).setWidth 32 })
      mitten := (w.mitten.mapIdx (fun i e => e.unspecified (v (16 + i)))).filterMap id
      trap := { tcause := v 9 0, tmask := v 9 1, tpc := v 9 2, taddr := v 9 3, tinfo := v 9 4, tfrom := v 9 5, tword0 := v 9 6
                tword1 := v 9 7, inHandler := (v 9 8).getLsbD 0, trec := (List.range 8).map (v 10) }
      threads := w.threads.mapIdx (fun t th => th.unspecified (fun k => v 11 (64 * k + t))) })).useFree

/-- What a store into the save area leaves of a workgroup: its window, and its barrier and convergence arrivals. -/
def State.unspecifyGroup (s : State) (k : Nat) : State :=
  match s.wg? k with
  | none => s
  | some g =>
    let v := fun (base i : Nat) => s.free (65536 * base + i)
    let masks := fun (base : Nat) (t : Table Lanes) => t.mapIdx (fun i e => (e.1, (v base i).setWidth 32))
    (s.modWg k (fun h => { h with
      spad := (List.range (s.window g)).foldl (fun m i => tset 0 m i ((v 0 i).setWidth 8)) []
      bars := h.bars.mapIdx (fun n b => { gens := b.gens.mapIdx (fun i x =>
        { count := (v 1 (32 * n + i)).toNat % 1025, arrivals := masks (16 + n) x.arrivals }) })
      convs := h.convs.mapIdx (fun n c => { c with w := (v 2 n).setWidth 32, pc := v 3 n, sigs := masks (32 + n) c.sigs })
      tickets := h.tickets.mapIdx (fun i _ => v 4 i) })).useFree

/-- The members of a saved gang, with what they hold. -/
def State.membersOf (s : State) (a : Gang) : List (Allot × Nat × Nat) :=
  a.members.filterMap (fun k => (s.wg? k).map (fun g => (s.allotOf g, g.quad, g.nwave)))

/-- The lanterns on which a saved gang may be placed: any of its partition (R396); a wave of a task or a draw stays with
its lantern's tasks and held records (R382). -/
def State.lanternsFor (s : State) (a : Gang) : List Nat :=
  match s.launch? a.launch with
  | some l => if l.isTask then [a.core / 24] else s.partLanterns (s.partOfCtx a.ctx)
  | none => [a.core / 24]

/-- Puts a saved gang on cores. Its request for ACQ is placed anew, and its rotation begins again (R34, R425). -/
def State.putGang (s : State) (gk : Nat) (a : Gang) (cores : List Nat) : State :=
  let core := fun (k : Nat) => cores.getD ((a.members.findIdx? (· == k)).getD 0) 0
  let s := { s with
    wgs := s.wgs.map (fun (e : Nat × Workgroup) => if a.members.contains e.1 then (e.1, { e.2 with core := core e.1 }) else e)
    waves := s.waves.map (fun (e : Nat × Wave) => if a.members.contains e.2.wg then (e.1, { e.2 with core := core e.2.wg }) else e) }
  s.modGang gk (fun a => { a with core := cores.getD 0 0, st := .frozen, turn := 0, acqAt := none })

/-- Places a saved gang, if it fits. -/
def State.placeSaved (s : State) (gk : Nat) : Option State :=
  match s.gang? gk with
  | none => none
  | some a =>
    if a.st != .saved then none
    else ((s.lanternsFor a).findSome? (fun l => s.placeOn l (s.membersOf a))).map (s.putGang gk a)

/-- A freeze serves a sleep, and a JPART runs again (R309, R423). -/
def Thread.thawed (th : Thread) : Thread :=
  match th.wait with
  | .sleep _ => { th with wait := .none, pc := th.pc + 8, readyAt := 0 }
  | .jpart _ _ _ => { th with wait := .none, readyAt := 0 }
  | _ => th

/-- What is not saved begins anew (R394): the Palm, the latches, and what the matrix engines had not seen. -/
def Wave.fresh (w : Wave) (clk : Nat) : Wave :=
  { w with
    palm := [], latchA := {}, latchB := {}, loose := [], fenced := w.regs, yieldAt := 0, readySince := [], overdue := [], admitted := clk
    threads := w.threads.map (fun th => { th.thawed with readyAt := 0 }) }

/-- Waves of placed gangs go on: entries reissued in order, tags unpinned, then issue (R389, R396). -/
def State.resumeGangs (s : State) (gks : List Nat) (spoiled : Bool) : State :=
  let ws := (s.waves.filter (fun e => gks.any (fun k => ((s.wg? e.2.wg).map (·.gang)) == some k)))
  let s := if spoiled then
    (gks.flatMap (fun k => ((s.gang? k).map (·.members)).getD [])).foldl State.unspecifyGroup (ws.foldl (fun s e => s.unspecify e.1) s) else s
  let s := ws.foldl (fun s e => s.modWave e.1 (fun w => w.fresh s.dev.clk)) s
  let s := ws.foldl (fun s e => e.2.mitten.foldl (fun s m => s.reissueEntry e.1 m) s) s
  let s := { s with
    tagrecs := s.tagrecs.map (fun (r : TagRec) => if ws.any (fun e => r.isOf e.2) then { r with pinned := false } else r)
    waves := s.waves.map (fun (e : Nat × Wave) => if ws.any (fun x => x.1 == e.1) then (e.1, { e.2 with frozen := false }) else e) }
  gks.foldl (fun s k => s.modGang k (fun a => { a with st := .admitted })) s

/-- A gang that resumes while its context is stopped or saved stays with it: the context's freeze takes it over. -/
def State.stopAgain (s : State) (gk : Nat) : State :=
  match (s.gang? gk).bind (fun a => s.freezes.find? (fun e => e.2.ctx == a.ctx && e.2.gang.isNone && e.2.phase != 0)) with
  | none => s
  | some e =>
    let s := s.stopGang gk
    let s := if 2 ≤ e.2.phase then s.modGang gk (fun a => { a with st := .saved }) else s
    { s with freezes := amod s.freezes e.1 (fun f => { f with gangs := f.gangs ++ [gk] }) }

/-- A stopped unit resumes in place: nothing was discarded, so nothing is reissued (R395). -/
def State.resumeInPlace (s : State) (f : Nat) : State :=
  match aget? s.freezes f with
  | none => s
  | some x =>
    let mine := fun (wg : Nat) => ((s.wg? wg).map (fun g => x.gangs.contains g.gang)).getD false
    let ws := s.waves.filter (fun e => mine e.2.wg)
    let s := s.answerFreeze f 0x07
    let s := { s with
      tagrecs := s.tagrecs.map (fun (r : TagRec) => if ws.any (fun e => r.isOf e.2) then { r with pinned := false } else r)
      waves := s.waves.map (fun (e : Nat × Wave) => if ws.any (fun x => x.1 == e.1) then
        (e.1, { e.2 with frozen := false, threads := e.2.threads.map Thread.thawed }) else e) }
    let s := x.gangs.foldl (fun s k => s.modGang k (fun a => { a with st := .admitted })) s
    let held := x.gang.isSome && ((s.ctx? x.ctx).map (fun c => c.st != .running)).getD false
    let s := if held then x.gangs.foldl State.stopAgain s else s
    let s := if x.gang.isNone then s.modCtx x.ctx (fun c => { c with st := .running }) else s
    { s with freezes := adel s.freezes f }

end Sys2Proof.Machine
end

