-- ==== Sys2Proof/Machine/Recovery.lean ====
section
/-!
DEFINITION. TRAP, BRK and TRET (spec/22 R416, R417), the illegal opcode (spec/03 R53), FRZ and THAW (R418, R419).
-/

namespace Sys2Proof.Machine

/-! ### TRAP, BRK and TRET -/

/-- TRAP (R416): the group resumes after it. -/
def execTrap (o : OpI) (s : State) : Host.Outcome State Fault Refusal :=
  s.issue (.trap o) noWait (fun s r =>
    let t := s.finish (.trap o) r
    if r.ex = 0 then t else t.takeTrap r.c.wid r.c.lanes (fun _ => nextPc (.trap o) r) (r.trap 0x11 r.ex))

/-- BRK (R416): the group resumes at it. -/
def execBrk (o : OpI) (s : State) : Host.Outcome State Fault Refusal :=
  s.issue (.brk o) noWait (fun s r =>
    if r.ex = 0 then s.finish (.brk o) r else s.precise r (r.trap 0x10 r.ex))

/-- TRET (R417): illegal outside a handler; its group stops until every thread of the wave has reached a TRET. -/
def execTret (o : OpA) (s : State) : Host.Outcome State Fault Refusal :=
  s.issue (.tret o) noWait (fun s r =>
    if !r.w.trap.inHandler then s.precise r (r.trap 0x01 r.c.lanes)
    else (s.finishWait (.tret o) r (fun _ => .tret)).tryTret r.c.wid)

/-! ### The illegal opcode -/

/-- ILL (R53; DEDUCED, log 92). -/
def execIll (s : State) : Host.Outcome State Fault Refusal :=
  match s.run? .ill with
  | none => .next { s with cur := none }
  | some r => .next (s.precise r (r.trap 0x01 r.c.lanes))

/-! ### FRZ (R418) -/

/-- The gang that FRZ's SC names: the one whose GID agrees in KIND, ORD and UNIT. -/
def State.gangNamed (s : State) (ctx : Nat) (gid : Word) : Option Nat :=
  (s.gangs.find? (fun e => e.2.ctx == ctx && e.2.st != .retired && !s.isTaskGang e.2 &&
    (if (s.launch? e.2.launch).isSome then [s.gangGid e.1 e.2] else (s.gangWaves e.1).map (fun w => s.gidOf w.2)).any
      (fun g => g.toNat / 2 ^ 24 == gid.toNat / 2 ^ 24))).map Prod.fst

/-- SA has a bit set that must be zero. -/
def unitReserved (a : Word) : Bool := a &&& 0xFFFFFFFFFFFFFEC0 != 0

def unitCtx (a : Word) : Nat := a.toNat % 64
def unitGang (a : Word) : Bool := a.getLsbD 8

/-- The context of a unit is context 0, or of another partition than the issuing wave's (DEDUCED, log 7). -/
def State.unitOutside (s : State) (w : Wave) (k : Nat) : Bool := k == 0 || (w.ctx != 0 && s.partOfCtx k != s.partOfCtx w.ctx)

/-- The area is misaligned or outside the issuing context's partition memory. -/
def State.areaBad (s : State) (w : Wave) (pa : Word) : Bool := pa.toNat % 4096 != 0 || !s.ctxHasPa w.ctx pa.toNat

/-- What FRZ finds: a status, or the unit to be frozen. -/
def State.frzStatus (s : State) (w : Wave) (a b c : Word) : Nat × Option Nat :=
  let k := unitCtx a
  let gang := if unitGang a then s.gangNamed k c else none
  let own := k == w.ctx && (!unitGang a || gang == ((s.wg? w.wg).map (·.gang)))
  if unitReserved a || (s.ctx? k).isNone || (unitGang a && gang.isNone) then (2, none)
  else if s.unitOutside w k then (3, none)
  else if own then (4, none)
  else if s.areaBad w b then (5, none)
  else
    match s.freezeOf k gang with
    | some (_, f) => if f.phase == 2 then (if f.area == b.toNat then (0, none) else (6, none)) else (0x100, gang)
    | none => (0x100, gang)

/-- FRZ (R418): a status at once, or the request, for which the group waits. -/
def execFrz (o : OpA) (s : State) : Host.Outcome State Fault Refusal :=
  s.issue (.frz o) noWait (fun s r =>
    let v := s.srcVals r.w (.frz o) r.low
    if r.ex = 0 then s.finish (.frz o) r
    else
      match s.frzStatus r.w (v.getD 0 0) (v.getD 1 0) (v.getD 2 0) with
      | (0x100, gang) =>
        let p := s.requestFreeze (unitCtx (v.getD 0 0)) gang (v.getD 1 0).toNat false none
        -- the whole group stops; threads whose guard failed receive no status
        p.1.finishWait (.frz o) { r with ex := r.c.lanes } (fun t => .freeze p.2 (if r.ex.getLsbD t then o.d.toNat else 256))
      | (st, _) => s.answer (.frz o) r o.d st)

/-! ### THAW (R396, R419) -/

/-- The first record of a context's save area passes its checks; one that a program has overwritten may pass or not. -/
def State.contextSaved (s : State) (pa : Nat) : Bool :=
  let b := s.readPa pa 64
  !s.badPa pa 64 && (b.drop 0x10).take 6 == [0x53, 0x4B, 0x46, 0x33, 1, 1]

/-- The gang that a gang record names, where the record passes its checks. -/
def State.gangSaved (s : State) (ctx pa : Nat) : Option Nat :=
  let b := s.readPa pa 64
  let gid := BitVec.ofNat 64 (leNat ((b.drop 8).take 8))
  if s.badPa pa 64 || leNat (b.take 2) != 2 || b.getD 0x1A 0 != 1 || gid.toNat % 64 != ctx then none
  else some ((s.gangNamed ctx gid).getD 0)

/-- Places the restore of a saved unit, or resumes a stopped one in place: the status. An area that holds no whole save of
the unit leaves the restore unspecified (DESIGN CHOICE, log 106). -/
def State.placeRestore (s : State) (e : Nat × Freeze) (pa : Nat) : State × Nat :=
  let f := e.2
  if f.phase ≤ 1 then (s.resumeInPlace e.1, 0)
  else if f.phase == 3 || f.requeue then (s, 2)
  else
    let earlier := if f.area == pa then none else s.saveAt f pa
    let spoiled := if f.area == pa then f.spoiled else earlier.isNone
    let s := (earlier.map (s.bringBack f)).getD s
    ({ s with freezes := amod s.freezes e.1 (fun x => { x with phase := 3, spoiled }) }, 0)

/-- THAW's status and effect; `part` tells whether the context lies outside the requester's partition. -/
def State.thawUnit (s : State) (ctx : Nat) (gang : Bool) (pa : Nat) (outside areaBad : Bool) : State × Nat :=
  if (s.ctx? ctx).isNone then (s, 2)
  else if outside then (s, 3)
  else if areaBad then (s, 5)
  else
    let spoilt := s.inSaveArea pa && s.freezes.any (fun e => e.2.area == pa && e.2.spoiled) && s.freeBit (freeAt 346 0)
    if !gang then
      match s.freezeOf ctx none with
      | none => (s, 2)
      | some e =>
        if e.2.phase == 3 then (s, 2)
        else if e.2.phase == 2 && (spoilt || !s.contextSaved pa) then (s, 7)
        else s.placeRestore e pa
    else
      match s.freezes.find? (fun e => e.2.ctx == ctx && e.2.gang.isSome && e.2.area == pa && decide (e.2.phase ≤ 1)) with
      | some e => (s.resumeInPlace e.1, 0)
      | none =>
        match s.gangSaved ctx pa with
        | none => (s, 7)
        | some gk =>
          match s.freezes.find? (fun e => e.2.ctx == ctx && e.2.gang == some gk) with
          | none => (s, 2)
          | some e => if spoilt then (s, 7) else s.placeRestore e pa

/-- THAW (R419). -/
def execThaw (o : OpA) (s : State) : Host.Outcome State Fault Refusal :=
  s.issue (.thaw o) noWait (fun s r =>
    let v := s.srcVals r.w (.thaw o) r.low
    let a := v.getD 0 0
    let k := unitCtx a
    if r.ex = 0 then s.finish (.thaw o) r
    else if unitReserved a then s.answer (.thaw o) r o.d 2
    else
      let p := s.thawUnit k (unitGang a) (v.getD 1 0).toNat (s.unitOutside r.w k) (s.areaBad r.w (v.getD 1 0))
      p.1.answer (.thaw o) r o.d p.2)

end Sys2Proof.Machine
end

