-- ==== Sys2Proof/Machine/Freezing.lean ====
section
/-!
DEFINITION. The events of freezing (spec/20): the stop, the end of a save, the deadline, the restore, the pre-emption of
a gang for ACQ (spec/02 R34) and the sparing of a core; and the end of a context (spec/18 R357).
-/

namespace Sys2Proof.Machine

/-! ### FREEZE_STOP (R381) -/

/-- Writes the STATUS byte of a save area, where it can be written. -/
def State.putStatus (s : State) (f : Freeze) (status : Nat) : State :=
  if s.writable f.ctx f.statusAt 1 then s.writePa f.statusAt (toBytes 1 status) else s

/-- Begins the save of a unit whose waves are all stopped: the first record stands with STATUS 0
(DEDUCED, log 73). -/
def State.beginSave (s : State) (k : Nat) (f : Freeze) : State :=
  let f := { f with phase := 1, frozenAt := s.dev.ptp }
  let bytes := s.saveBytes f 0
  let n := if f.gang.isSome then 64 else 256
  let s := { s with freezes := amod s.freezes k (fun _ => { f with size := bytes.length }) }
  if s.writable f.ctx f.area n then s.writePa f.area (bytes.take n) else s

/-- FREEZE_STOP (R381, R425): the gangs of the unit that can stop now do so; the last one begins the save. -/
def execFreezeStop (k : Nat) (s : State) : Host.Outcome State Fault Refusal :=
  match aget? s.freezes k with
  | none => .next s
  | some f =>
    if f.phase != 0 then .next s
    else
      let gs := (s.unitRunning f).filter (fun e => s.turnEnded e.1 e.2)
      let s' := gs.foldl (fun s e => s.stopGang e.1) s
      let f := { f with gangs := f.gangs ++ gs.map Prod.fst }
      if (s'.unitRunning f).isEmpty then .next (s'.beginSave k f)
      else .next { s' with freezes := amod s'.freezes k (fun _ => f) }

/-! ### SAVE_COMPLETE (R395) -/

/-- The save waits for nothing more: no surplus of pins, no access at a node that keeps no tags, an area that can be
written (R387, R388, R398). -/
def State.saveReady (s : State) (f : Freeze) : Bool :=
  !s.pinSurplus && s.writable f.ctx f.area f.size &&
  s.waves.all (fun e => !(((s.wg? e.2.wg).map (fun g => f.gangs.contains g.gang)).getD false) || e.2.mitten.all (fun m => !s.tagless m))

/-- A pre-empted gang returns to its launch's queue (R34); a wave of a task or a draw waits for a core of its lantern. -/
def State.requeueGang (s : State) (k gk : Nat) : State :=
  match s.gang? gk with
  | none => s
  | some a =>
    let queued := ((s.launch? a.launch).map (fun l => !l.isTask)).getD false
    if queued then s.modLaunch a.launch (fun l => { l with
      returned := sortNat (a.idx :: l.returned)
      waitSince := if l.returned.isEmpty && decide (l.gangs ≤ l.nextGang) then s.dev.clk else l.waitSince
      since := if l.control then s.dev.clk else l.since })
    else { s with freezes := amod s.freezes k (fun f => { f with phase := 3 }) }

/-- SAVE_COMPLETE (R395): the whole save stands in its area with STATUS 1, the unit's cores are free, and the freeze
answers 0x00. -/
def execSaveComplete (k : Nat) (s : State) : Host.Outcome State Fault Refusal :=
  match aget? s.freezes k with
  | none => .next s
  | some f =>
    if f.phase != 1 || !s.saveReady f then .next s
    else
      let bytes := s.saveBytes f 1
      let s := (s.writePa f.area bytes).keepSave (s.savedUnit f bytes)
      let s := f.gangs.foldl (fun s g => s.modGang g (fun a => { a with st := .saved })) s
      let s := if f.gang.isNone then s.modCtx f.ctx (fun c => { c with st := .frozen f.area }) else s
      let s := { s with freezes := amod s.freezes k (fun f => { f with phase := 2 }) }
      let s := s.answerFreeze k 0
      .next (if f.requeue then f.gangs.foldl (fun s g => s.requeueGang k g) s else s)

/-! ### The end of a context (R38, R357) -/

/-- Takes a context's tasks, watches and granted counters from a lantern. -/
def Lantern.forget (l : Lantern) (lan ctx : Nat) (grant : List (Nat × Nat × Nat)) : Lantern :=
  let mine := fun (k : Nat) => grant.any (fun g => g.1 == lan && decide (g.2.1 ≤ k) && decide (k ≤ g.2.2))
  { l with
    ctrs := l.ctrs.filter (fun e => !mine e.1)
    tasks := l.tasks.filter (fun k => k.ctx != ctx)
    watches := l.watches.filter (fun v => v.ctx != ctx) }

/-- Stops a context's work at once, wipes what it holds on the chip and drops its translations (R357). A freeze of it
that runs is abandoned with STATUS 2 (R397). -/
def State.destroyCtx (s : State) (ctx : Nat) : State :=
  match s.ctx? ctx with
  | none => s
  | some c =>
    let runs := s.freezes.filter (fun e => e.2.ctx == ctx && decide (e.2.phase ≤ 1))
    let s := runs.foldl (fun s e => (s.putStatus e.2 2).answerFreeze e.1 1) s
    let s := s.dropTlb (fun t => t.asid == ctx)
    { s with
      waves := s.waves.filter (fun e => e.2.ctx != ctx)
      wgs := s.wgs.filter (fun e => e.2.ctx != ctx)
      gangs := s.gangs.filter (fun e => e.2.ctx != ctx)
      launches := s.launches.filter (fun e => e.2.ctx != ctx)
      draws := s.draws.filter (fun e => e.2.ctx != ctx)
      recs := s.recs.filter (fun e => e.2.ctx != ctx)
      lanterns := s.lanterns.mapIdx (fun i l => l.forget i ctx c.grant)
      settling := s.settling.filter (fun x => x.ctx != ctx)
      icache := s.icache.filter (fun l => l.asid != ctx)
      tagrecs := s.tagrecs.filter (fun r => r.ctx != ctx)
      pins := s.pins.filter (fun p => p.2 != ctx)
      windows := s.windows.filter (fun v => v.ctx != some ctx)
      freezes := s.freezes.filter (fun e => e.2.ctx != ctx)
      saves := s.saves.filter (fun v => v.ctx != ctx)
      oldLevels := s.oldLevels.filter (fun e => e.1 % 64 != ctx)
      ctxs := adel s.ctxs ctx
      cur := none }

/-! ### FREEZE_DEADLINE (R397) -/

/-- FREEZE_DEADLINE (R397): a unit that is not saved in time is forcibly reset, and its context is destroyed. -/
def execFreezeDeadline (k : Nat) (s : State) : Host.Outcome State Fault Refusal :=
  match aget? s.freezes k with
  | none => .next s
  | some f =>
    if decide (1 < f.phase) || decide (s.dev.ptp < f.deadline) then .next s
    else .next ((s.destroyCtx f.ctx).report evForcedReset)

/-! ### RESTORE (R396) -/

/-- One step of a placed restore: a saved gang is placed, or, once all are, the unit goes on; none while it must wait. -/
def State.tryRestore (s : State) (k : Nat) : Option State :=
  match aget? s.freezes k with
  | none => none
  | some f =>
    let waits := f.gang.isSome && ((s.ctx? f.ctx).map (fun c => c.st != .running)).getD false
    if f.phase != 3 || waits then none
    else
      let order := (s.saveOrder f).map Prod.fst ++ f.gangs.filter (fun g => ((s.gang? g).map s.isTaskGang).getD false)
      match order.filter (fun g => ((s.gang? g).map (fun a => a.st == .saved)).getD false) with
      | [] =>
        let s := s.resumeGangs order f.spoiled
        let s := if f.gang.isNone then s.modCtx f.ctx (fun c => { c with st := .running }) else s
        some { s with freezes := adel s.freezes k }
      | l => l.findSome? s.placeSaved

/-- RESTORE (R396). -/
def execRestore (f : Nat) (s : State) : Host.Outcome State Fault Refusal := .next ((s.tryRestore f).getD s)

/-! ### ACQ_PREEMPTION (R34) -/

/-- The gang to be pre-empted for the oldest request of a core: the youngest that waits at ACQ on a core of the request,
when the request cannot be met even after every full allotment there has been returned. One goes at a time. -/
def State.acqVictim (s : State) (core : Nat) : Option (Nat × Gang) :=
  match s.oldestRequest core with
  | none => none
  | some (gk, a) =>
    let cores := (s.acqMembers a).map (fun m => m.2.core)
    let onThem := fun (b : Gang) => b.members.any (fun k => ((s.wg? k).map (fun g => cores.contains g.core)).getD false)
    let going := s.freezes.any (fun f => decide (f.2.phase ≤ 1) && f.2.requeue && (((f.2.gang.bind s.gang?).map onThem).getD false))
    if s.acqFits a (fun g => g.full) || going then none
    else
      (cores.flatMap s.requests).foldl (fun (b : Option (Nat × Gang)) e =>
        if e.1 = gk then b
        else match b with
          | none => some e
          | some x => if x.2.acqAt.getD 0 < e.2.acqAt.getD 0 then some e else some x) none

/-- ACQ_PREEMPTION (R34): the victim is frozen into its context's pre-emption area. -/
def execAcqPreemption (core : Nat) (s : State) : Host.Outcome State Fault Refusal :=
  match s.acqVictim core with
  | none => .next s
  | some (gk, a) => .next (s.requestFreeze a.ctx (some gk) (((s.ctx? a.ctx).map (·.parea)).getD 0) true none).1

/-! ### CORE_SPARING (R399) -/

/-- Gangs that hold a core. -/
def State.gangsOn (s : State) (core : Nat) : List (Nat × Gang) :=
  s.gangs.filter (fun e => e.2.holds && e.2.members.any (fun k => ((s.wg? k).map (fun g => g.core == core)).getD false))

/-- Puts the lowest spare of the lantern at a core's place, or leaves the place without a core (DEDUCED, log 74). -/
def State.replaceCore (s : State) (core : Nat) : State :=
  let pos := core % 24
  let spare := ((s.lanterns[core / 24]?).bind (fun l => l.spares.head?))
  let s := s.modLantern (core / 24) (fun l => { l with
    failing := l.failing.filter (· != pos)
    spares := l.spares.drop 1
    ring := match l.spares.head? with
      | some p => aset l.ring pos p
      | none => adel l.ring pos })
  if spare.isNone then s.report evCoreLost else s

/-- CORE_SPARING (R399): a failing core admits nothing; the gangs on it are frozen; once none holds it, it is replaced
(DEDUCED, log 74). -/
def execCoreSparing (core : Nat) (s : State) : Host.Outcome State Fault Refusal :=
  if !s.activeCore core && !((s.lanterns[core / 24]?).map (fun l => l.failing.contains (core % 24))).getD false then .next s
  else
    let s := s.modLantern (core / 24) (fun l => if l.failing.contains (core % 24) then l else { l with failing := l.failing ++ [core % 24] })
    let on := s.gangsOn core
    if on.isEmpty then .next (s.replaceCore core)
    else
      .next ((on.filter (fun e => e.2.st == .admitted)).foldl (fun s e =>
        (s.requestFreeze e.2.ctx (some e.1) (((s.ctx? e.2.ctx).map (·.parea)).getD 0) true (some core)).1) s)

end Sys2Proof.Machine
end

