-- ==== Sys2Proof/Machine/Admission.lean ====
section
/-!
DEFINITION. The launch arbiters (spec/11 R232-R237, R242): effective levels and aging, the order of candidates,
placement and admission; and the overdue groups of R241.
-/

namespace Sys2Proof.Machine

/-! ### Levels (R232, R233) -/

/-- A launch's base level. -/
def State.baseLevel (s : State) (l : Launch) : Nat := min 23 (((s.ctx? l.ctx).map (·.level)).getD 0 + l.delta)

/-- A launch's effective level: no lower than 4, no higher than its base level (DEDUCED, log 82). -/
def State.effectiveLevel (s : State) (l : Launch) : Nat :=
  let b := s.baseLevel l
  min b (max 4 (b - l.aged))

/-- A launch in Queued or Admitting: a gang of it waits for admission (R231). -/
def Launch.queued (l : Launch) : Bool := !l.gone && !l.isTask && (!l.returned.isEmpty || decide (l.nextGang < l.gangs))

/-- LAUNCH_AGING is due (R233). -/
def State.agingDue (s : State) (l : Launch) : Bool :=
  l.queued && decide (l.aged < 20) && decide (l.since + (l.aged + 1) * Config.ticks50us ≤ s.dev.clk)

/-- LAUNCH_AGING (R233). -/
def execLaunchAging (u : Nat) (s : State) : Host.Outcome State Fault Refusal :=
  match s.launch? u with
  | none => .next s
  | some l => if s.agingDue l then .next (s.modLaunch u (fun l => { l with aged := l.aged + 1 })) else .next s

/-- LAUNCH_BLOCKING is due (R236). -/
def State.blockingDue (s : State) (l : Launch) : Bool :=
  l.queued && l.blockingAt.isNone && decide (l.waitSince + Config.ticks400us ≤ s.dev.clk)

/-- LAUNCH_BLOCKING (R236). -/
def execLaunchBlocking (u : Nat) (s : State) : Host.Outcome State Fault Refusal :=
  match s.launch? u with
  | none => .next s
  | some l => if s.blockingDue l then .next (s.modLaunch u (fun l => { l with blockingAt := some s.dev.clk })) else .next s

/-! ### Candidates (R234, R236) -/

/-- The saved gang of a launch with an index. -/
def State.savedGang (s : State) (u idx : Nat) : Option (Nat × Gang) :=
  s.gangs.find? (fun e => e.2.launch == u && e.2.idx == idx && e.2.st == .saved)

/-- The saved gang of a launch with an index was taken from a failing core (R399). -/
def State.spared (s : State) (u idx : Nat) : Bool :=
  ((s.savedGang u idx).map (fun e => s.freezes.any (fun f => f.2.gang == some e.1 && f.2.spare.isSome))).getD false

/-- The gang of a launch that is considered next: one from a failing core, then one that was pre-empted, then one that was
never admitted. -/
def State.candidate (s : State) (u : Nat) (l : Launch) : Nat :=
  ((l.returned.find? (s.spared u)).getD (l.returned.headD l.nextGang))

/-- A launch's candidate comes from a failing core. -/
def State.sparedFirst (s : State) (u : Nat) (l : Launch) : Bool := l.returned.any (s.spared u)

/-- Place of a launch in the order of R234: level, gangs from a failing core, context in round robin, control workgroup,
placement (DEDUCED, log 82). The first round at a level begins at context 0 (DESIGN CHOICE, log 108). -/
def State.candidateKey (s : State) (part u : Nat) (l : Launch) : List Nat :=
  let lvl := s.effectiveLevel l
  let last := ((s.parts[part]?).map (fun p => tget 0 p.served lvl)).getD 0
  let turn := (l.ctx + 64 - last) % 64
  [lvl, if s.sparedFirst u l then 0 else 1, turn, if l.control then 0 else 1, u]

/-- Launches of a partition with a waiting gang, whose contexts are not frozen. -/
def State.queuedIn (s : State) (part : Nat) : List (Nat × Launch) :=
  s.launches.filter (fun e => e.2.queued && ((s.ctx? e.2.ctx).map (fun c => c.part == part && c.st == .running)).getD false)

/-- Sorts by keys. -/
def sortBy {α : Type} (key : α → List Nat) (l : List α) : List α :=
  l.foldl (fun acc e => acc.filter (fun x => !lexLt (key e) (key x)) ++ [e] ++ acc.filter (fun x => lexLt (key e) (key x))) []

/-- The candidates in the order in which they are considered (R234, R236): blocking launches in the order in which they
became blocking; without one, or before every one in R234's order, the others (DEDUCED, log 82). -/
def State.candidates (s : State) (part : Nat) : List (Nat × Launch) :=
  let key := fun (e : Nat × Launch) => s.candidateKey part e.1 e.2
  let l := s.queuedIn part
  let blocking := l.filter (fun e => e.2.blockingAt.isSome)
  let others := l.filter (fun e => e.2.blockingAt.isNone && blocking.all (fun b => lexLt (key e) (key b)))
  let order := sortBy (fun e => e.2.blockingAt.getD 0 :: key e) blocking ++ sortBy key others
  -- a gang from a failing core stands before every other candidate of its level (R399)
  let level := fun (e : Nat × Launch) => s.effectiveLevel e.2
  let spared := sortBy key (l.filter (fun e => s.sparedFirst e.1 e.2))
  let rest := order.filter (fun e => !s.sparedFirst e.1 e.2)
  let ahead := fun (x : Nat × Launch) => spared.filter (fun e => level e == level x)
  let levels := (rest.map level).eraseDups
  let firsts := levels.filterMap (fun v => rest.find? (fun e => level e == v))
  rest.flatMap (fun x => (if firsts.any (fun y => y.1 == x.1) then ahead x else []) ++ [x]) ++
    spared.filter (fun e => !levels.contains (level e) && (blocking.all (fun b => level e < level b) || order.any (fun y => y.1 == e.1)))

/-! ### Placement (R235, R242) -/

/-- A lantern whose dispatcher's head task starves, or a task that starved as its head, admits no gang (R293). -/
def State.tasksStarve (s : State) (lan : Nat) : Bool :=
  ((s.lanterns[lan]?).map (fun l => s.headStarves l || s.starved l)).getD false

/-- Lanterns of a partition that take gangs. -/
def State.openLanterns (s : State) (part : Nat) : List Nat := (s.partLanterns part).filter (fun l => !s.tasksStarve l)

/-- Logical cores of gang g of a deterministic launch (R102). -/
def logicalCores (l : Launch) (g : Nat) : List Nat := (List.range l.gsize).map (fun m => (g + m) % max 1 l.obj.ncore)

/-- Under DET every gang of a lower index on one of its logical cores has retired (R242). -/
def State.detMay (s : State) (u : Nat) (l : Launch) (g : Nat) : Bool :=
  !l.obj.det || !s.gangs.any (fun e => e.2.launch == u && e.2.st != .retired && decide (e.2.idx < g) &&
    (logicalCores l e.2.idx).any ((logicalCores l g).contains ·))

/-- The members of a gang that has not been admitted. -/
def newMembers (l : Launch) : List (Allot × Nat × Nat) := List.replicate l.gsize (l.obj.prologue, 0, (l.wgsize + 31) / 32)

/-- Waves that the admission of a gang brings, with those of its coarse elements, whose slots may still be in use when
its compute waves start (R17, R386). -/
def Launch.newWaves (l : Launch) : Nat :=
  let has := fun (r : Nat) => (l.obj.entry.getD r none).isSome
  l.gsize * (l.groupWaves + if has 3 then 1 else 0) + if has 1 || has 2 then 1 else 0

/-- Deterministic work runs at 1.2 GHz (R7, R247). -/
def State.fixClock (s : State) : State := if s.detRuns then { s with dev := { s.dev with clockMHz := 1200 } } else s

/-- Admits the next gang of a launch on given cores: its workgroups begin with their prologue allotments. A control
workgroup sees what its management node wrote before the request (R435, R181). -/
def State.admitNew (s : State) (u : Nat) (l : Launch) (cores : List Nat) : State :=
  let gk := s.nextKey
  let keys := (List.range l.gsize).map (fun m => gk + 1 + m)
  let gang : Gang := { ctx := l.ctx, launch := u, idx := l.nextGang, core := cores.getD 0 0, members := keys
                       logical := l.nextGang % max 1 l.obj.ncore }
  let group := fun (m : Nat) => ({ ctx := l.ctx, gang := gk, member := m, core := cores.getD m 0, size := l.wgsize
                                   nwave := (l.wgsize + 31) / 32, stage := l.stages.getD m 0
                                   full := l.obj.prologue == l.obj.full } : Workgroup)
  let s := { s with
    gangs := s.gangs ++ [(gk, gang)]
    wgs := s.wgs ++ (List.range l.gsize).map (fun m => (gk + 1 + m, group m))
    nextKey := gk + 1 + l.gsize }
  let s := if l.control then cores.foldl (fun s c => s.acquire c 5) s else s
  (s.modLaunch u (fun l => { l with nextGang := l.nextGang + 1 })).startGang gk |>.fixClock

/-- Readmits a gang that was pre-empted or moved from a failing core (R396). -/
def State.admitSaved (s : State) (u : Nat) (gk : Nat) (a : Gang) (cores : List Nat) : State :=
  let f := s.freezes.find? (fun e => e.2.gang == some gk)
  let spoiled := (f.map (fun e => e.2.spoiled)).getD false
  let s := (s.putGang gk a cores).resumeGangs [gk] spoiled
  let s := match f with
    | some e => { s with freezes := adel s.freezes e.1 }
    | none => s
  (s.modLaunch u (fun l => { l with returned := l.returned.filter (· != a.idx) })).fixClock

/-- Admits the candidate of a launch, if it fits. -/
def State.tryLaunch (s : State) (part u : Nat) (l : Launch) : Option State :=
  let g := s.candidate u l
  let place := fun (ms : List (Allot × Nat × Nat)) => (s.openLanterns part).findSome? (fun lan => s.placeOn lan ms)
  if l.returned.isEmpty then
    if !s.detMay u l g || decide (s.slotsLeft l.ctx < l.newWaves) then none
    else (place (newMembers l)).map (s.admitNew u l)
  else
    match s.savedGang u g with
    | none => none
    | some (gk, a) => (place (s.membersOf a)).map (s.admitSaved u gk a)

/-- The first candidate that fits is admitted; its launch's wait begins anew, and its context was served last (R233,
R234). -/
def State.tryAdmit (s : State) (part : Nat) : Option State :=
  (s.candidates part).findSome? (fun e =>
    (s.tryLaunch part e.1 e.2).map (fun t =>
      (t.modLaunch e.1 (fun l => { l with since := s.dev.clk, waitSince := s.dev.clk, aged := 0, blockingAt := none })).modPart part
        (fun p => { p with served := tset 0 p.served (s.effectiveLevel e.2) (e.2.ctx + 1) })))

/-- GANG_ADMISSION (R234). -/
def execGangAdmission (part : Nat) (s : State) : Host.Outcome State Fault Refusal := .next ((s.tryAdmit part).getD s)

/-! ### Overdue groups (R241) -/

/-- A ready group has not issued for 64 cycles. -/
def State.overdueDue (s : State) (w : Wave) (lane : Nat) : Bool :=
  let r := tget 0 w.readySince lane
  w.runs && r != 0 && tget 0 w.overdue lane == 0 && decide (r + 64 ≤ s.dev.clk) && (s.detGang w).isNone

/-- OVERDUE_GROUP (R241): the tick at which the group became overdue (DEDUCED, log 83). -/
def execOverdueGroup (wid lane : Nat) (s : State) : Host.Outcome State Fault Refusal :=
  match s.wave? wid with
  | none => .next s
  | some w =>
    if s.overdueDue w lane then
      .next (s.modWave wid (fun w => { w with overdue := tset 0 w.overdue lane (tget 0 w.readySince lane + 64) }))
    else .next s

end Sys2Proof.Machine
end

