-- ==== Sys2Proof/Machine/Complete.lean ====
section
/-!
DEFINITION. The retirement of gangs (spec/11 R238) and the completion of launches (R229), draws (spec/13 R283) and
frames (spec/15 R314).
-/

namespace Sys2Proof.Machine

/-! ### GANG_RETIRE (R238) -/

/-- Vertices and set-up of a cluster still read the scratchpad of the group whose wave ran its thread (R261). -/
def State.windowUsed (s : State) (a : Gang) : Bool :=
  s.draws.any (fun e => e.1 == a.launch && e.2.objs.any (fun o => o.clusters.any (fun c =>
    a.members.contains c.wg && !c.culled && decide (c.phase ≤ 3))))

/-- Every member of a gang has finished (R238). -/
def State.retireDue (s : State) (a : Gang) : Bool :=
  a.st == .admitted && a.members.all s.wgFinished && !s.windowUsed a

/-- What a retired wave keeps: its identity and the operations that still complete. -/
def Wave.retire (w : Wave) : Wave :=
  { w with
    regs := [], tags := [], poison := [], acc := [], queues := List.replicate 8 {}, joins := [], exch := [], palm := []
    latchA := {}, latchB := {}, owed := [], mitten := w.mitten.filter (fun e => !isEngine e.ins && !e.isRecord && !(e.st == .issued && e.ins matches .emit _)) }

/-- GANG_RETIRE (R238): the members' allotments are wiped and freed. A freeze that has not stopped the gang finds it no
longer (R418). -/
def execGangRetire (gk : Nat) (s : State) : Host.Outcome State Fault Refusal :=
  match s.gang? gk with
  | none => .next s
  | some a =>
    if !s.retireDue a then .next s
    else
      let ws := s.waves.filter (fun e => a.members.contains e.2.wg)
      let s := ws.foldl (fun s e => (s.drainWave e.1).lateFaults e.1) s
      let s := { s with
        waves := s.waves.map (fun (e : Nat × Wave) => if a.members.contains e.2.wg then (e.1, e.2.retire) else e)
        wgs := s.wgs.map (fun (e : Nat × Workgroup) =>
          if a.members.contains e.1 then (e.1, { e.2 with spad := [], bars := [], convs := [], finished := true }) else e) }
      let cores := ws.map (fun e => e.2.core)
      let s := (s.modGang gk (fun a => { a with st := .retired })).modLaunch a.launch (fun l => { l with
        retired := l.retired + 1, cores := (l.cores ++ cores).eraseDups })
      let s := s.modDraw a.launch (fun d => { d with cores := (d.cores ++ cores).eraseDups })
      let gone := s.freezes.filter (fun e => e.2.gang == some gk)
      let s := gone.foldl (fun s e => let t := s.answerFreeze e.1 2; { t with freezes := adel t.freezes e.1 }) s
      .next s.reap

/-! ### Completion actions (R229) -/

/-- Step 1 of a completion: what the threads of the work have written and seen is performed for every core, and its journal
records are released (R229, R177). -/
def State.releaseCores (s : State) (cores : List Nat) : State :=
  cores.foldl (fun s c => (s.push c 5).releaseRecords c) s

/-- Steps 2 and 3 of a completion: the completion word and the counter, with the reports of R378. A node outside this S9
may refuse the word (DEDUCED, log 69). -/
def State.completionActions (s : State) (ctx : Nat) (c : Completion) (pc w0 w1 : Word) : State :=
  let report := fun (s : State) (cause flags : Nat) (addr info : Word) => s.faultRecord ctx { cause, flags, pc, addr, info, w0, w1 }
  let s := match c.cw with
    | none => s
    | some (a, v) =>
      let refused := match s.agentLoc ctx accStore [0, 3, 4] 8 8 a with
        | .ok (.node n _) => (s.partOfNode n).isNone && s.freeBit (freeAt 347 0)
        | _ => false
      if refused then report s 0x14 8 a 0x05
      else
        match s.agentStore ctx [0, 3, 4] a (toBytes 8 v.toNat) with
        | .ok s => s
        | .error k => report s 0x14 8 a (BitVec.ofNat 64 k)
  match c.ctr with
  | none => s.useFree
  | some k =>
    (match s.decCounter k with
     | some s => s
     | none => report s 0x09 0 0 (BitVec.ofNat 64 k)).useFree

/-! ### LAUNCH_COMPLETION (R229, R230) -/

/-- Every gang of a launch has retired, and all its stores, atomics and copies are acknowledged and performed. -/
def State.launchDone (s : State) (u : Nat) (l : Launch) : Bool :=
  !l.control && !l.isTask && !l.queued && l.faddo.isEmpty && l.chains.all (fun c => c.tickets.isEmpty) &&
  s.gangs.all (fun e => e.2.launch != u)

/-- LAUNCH_COMPLETION (R229). -/
def execLaunchCompletion (u : Nat) (s : State) : Host.Outcome State Fault Refusal :=
  let t := s.reap
  match t.launch? u with
  | none => .next s
  | some l =>
    if t.launchDone u l then
      .next (({ t with launches := adel t.launches u }.releaseCores l.cores).completionActions l.ctx l.compl l.pc l.w0 0)
    else .next s

/-! ### DRAW_COMPLETION (R283) -/

/-- Every element of a draw has been created and has retired, its rays too, and their accesses are acknowledged. -/
def State.drawDone (s : State) (u : Nat) (d : DrawUnit) : Bool :=
  !d.gone && s.framePhase d == 2 && decide (d.nobj ≤ d.objs.length) && d.objs.all d.objectDone && d.rays.isEmpty &&
  s.gangs.all (fun e => e.2.launch != u)

/-- DRAW_COMPLETION (R283): its scope-draw ray records go between the release and the completion word. -/
def execDrawCompletion (u : Nat) (s : State) : Host.Outcome State Fault Refusal :=
  let t := s.reap
  match t.draw? u with
  | none => .next s
  | some d =>
    if t.drawDone u d then
      let t := (t.releaseCores d.cores).dropRecs d.ctx (fun _ r => r.draw == u && r.rate != 1 && !(r.isRay && r.frameScope))
      let w := t.instrWords { agentWave d.ctx with core := 0 } d.pc
      .next ((t.modDraw u (fun d => { d with gone := true, objs := [], frags := [] })).completionActions d.ctx d.compl d.pc w.1 w.2)
    else .next s

/-! ### FRAME_COMPLETION (R314) -/

/-- The first closed frame of a context whose draws have all completed (DEDUCED, log 68). -/
def State.frameDue (s : State) (ctx : Nat) : Option Frame :=
  (s.ctx? ctx).bind (fun c => c.closing.find? (fun f => s.draws.all (fun e => e.2.ctx != ctx || e.2.frame != f.id || e.2.gone)))

/-- FRAME_COMPLETION (R314): the frame's records are released, and the frame word is written. The release of its step 2 is
that of its draws' completions, which have come before (State.releaseCores). -/
def execFrameCompletion (ctx : Nat) (s : State) : Host.Outcome State Fault Refusal :=
  match s.frameDue ctx with
  | none => .next s
  | some f =>
    let s := s.dropRecs ctx (fun _ r => r.frame == f.id)
    let s := { s with draws := s.draws.filter (fun e => !(e.2.ctx == ctx && e.2.frame == f.id)) }
    let s := s.modCtx ctx (fun c => { c with closing := c.closing.filter (fun x => x.id != f.id) })
    if f.word = 0 then .next s
    else
      match s.agentStore ctx [0, 3, 4] f.word (toBytes 8 f.draws) with
      | .ok s => .next s
      | .error _ => .next s

end Sys2Proof.Machine
end

