-- ==== Sys2Proof/Machine/Journal.lean ====
section
/-!
DEFINITION. JRNL, JTRUNC, EMIT and JPART (spec/22 R420-R423) and the events of the journal (spec/21 R405, R406, spec/08
R186).
-/

namespace Sys2Proof.Machine

/-! ### JRNL and JTRUNC -/

/-- The first two checks of JRNL and JTRUNC (R420, R421). -/
def State.withJournal (s : State) (r : Run) (seq : Nat) (body : Journal → State) : State :=
  match s.journal? r.w.ctx with
  | none => s.precise r (lostTrap r.ex r.c.pc r.c.w0 r.c.w1 seq)
  | some j => if j.lost then s.precise r (lostTrap r.ex r.c.pc r.c.w0 r.c.w1 seq) else body j

/-- Kinds that JRNL may not write (R402). -/
def kindReserved (k : Nat) : Bool := k == 0 || (decide (6 ≤ k) && decide (k ≤ 0x7F))

/-- The payload's words, each an access of eight bytes: the faults of the first that fails, or the bytes (R420). -/
def State.payload (s : State) (i : Instr) (r : Run) (p : Word) (len : Nat) (body : State → List Byte → State) : State :=
  let ps := (List.range ((len + 7) / 8)).map (fun k => addrAdd p (BitVec.ofNat 64 (8 * k)))
  let found := ps.map (fun a => (a, s.resolve r.w accLoad [0, 1, 2, 4] 8 8 a (freeAt 300 r.low)))
  match found.findSome? (fun x => match x.2 with | .error f => some (r.low, x.1, f) | .ok _ => none) with
  | some x => (s.raise r 0 [x]).getD s
  | none =>
    let locs := found.filterMap (fun x => match x.2 with | .ok l => some l | .error _ => none)
    if locs.any (fun l => s.badLoc l 8) then s.precise r { r.trap 0x16 (1#32 <<< r.low) with info := 0 }
    else
      let loads := ps.zip locs
      body (loads.foldl (fun s x => s.afterLoad r.w r.low x.2 8 (s.viewOf r.w i x.1)) (s.touch r.w.ctx ps))
        ((loads.flatMap (fun x => (s.loadBytes r.w r.low x.2 8 (s.viewOf r.w i x.1)).getD [])).take len)

/-- Makes the Mitten entry of a record, answers its INDEX and sends it (R401, R383). -/
def State.finishRecord (s : State) (i : Instr) (r : Run) (d : BitVec 8) (v : List Word) (x : JRec) : State :=
  let e : Entry := { r.entry i .t 6 with
    st := .sent, record := some x.idx, vals := [(r.low, s.regVal r.w r.low d.toNat :: v)]
    record64 := if i matches .jrnl _ then x.bytes else [] }
  ((s.addEntry r e).commitRegs i r (r.oneValue d x.idx)).sendRecord r.w.ctx x

/-- JRNL (R420; DEDUCED, log 53; DEDUCED, log 54). -/
def execJrnl (o : OpA) (s : State) : Host.Outcome State Fault Refusal :=
  s.issue (.jrnl o) journalWait (fun s r =>
    if r.ex = 0 then s.finish (.jrnl o) r
    else
      let v := s.srcVals r.w (.jrnl o) r.low
      let seq := (v.getD 0 0).toNat % 2 ^ 32
      let kind := (v.getD 1 0).toNat % 256
      let len := (v.getD 1 0).toNat / 256 % 256
      s.withJournal r seq (fun _ =>
        if kindReserved kind || decide (40 < len) then s.grantTrap r (1#32 <<< r.low)
        else
          s.payload (.jrnl o) r (v.getD 2 0) len (fun s bs =>
            let p := s.writeRecord r.w.core r.w.ctx seq ((v.getD 0 0).toNat / 2 ^ 32) kind bs
            p.1.finishRecord (.jrnl o) r o.d v p.2)))

/-- What a TRUNC record of a sequence and a base truncates (R404; DEDUCED, log 90). -/
def Journal.truncate (j : Journal) (own seq base : Nat) : Journal :=
  ({ j with recs := j.recs.map (fun r =>
      if r.seq == seq && r.idx != own && (decide (r.step < base) || r.kind == 6) then { r with live := false } else r) } : Journal).advance

/-- JTRUNC (R404, R421; DEDUCED, log 54; DEDUCED, log 90). -/
def execJtrunc (o : OpA) (s : State) : Host.Outcome State Fault Refusal :=
  s.issue (.jtrunc o) journalWait (fun s r =>
    if r.ex = 0 then s.finish (.jtrunc o) r
    else
      let v := s.srcVals r.w (.jtrunc o) r.low
      let seq := (v.getD 0 0).toNat % 2 ^ 32
      let base := (v.getD 0 0).toNat / 2 ^ 32
      s.withJournal r seq (fun _ =>
        let p := s.writeRecord r.w.core r.w.ctx seq base 6 (toBytes 4 base)
        (p.1.modJournal r.w.ctx (fun j => j.truncate p.2.idx seq base)).finishRecord (.jtrunc o) r o.d v p.2))

/-! ### EMIT -/

/-- EMIT (R422): the precise faults, then its entry and the wait; it performs at once where nothing holds it
(DESIGN CHOICE, log 30; DEDUCED, log 53). -/
def execEmit (o : OpA) (s : State) : Host.Outcome State Fault Refusal :=
  s.issue (.emit o) noWait (fun s r =>
    if r.ex = 0 then s.finish (.emit o) r
    else
      let v := s.srcVals r.w (.emit o) r.low
      let seq := (v.getD 0 0).toNat % 2 ^ 32
      let node := (v.getD 0 0).toNat / 2 ^ 32 % 4096
      let irq := o.mod.getLsbD 0
      let j := s.journal? r.w.ctx
      let e : Entry := { r.entry (.emit o) .t 6 with
        addr := v.getD 1 0, ea := [(r.low, v.getD 1 0)], record := j.map (·.next), vals := [(r.low, s.regVal r.w r.low o.d.toNat :: v)] }
      if (j.map (·.lost)).getD false then
        s.precise r { lostTrap r.ex r.c.pc r.c.w0 r.c.w1 seq with deferred := true, trec := e.words r.w }
      else
        s.checked r accStore [0, 3, 4] 8 8 [(r.low, v.getD 1 0)] (fun s _ =>
          if irq && !((s.ctx? r.w.ctx).map (fun c => c.nodes.contains node)).getD false then
            (s.precise r (r.fltTrap { stage := 4, cause := 0x05 } 1 (1#32 <<< r.low) (s.free (freeAt 348 2)))).useFree
          else
            ((s.addEntry r e).finishWait (.emit o) r (fun _ => .emit)).tryEmits r.c.wid))

/-! ### JPART -/

/-- The status of JPART, or none where it goes on: its target (R423; DEDUCED, log 54). -/
def State.jpartStatus (s : State) (w : Wave) (stby : Bool) (node pbase : Nat) : Option Nat × Nat × Nat :=
  match s.journal? w.ctx with
  | none => (some 1, 0, 0)
  | some j =>
    match stby, j.standby with
    | true, none => (some 1, 0, 0)
    | _, sb =>
      let target := if stby then sb.getD (0, 0) else (node, pbase)
      if !((s.ctx? w.ctx).map (fun c => c.nodes.contains target.1)).getD false then (some 2, 0, 0)
      else if target.2 % 4096 != 0 then (some 3, 0, 0)
      else (none, target.1, target.2)

/-- Takes a new partner: LOST is clear, and only the live records remain, none of them acknowledged. -/
def Journal.retarget (j : Journal) (node pbase now : Nat) : Journal :=
  { j with
    partner := node, pbase, lost := false, heard := now
    recs := (j.recs.filter (·.live)).map (fun x => { x with acked := false, sent := false }) }

/-- Frees the entries of records that are no longer kept, in the waves that run. -/
def State.dropRecords (s : State) (ctx : Nat) : State :=
  let kept := fun (m : Entry) => ((s.journal? ctx).map (fun (j : Journal) => j.recs.any (fun x => some x.idx == m.record))).getD false
  { s with waves := s.waves.map (fun (e : Nat × Wave) =>
      if e.2.ctx == ctx && !e.2.frozen then
        (e.1, { e.2 with mitten := e.2.mitten.filter (fun m => !m.isRecord || kept m) })
      else e) }

/-- Sends every record that is kept, in ascending INDEX. -/
def State.resend (s : State) (ctx : Nat) : State :=
  match s.journal? ctx with
  | none => s
  | some j => j.recs.foldl (fun s x => s.sendRecord ctx x) s

/-- JPART (R407, R423): the new partner, then every live record again. -/
def execJpart (o : OpA) (s : State) : Host.Outcome State Fault Refusal :=
  s.issue (.jpart o) noWait (fun s r =>
    if r.ex = 0 then s.finish (.jpart o) r
    else
      let v := s.srcVals r.w (.jpart o) r.low
      let stby := o.mod.getLsbD 0
      let k := r.w.ctx
      match s.jpartStatus r.w stby (v.getD 0 0).toNat (v.getD 1 0).toNat with
      | (some st, _, _) => s.answer (.jpart o) r o.d st
      | (none, node, pbase) =>
        let upto := ((s.journal? k).map (·.next)).getD 0
        let s := s.modJournal k (fun j => j.retarget node pbase s.dev.clk)
        (((s.dropRecords k).resend k).finishWait (.jpart o) r (fun _ => .jpart o.d.toNat upto stby)).tryPartner k)

/-! ### Events -/

/-- JOURNAL_RECORD_ARRIVAL (R405, R444): the partner writes the record and acknowledges it. -/
def execJournalRecordArrival (q : JournalFlit) (s : State) : Host.Outcome State Fault Refusal :=
  match s.partOfNode q.endpoint with
  | none => .next s
  | some p =>
    let s := s.hear q.source
    match s.arrive p q.source q.naddr q.record with
    | none => .next (s.emit (.refusal q.source))
    | some s => .next (s.emit (.journalAck q.source (leNat (q.record.take 8))))

/-- JOURNAL_ACK (R186, R406): an acknowledgement from the partner; one from an old partner, or while the partner is lost,
is ignored. -/
def execJournalAck (ctx index node : Nat) (s : State) : Host.Outcome State Fault Refusal :=
  match s.journal? ctx with
  | none => .next s
  | some j =>
    let s := s.hear node
    if j.lost || j.partner != node || !j.recs.any (fun r => r.idx == index && r.sent) then .next s
    else .next ((s.ackRecord ctx index).tryPartner ctx)

/-- The partner has been silent for 50 µs while a record was not acknowledged (R406). -/
def State.silent (s : State) (j : Journal) : Bool :=
  !j.lost && j.watched && decide (j.heard + Config.silenceTicks ≤ s.dev.clk)

/-- PARTNER_LOST (R406). -/
def execPartnerLost (ctx : Nat) (s : State) : Host.Outcome State Fault Refusal :=
  match s.journal? ctx with
  | none => .next s
  | some j => if s.silent j then .next ((s.modJournal ctx (fun j => { j with lost := true })).tryPartner ctx) else .next s

end Sys2Proof.Machine
end

