-- ==== Sys2Proof/Machine/Hash.lean ====
section
/-!
DEFINITION. SHA-384 (FIPS 180-4) and the check of an ECDSA P-384 signature (FIPS 186), which the boot ROM computes over a
firmware image and its key (spec/18 R362).
-/

namespace Sys2Proof.Machine

def shaK0 : List Word :=
  [0x428A2F98D728AE22, 0x7137449123EF65CD, 0xB5C0FBCFEC4D3B2F, 0xE9B5DBA58189DBBC, 0x3956C25BF348B538,
   0x59F111F1B605D019, 0x923F82A4AF194F9B, 0xAB1C5ED5DA6D8118, 0xD807AA98A3030242, 0x12835B0145706FBE,
   0x243185BE4EE4B28C, 0x550C7DC3D5FFB4E2, 0x72BE5D74F27B896F, 0x80DEB1FE3B1696B1, 0x9BDC06A725C71235,
   0xC19BF174CF692694, 0xE49B69C19EF14AD2, 0xEFBE4786384F25E3, 0x0FC19DC68B8CD5B5, 0x240CA1CC77AC9C65]

def shaK1 : List Word :=
  [0x2DE92C6F592B0275, 0x4A7484AA6EA6E483, 0x5CB0A9DCBD41FBD4, 0x76F988DA831153B5, 0x983E5152EE66DFAB,
   0xA831C66D2DB43210, 0xB00327C898FB213F, 0xBF597FC7BEEF0EE4, 0xC6E00BF33DA88FC2, 0xD5A79147930AA725,
   0x06CA6351E003826F, 0x142929670A0E6E70, 0x27B70A8546D22FFC, 0x2E1B21385C26C926, 0x4D2C6DFC5AC42AED,
   0x53380D139D95B3DF, 0x650A73548BAF63DE, 0x766A0ABB3C77B2A8, 0x81C2C92E47EDAEE6, 0x92722C851482353B]

def shaK2 : List Word :=
  [0xA2BFE8A14CF10364, 0xA81A664BBC423001, 0xC24B8B70D0F89791, 0xC76C51A30654BE30, 0xD192E819D6EF5218,
   0xD69906245565A910, 0xF40E35855771202A, 0x106AA07032BBD1B8, 0x19A4C116B8D2D0C8, 0x1E376C085141AB53,
   0x2748774CDF8EEB99, 0x34B0BCB5E19B48A8, 0x391C0CB3C5C95A63, 0x4ED8AA4AE3418ACB, 0x5B9CCA4F7763E373,
   0x682E6FF3D6B2B8A3, 0x748F82EE5DEFB2FC, 0x78A5636F43172F60, 0x84C87814A1F0AB72, 0x8CC702081A6439EC]

def shaK3 : List Word :=
  [0x90BEFFFA23631E28, 0xA4506CEBDE82BDE9, 0xBEF9A3F7B2C67915, 0xC67178F2E372532B, 0xCA273ECEEA26619C,
   0xD186B8C721C0C207, 0xEADA7DD6CDE0EB1E, 0xF57D4F7FEE6ED178, 0x06F067AA72176FBA, 0x0A637DC5A2C898A6,
   0x113F9804BEF90DAE, 0x1B710B35131C471B, 0x28DB77F523047D84, 0x32CAAB7B40C72493, 0x3C9EBE0A15C9BEBC,
   0x431D67C49C100D4C, 0x4CC5D4BECB3E42B6, 0x597F299CFC657E2A, 0x5FCB6FAB3AD6FAEC, 0x6C44198C4A475817]

/-- The round constants. -/
def shaK : List Word := shaK0 ++ shaK1 ++ shaK2 ++ shaK3

/-- The initial hash value. -/
def shaStart : List Word :=
  [0xCBBB9D5DC1059ED8, 0x629A292A367CD507, 0x9159015A3070DD17, 0x152FECD8F70E5939,
   0x67332667FFC00B31, 0x8EB44A8768581511, 0xDB0C2E0D64F98FA7, 0x47B5481DBEFA4FA4]

/-- The number of a byte string, highest byte first. -/
def beNat (bs : List Byte) : Nat := bs.foldl (fun n b => 256 * n + b.toNat) 0

/-- The n bytes of a number, highest first. -/
def beBytes (n v : Nat) : List Byte := (toBytes n v).reverse

/-- The message with its padding and its length in bits. -/
def shaPad (bs : List Byte) : List Byte :=
  let n := bs.length + 1
  bs ++ [0x80] ++ List.replicate ((112 + 128 - n % 128) % 128) 0 ++ beBytes 16 (8 * bs.length)

/-- The next word of the schedule, from the sixteen before it, oldest first. -/
def shaNext (w : List Word) : Word :=
  let a := w.getD 1 0
  let b := w.getD 14 0
  let s0 := a.rotateRight 1 ^^^ a.rotateRight 8 ^^^ (a >>> 7)
  let s1 := b.rotateRight 19 ^^^ b.rotateRight 61 ^^^ (b >>> 6)
  w.getD 0 0 + s0 + w.getD 9 0 + s1

/-- One round on the eight working words. -/
def shaRound (h : List Word) (k w : Word) : List Word :=
  match h with
  | [a, b, c, d, e, f, g, x] =>
    let t1 := x + (e.rotateRight 14 ^^^ e.rotateRight 18 ^^^ e.rotateRight 41) + ((e &&& f) ^^^ (~~~e &&& g)) + k + w
    let t2 := (a.rotateRight 28 ^^^ a.rotateRight 34 ^^^ a.rotateRight 39) + ((a &&& b) ^^^ (a &&& c) ^^^ (b &&& c))
    [t1 + t2, a, b, c, d + t1, e, f, g]
  | _ => h

/-- Compresses one block of 128 bytes into the hash value. -/
def shaBlock (h : List Word) (block : List Byte) : List Word :=
  let w := (List.range 16).map (fun i => BitVec.ofNat 64 (beNat ((block.drop (8 * i)).take 8)))
  let r := shaK.foldl (fun (p : List Word × List Word) k =>
    (shaRound p.1 k (p.2.getD 0 0), p.2.drop 1 ++ [shaNext p.2])) (h, w)
  (h.zip r.1).map (fun x => x.1 + x.2)

/-- SHA-384 of a byte string. -/
def sha384 (bs : List Byte) : List Byte :=
  let m := shaPad bs
  let h := (List.range (m.length / 128)).foldl (fun h i => shaBlock h ((m.drop (128 * i)).take 128)) shaStart
  (h.take 6).flatMap (fun w => beBytes 8 w.toNat)

/-! ### ECDSA over P-384 (PRESUMED, log 111: the curve and the check are those of the standard that R362 names) -/

def p384 : Nat := 2 ^ 384 - 2 ^ 128 - 2 ^ 96 + 2 ^ 32 - 1

/-- The order of the base point. -/
def p384Order : Nat :=
  0xFFFFFFFFFFFFFFFFFFFFFFFFFFFFFFFFFFFFFFFFFFFFFFFFC7634D81F4372DDF581A0DB248B0A77AECEC196ACCC52973

def p384B : Nat := 0xB3312FA7E23EE7E4988E056BE3F82D19181D9C6EFE8141120314088F5013875AC656398D8A2ED19D2A85C8EDD3EC2AEF

/-- A point by X, Y and Z, whose coordinates are X/Z² and Y/Z³; Z = 0 is the point at infinity. -/
structure CurvePoint where
  x : Nat
  y : Nat
  z : Nat
deriving DecidableEq, Repr

def p384Base : CurvePoint where
  x := 0xAA87CA22BE8B05378EB1C71EF320AD746E1D3B628BA79B9859F741E082542A385502F25DBF55296C3A545E3872760AB7
  y := 0x3617DE4A96262C6F5D9E98BF9292DC29F8F41DBD289A147CE9DA3113B5F0B8C00A60B1CE1D7E819D7A431D7C90EA0E5F
  z := 1

/-- The difference modulo p384. -/
def fieldSub (a b : Nat) : Nat := (a + p384 - b % p384) % p384

/-- Twice a point. -/
def CurvePoint.double (a : CurvePoint) : CurvePoint :=
  let zz := a.z * a.z % p384
  let yy := a.y * a.y % p384
  let m := 3 * fieldSub a.x zz * (a.x + zz) % p384
  let t := 4 * a.x * yy % p384
  let x := fieldSub (m * m) (2 * t)
  { x, y := fieldSub (m * fieldSub t x) (8 * yy * yy), z := 2 * a.y * a.z % p384 }

/-- The sum of two points. -/
def CurvePoint.add (a b : CurvePoint) : CurvePoint :=
  if a.z = 0 then b
  else if b.z = 0 then a
  else
    let za := a.z * a.z % p384
    let zb := b.z * b.z % p384
    let u := a.x * zb % p384
    let h := fieldSub (b.x * za) u
    let v := a.y * zb * b.z % p384
    let r := fieldSub (b.y * za * a.z) v
    if h = 0 then (if r = 0 then a.double else { x := 1, y := 1, z := 0 })
    else
      let hh := h * h % p384
      let t := u * hh % p384
      let x := fieldSub (r * r) (hh * h + 2 * t)
      { x, y := fieldSub (r * fieldSub t x) (v * hh * h), z := a.z * b.z * h % p384 }

/-- k times a point, for k below 2^384. -/
def CurvePoint.times (k : Nat) (a : CurvePoint) : CurvePoint :=
  (List.range 384).foldl (fun r i => if k.testBit (383 - i) then r.double.add a else r.double) { x := 1, y := 1, z := 0 }

/-- b to the power e modulo m, for e below 2^384. -/
def powMod (m b e : Nat) : Nat :=
  (List.range 384).foldl (fun r i => if e.testBit (383 - i) then r * r % m * b % m else r * r % m) 1

/-- The check of a signature (r, s) of 96 bytes over a hash of 48, with a key (X, Y) of 96. -/
def ecdsaP384 (key hash signature : List Byte) : Bool :=
  let q : CurvePoint := { x := beNat (key.take 48), y := beNat (key.drop 48), z := 1 }
  let r := beNat (signature.take 48)
  let t := beNat (signature.drop 48)
  let w := powMod p384Order t (p384Order - 2)
  let a := (CurvePoint.times (beNat hash * w % p384Order) p384Base).add (CurvePoint.times (r * w % p384Order) q)
  key.length == 96 && signature.length == 96 && decide (q.x < p384) && decide (q.y < p384) &&
    decide (q.y * q.y % p384 = fieldSub (q.x * q.x % p384 * q.x + p384B) (3 * q.x)) &&
    decide (0 < r) && decide (r < p384Order) && decide (0 < t) && decide (t < p384Order) && a.z != 0 &&
    (a.x == r * (a.z * a.z) % p384 || decide (r + p384Order < p384) && a.x == (r + p384Order) * (a.z * a.z) % p384)

end Sys2Proof.Machine
end

