-- ==== Sys2Proof/Machine/Setup.lean ====
section
/-!
DEFINITION. Placing an instruction where the next step fetches one (DESIGN CHOICE, log 6): at the pc of the group whose turn it is, or,
in a machine that has no wave, in a control wave of the firmware context that stands in for the load of a firmware
image.
-/

namespace Sys2Proof.Machine

/-- Where the stand-in firmware object lies, and its first instruction. -/
def bootBase : Nat := 0x10000
def bootPc : Nat := bootBase + 0x100

/-- The bytes of an instruction: its nbits given bits, and zeros up to two words. -/
def placeBytes (w : Nat) : List Byte := toBytes 16 w

/-- The stand-in firmware object: every register, every accumulator row. -/
def bootObj : CodeObj :=
  let a : Allot := { n := 256, g := 256, spad := 256, rows := 128, q := 64 }
  { base := BitVec.ofNat 64 bootBase, entry := some 0 :: List.replicate 7 none, textsize := 4096, prologue := a, full := a
    homes := List.replicate 256 0, split := List.replicate 16 0 }

/-- Page-table entry: a table pointer, or a leaf with every right. -/
def pteBytes (addr : Nat) (leaf : Bool) : List Byte := toBytes 8 (addr + (if leaf then 0x1F else 0x1D))

/-- Context 0 with one control wave of one thread at the stand-in object, its first GiB mapped to the first GiB. -/
def State.standIn (s : State) : State :=
  let s := ((s.writePa 0x1000 (pteBytes 0x2000 false)).writePa 0x2000 (pteBytes 0x3000 false)).writePa 0x3000
    (pteBytes 0 true)
  let k := s.nextKey
  { s with
    ctxs := aset s.ctxs 0 { part := 0, priv := true, level := 0, grant := [], nodes := [], parea := 0, ptroot := 0x1000
                            walkroot := 0x1000, control := some k }
    launches := aset s.launches k { ctx := 0, ord := 0, pc := 0, obj := bootObj, gangs := 1, gsize := 1, wgsize := 1
                                    stages := List.replicate 24 0, control := true, nextGang := 1 }
    gangs := aset s.gangs (k + 1) { ctx := 0, launch := k, idx := 0, core := 0, members := [k + 2] }
    wgs := aset s.wgs (k + 2) { ctx := 0, gang := k + 1, member := 0, core := 0, size := 1, nwave := 1, coarse := 3
                                full := true }
    waves := aset s.waves 0 { ctx := 0, slot := 0, kind := .compute, wg := k + 2, idx := 0, core := 0, quad := 0, rate := 0
                              threads := loneThread (BitVec.ofNat 64 bootPc) 0 }
    nextKey := k + 3 }

/-- The machine with an instruction where its next step fetches one. -/
def State.placeWord (s : State) (w : Nat) : State :=
  match s.nextIssue with
  | some (_, v, _, pc) =>
    let s := { s with agenda := [.issue] }
    match s.walk v.ctx (vaOf pc) with
    | .ok m => { s.writePa m.pa (placeBytes w) with icache := [] }
    | .error _ => s
  | none =>
    let s := { s.standIn with agenda := [.issue], icache := [] }
    s.writePa bootPc (placeBytes w)

end Sys2Proof.Machine
end

