-- ==== Sys2Proof/Machine/Boot.lean ====
section
/-!
DEFINITION. Wiping of device memory and of frames (spec/18 R355, R358, R359), and the boot ROM (R362, spec/25 R443).
-/

namespace Sys2Proof.Machine

/-! ### Wiping -/

/-- Zeroes bytes of device memory at the addresses that serve them, with the metadata of the addresses that name them
(R358): data, block tags, descriptors and version words of whole 4 KiB blocks. -/
def State.wipePa (s : State) (pa n : Nat) : State :=
  let a := s.place? pa
  let out := fun (lo len unit k : Nat) => !(decide (lo ≤ k * unit) && decide (k * unit < lo + len))
  { s with
    mem := s.mem.filter (fun c => out a n 1 c.1)
    btags := s.btags.filter (fun e => out pa n 64 e.1)
    descs := s.descs.filter (fun e => out pa n 4096 e.1)
    vers := s.vers.filter (fun e => out pa n 4096 e.1)
    hidden := s.hidden.filter (fun h => out a n 8 h.word)
    wiped := keyBlocks s.wiped ((List.range ((n + 65535) / 65536)).map (a / 65536 + ·))
    bad := s.bad.filter (out a n 64) }

/-- Wipes all HBM4E with its metadata, which holds the metadata of the CXL tier too (R83, R359; DESIGN CHOICE, log 46). -/
def State.wipeHbm (s : State) : State :=
  let top := 4 * Config.dieBytes
  { s with
    mem := s.mem.filter (fun c => decide (top ≤ c.1))
    keyed := s.keyed.filter (fun e => decide (top ≤ 64 * e.1))
    wiped := s.wiped.filter (fun e => decide (top ≤ 65536 * e.1))
    btags := [], descs := [], vers := [], hidden := []
    bad := s.bad.filter (fun b => decide (top ≤ 64 * b)) }

/-- Free bytes from an address on, those that are zero left out. -/
def State.freeCells (s : State) (a n : Nat) : List Host.Cell :=
  (List.range' a n).filterMap (fun k =>
    let b : Byte := (s.free k).setWidth 8
    if b = unlistedByte then none else some (k, b))

/-- New keys: every byte that was written under an earlier key, as a zero too, reads as an unspecified one (R355)
(DESIGN CHOICE, log 46). -/
def State.rekey (s : State) : State :=
  let frames := rising (s.wiped.map Prod.fst)
  let blocks := rising (s.keyed.map Prod.fst)
  let parts := rising (frames ++ blocks.map (· / 1024))
  { s with
    mem := parts.flatMap (fun f =>
      if frames.contains f then s.freeCells (65536 * f) 65536
      else (blocks.filter (fun k => k / 1024 == f)).flatMap (fun k => s.freeCells (64 * k) 64))
    hidden := []
    freeCtr := s.freeCtr + 2 ^ 52
    parts := s.parts.map (fun (p : Partition) => { p with keygen := p.keygen + 1 }) }

/-! ### Boot (R362) -/

/-- The fuses hold the hash. -/
def Fuses.accepts (x : Fuses) (h : List Byte) : Bool :=
  match x with
  | .blank => false
  | .own => decide (h = Config.fusedKeyHash)
  | .hash k => decide (h = k)

/-- The hash of the image's key is the fused one, and its signature holds (R362; DESIGN CHOICE, log 6). -/
def State.imageVerified (s : State) (f : FirmwareImage) : Bool :=
  s.dev.fuses.accepts (sha384 f.key) && ecdsaP384 f.key (sha384 f.bytes) f.signature

/-- What M0 measures. -/
def measure (h : List Byte) : List Byte := sha384 (List.replicate 48 0 ++ h)

/-- The code object that stands for an image's entry: an allotment that lets its waves fit one core (DESIGN CHOICE, log 6). -/
def imageObj (f : FirmwareImage) : CodeObj :=
  let few := decide (f.threads ≤ 128)
  let a : Allot := { n := if few then 256 else 64, g := if few then 256 else 64, spad := 256, rows := if few then 128 else 16
                     q := if few then 64 else 32 }
  { bootObj with entry := some f.entry :: List.replicate 7 none, textsize := f.bytes.length, prologue := a, full := a }

/-- The image in device memory, and tables that map its GiB (DESIGN CHOICE, log 6). -/
def State.loadImage (s : State) (f : FirmwareImage) : State :=
  (((s.writePa 0x1000 (pteBytes 0x2000 false)).writePa 0x2000 (pteBytes 0x3000 false)).writePa 0x3000
    (pteBytes 0 true)).writePa bootPc f.bytes

/-- Starts context 0 at an image's entry. -/
def State.startFirmware (s : State) (f : FirmwareImage) : State :=
  let s := s.loadImage f
  let u := s.nextKey
  let l : Launch := { ctx := 0, ord := 0, pc := 0, obj := imageObj f, gangs := 1, gsize := 1, wgsize := min 1024 (max 1 f.threads)
                      stages := List.replicate 24 0, control := true, since := s.dev.clk, waitSince := s.dev.clk }
  let c : Ctx := { part := 0, priv := true, level := 0, grant := [], nodes := [], parea := 0, ptroot := 0x1000, walkroot := 0x1000
                   control := some u }
  ({ s with
    ctxs := aset s.ctxs 0 c
    launches := s.launches ++ [(u, l)]
    dev := { s.dev with booted := true, m0 := measure (sha384 f.bytes) }
    nextKey := u + 1 }).admitNew u l [0]

/-- The boot ROM after a reset (R361, R362): nothing boots in BLANK or RETIRED; a failure is reported. -/
def State.boot (s : State) : State :=
  if s.dev.lcstate = 0 ∨ s.dev.lcstate = 4 then s
  else
    match s.dev.image with
    | some f => if s.imageVerified f then s.startFirmware f else s.report evBootFailed
    | none => s.report evBootFailed

end Sys2Proof.Machine
end

