-- ==== Sys2Proof/Machine/Manage.lean ====
section
/-!
DEFINITION. The management transactions (spec/25 R435, R436, R441, R443-R445, spec/18 R353-R361, spec/20 R397, R399,
spec/21 R400, R413).
-/

namespace Sys2Proof.Machine

/-! ### Requests and their statuses (R435, R436, R443) -/

def State.respond (s : State) (q : MgmtReq) (status : Nat) : State := s.emit (.response q.source q.sideband status)

/-- A request: the boot ROM's answer while no firmware runs, the check of the management node, and the transaction with
its status; a transaction without one answers later (DEDUCED, log 28; DEDUCED, log 48; DEDUCED, log 49). -/
def State.manage (s : State) (q : MgmtReq) (body : Nat → State → State × Option Nat) : Host.Outcome State Fault Refusal :=
  if !s.dev.booted then .next (if q.sideband then s.respond q 0x0F else s)
  else
    match s.partOfNode q.endpoint with
    | none => .next s
    | some p =>
      let s := if q.sideband then s else s.hear q.source
      if ((s.parts[p]?).map (·.mgmt)) != some q.source then .next (s.respond q 0x04)
      else
        match body p s with
        | (s, some st) => .next (s.respond q st)
        | (s, none) => .next s

/-- A context in use that lies in a partition (R436); context 0 lies in none (R345). -/
def State.inPart (s : State) (p ctx : Nat) : Bool := ctx != 0 && ((s.ctx? ctx).map (fun c => c.part == p)).getD false

/-- A number without a context that holds a pending address space of a partition (R445). -/
def State.pendingIn (s : State) (p ctx : Nat) : Bool :=
  (s.ctx? ctx).isNone && ((aget? s.pending ctx).map (fun x => x.part == p)).getD false

/-- Bytes of a partition's memory, none of them reserved (R350, R413): each 64 KiB frame of the range is looked at. -/
def State.partHas (s : State) (p pa n : Nat) : Bool :=
  ((s.parts[p]?).map (fun x => (List.range (n / 65536 + 2)).all (fun i =>
    let a := min (pa + 65536 * i) (pa + n - 1)
    x.hasPa a && (s.served a).isSome))).getD false

/-! ### Control workgroups (R35) -/

/-- Starts a control workgroup at an entry of a code object: on the lowest core of the lowest lantern with room, else it
waits for the arbiters; none for a bad argument (DEDUCED, log 50). -/
def State.startControl (s : State) (ctx : Nat) (code entry : Word) (threads : Nat) : Option State :=
  let p := s.objStatus ctx code
  let o := p.2
  let nwave := (threads + 31) / 32
  let off := (entry - code).toNat - 0x100
  if p.1 != 0 || o.isDraw || threads == 0 || decide (1024 < threads) || spaceOf entry != 0 || entry.toNat % 8 != 0 ||
      decide (entry.toNat < code.toNat + 0x100) || decide (o.textsize ≤ off) || !fitsEmpty o nwave then none
  else
    let u := s.nextKey
    let l : Launch :=
      { ctx, ord := 0, pc := 0, obj := { o with entry := some off :: o.entry.drop 1 }, gangs := 1, gsize := 1, wgsize := threads
        stages := List.replicate 24 0, control := true, since := s.dev.clk, waitSince := s.dev.clk }
    let s := ({ s with launches := s.launches ++ [(u, l)], nextKey := u + 1 }).modCtx ctx (fun c => { c with control := some u })
    let running := ((s.ctx? ctx).map (fun c => c.st == .running)).getD false
    match (s.openLanterns (s.partOfCtx ctx)).findSome? (fun lan => s.placeOn lan (newMembers l)) with
    | some cores => some (if running then s.admitNew u l cores else s)
    | none => some s

/-! ### CREATE, START, DESTROY, LEVEL -/

/-- A counter grant: one range on each lantern that it names, of the partition, apart from the other contexts' (R287)
(DEDUCED, log 50). -/
def State.grantOk (s : State) (p : Nat) (g : List (Nat × Nat × Nat)) : Bool :=
  decide ((g.map Prod.fst).Nodup) && g.all (fun x =>
    (s.partLanterns p).contains x.1 && decide (x.2.1 ≤ x.2.2) && decide (x.2.2 < Config.counters) &&
    s.ctxs.all (fun e => e.2.grant.all (fun y => y.1 != x.1 || decide (y.2.2 < x.2.1) || decide (x.2.2 < y.2.1))))

/-- The root agrees with the number's pending address space (R445). -/
def State.rootOk (s : State) (p : Nat) (a : CreateArgs) : Bool :=
  if a.root = 0 then s.pendingIn p a.ctx
  else (aget? s.pending a.ctx).isNone && a.root.toNat % 4096 == 0 && s.partHas p a.root.toNat 4096

/-- A bad argument of CREATE, but for its code object (DEDUCED, log 48; DEDUCED, log 50). -/
def State.createBad (s : State) (p : Nat) (a : CreateArgs) : Bool :=
  decide (64 ≤ a.ctx) || !s.rootOk p a || decide (a.level < 4) || decide (23 < a.level) || !s.grantOk p a.grant ||
  a.nodes.any (fun n => decide (4096 ≤ n)) || a.parea % 4096 != 0 || !s.partHas p a.parea 4096 ||
  (s.dev.lcstate != 2 && s.dev.lcstate != 3)

/-- CREATE (R35, R345, R364, R445). -/
def State.createCtx (s : State) (p : Nat) (a : CreateArgs) : State × Option Nat :=
  if (s.ctx? a.ctx).isSome then (s, some 1)
  else if s.createBad p a then (s, some 2)
  else
    let root := if a.root = 0 then ((aget? s.pending a.ctx).map (·.root)).getD 0 else a.root
    let c : Ctx := { part := p, priv := a.priv, level := a.level, grant := a.grant, nodes := a.nodes, parea := a.parea
                     ptroot := root, walkroot := root }
    let t := { s with
      ctxs := aset s.ctxs a.ctx c
      pending := adel s.pending a.ctx
      ended := s.ended.filter (fun e => e.2 != a.ctx) }
    match t.startControl a.ctx a.code a.entry a.threads with
    | some t => (t, some 0)
    | none => (s, some 2)

def execCreate (q : MgmtReq) (a : CreateArgs) (s : State) : Host.Outcome State Fault Refusal :=
  s.manage q (fun p s => s.createCtx p a)

/-- START (R38). -/
def execStart (q : MgmtReq) (a : StartArgs) (s : State) : Host.Outcome State Fault Refusal :=
  s.manage q (fun p s =>
    if !s.inPart p a.ctx then (s, some 2)
    else if ((s.ctx? a.ctx).bind (·.control)).isSome then (s, some 1)
    else
      match s.startControl a.ctx a.code a.entry a.threads with
      | some t => (t, some 0)
      | none => (s, some 2))

/-- Discards a number's pending address space: its windows close, and nothing names its memory any more (R445). -/
def State.dropPending (s : State) (ctx : Nat) : State :=
  { s with pending := adel s.pending ctx, windows := s.windows.filter (fun v => v.ctx != some ctx) }

/-- DESTROY (R357, R445). -/
def execDestroy (q : MgmtReq) (ctx : Nat) (s : State) : Host.Outcome State Fault Refusal :=
  s.manage q (fun p s =>
    if s.inPart p ctx then
      let s := s.destroyCtx ctx
      ({ s with ended := s.ended.filter (fun e => e != (q.source, ctx)) ++ [(q.source, ctx)] }, some 0)
    else if s.pendingIn p ctx then (s.dropPending ctx, some 0)
    else (s, some 2))

/-- LEVEL: as prio.set (R365). -/
def execLevel (q : MgmtReq) (ctx level : Nat) (s : State) : Host.Outcome State Fault Refusal :=
  s.manage q (fun p s =>
    if !s.inPart p ctx || decide (level < 4) || decide (23 < level) then (s, some 2)
    else (s.relevel [(ctx, level)], some 0))

/-! ### FREEZE and THAW (R380, R396, R397, R418, R419) -/

/-- A DESTROY earlier in the node's order ended the context. -/
def State.endedBy (s : State) (q : MgmtReq) (ctx : Nat) : Bool := (s.ctx? ctx).isNone && s.ended.contains (q.source, ctx)

/-- A save area that a partition cannot hold. -/
def State.areaOutside (s : State) (p area : Nat) : Bool := area % 4096 != 0 || !s.partHas p area 1

/-- FREEZE: answered when the unit is saved or abandoned (DEDUCED, log 52). -/
def execFreeze (q : MgmtReq) (ctx area deadlineUs : Nat) (s : State) : Host.Outcome State Fault Refusal :=
  s.manage q (fun p s =>
    if s.endedBy q ctx then (s, some 0x10)
    else if !s.inPart p ctx then (s, some 2)
    else if s.areaOutside p area then (s, some 5)
    else if deadlineUs < 10 ∨ 10000 < deadlineUs then (s, some 2)
    else
      match s.freezeOf ctx none with
      | some (k, f) =>
        if f.phase == 2 then (s, some (if f.area == area then 0 else 6))
        else
          let r := s.requestFreeze ctx none area false none
          ({ r.1 with freezes := amod r.1.freezes k (fun f => { f with answer := f.answer ++ [(q.source, q.sideband)] }) }, none)
      | none =>
        let s := s.modCtx ctx (fun c => { c with deadlineUs })
        let r := s.requestFreeze ctx none area false none
        ({ r.1 with freezes := amod r.1.freezes r.2 (fun f => { f with answer := f.answer ++ [(q.source, q.sideband)] }) }, none))

/-- THAW. -/
def execThawTransaction (q : MgmtReq) (ctx area : Nat) (s : State) : Host.Outcome State Fault Refusal :=
  s.manage q (fun p s =>
    if s.endedBy q ctx then (s, some 0x10)
    else if !s.inPart p ctx then (s, some 2)
    else
      let r := s.thawUnit ctx false area false (s.areaOutside p area)
      (r.1, some r.2))

/-! ### JOURNAL and REGION (R400, R405) -/

/-- JOURNAL. -/
def execJournal (q : MgmtReq) (a : JournalArgs) (s : State) : Host.Outcome State Fault Refusal :=
  s.manage q (fun p s =>
    if !s.inPart p a.ctx then (s, some 2)
    else if ((s.journal? a.ctx).map (fun (j : Journal) => j.recs.any (·.live))).getD false then (s, some 1)
    else if a.log2slots < 3 ∨ 20 < a.log2slots ∨ a.pbase % 4096 ≠ 0 ∨ 2 ^ 48 ≤ a.pbase ∨ a.shadow % 4096 ≠ 0 ∨
        s.partHas p a.shadow (64 * 2 ^ a.log2slots) = false then (s, some 2)
    else
      let j : Journal := { partner := a.partner, pbase := a.pbase, log2 := a.log2slots, shadow := a.shadow, standby := a.standby
                           heard := s.dev.clk }
      ((s.modCtx a.ctx (fun c => { c with journal := some j })).tryPartner a.ctx, some 0))

/-- Two ranges share an address. -/
def overlaps (a n b m : Nat) : Bool := decide (a < b + m) && decide (b < a + n)

/-! ### Frames (R350, R358, R413, R440) -/

/-- Physical ranges (base, length) that an address space uses: its tables and what they map. -/
def spaceRanges (s : State) : Nat → Nat → Nat → List (Nat × Nat)
  | 0, _, _ => []
  | fuel + 1, lvl, table =>
    (table, if lvl = 4 then 256 else 4096) :: (List.range (levelEntries lvl)).flatMap (fun i =>
      let e := leNat (s.readPa (table + 8 * i) 8)
      let addr := e / 256 % 2 ^ 44 * 256
      if e % 2 == 0 then []
      else if e / 2 % 2 == 1 then [(addr, 2 ^ levelShift lvl)]
      else spaceRanges s fuel (lvl + 1) addr)

/-- Physical ranges in use: address spaces, save areas, pre-emption areas, journal regions and shadows
(DEDUCED, log 75). -/
def State.liveRanges (s : State) : List (Nat × Nat) :=
  s.ctxs.flatMap (fun e => spaceRanges s 5 0 e.2.walkroot.toNat ++ spaceRanges s 5 0 e.2.ptroot.toNat ++ [(e.2.parea, 4096)] ++
    (match e.2.journal with | some j => [(j.shadow, 64 * 2 ^ j.log2)] | none => [])) ++
  s.pending.flatMap (fun e => spaceRanges s 5 0 e.2.root.toNat) ++
  s.freezes.map (fun e => (e.2.area, max 64 e.2.size)) ++
  (s.windows.filter (fun v => v.ctx.isNone)).map (fun v => (v.nbase, v.len))

def frameIn (l : List (Nat × Nat)) (f : Nat) : Bool := l.any (fun r => overlaps r.1 r.2 (65536 * f) 65536)

/-- A frame that is not to be handed out: in use, of a retired channel, redirected, or a redirection's destination. -/
def State.taken (s : State) (used : List (Nat × Nat)) (f : Nat) : Bool :=
  frameIn used f || ((channelOf (65536 * f)).map (fun c => s.retired.contains c)).getD false ||
  tget 0 s.redirect f != 0 || s.redirect.any (fun e => e.2 == f + 1)

/-- The lowest free frame from f on, below `top`. -/
def State.freeFrom (s : State) (used : List (Nat × Nat)) (top : Nat) : Nat → Nat → Option Nat
  | 0, _ => none
  | fuel + 1, f =>
    if top ≤ f then none
    else if !s.taken used f then some f
    else
      let past := (used.filter (fun r => overlaps r.1 r.2 (65536 * f) 65536)).map (fun r => (r.1 + r.2 + 65535) / 65536)
      s.freeFrom used top fuel (past.foldl max (f + 1))

/-- The lowest free frame of a partition (DESIGN CHOICE, log 44). -/
def State.freeFrame (s : State) (p : Nat) (used : List (Nat × Nat)) : Option Nat :=
  let fuel := 4096 + 4 * used.length + 4 * s.redirect.length
  match s.parts[p]? with
  | none => none
  | some x =>
    let regions := x.dies.map (fun d => (d * 3145728, (d + 1) * 3145728)) ++ x.cxl.map (fun r => ((r.1 + 65535) / 65536, (r.1 + r.2) / 65536))
    regions.findSome? (fun r => s.freeFrom used r.2 fuel r.1)

/-! ### ALLOC and FREE (R358, R445) -/

/-- Page tables under construction: the state, the ranges in use, and whether a request has failed with a status. -/
abbrev Building := State × List (Nat × Nat) × Nat

/-- Takes a frame, named or chosen, and wipes it (DESIGN CHOICE, log 44). -/
def takeFrame (b : Building) (p : Nat) (named : Option Nat) : Building × Nat :=
  match named with
  | some f =>
    if !b.1.partHas p (65536 * f) 65536 || b.1.taken b.2.1 f then ((b.1, b.2.1, 2), f)
    else ((b.1.wipePa (65536 * f) 65536, (65536 * f, 65536) :: b.2.1, b.2.2), f)
  | none =>
    match b.1.freeFrame p b.2.1 with
    | none => ((b.1, b.2.1, 5), 0)
    | some f => ((b.1.wipePa (65536 * f) 65536, (65536 * f, 65536) :: b.2.1, b.2.2), f)

/-- The level-4 table of an address: tables that are missing are added; none where a leaf or a bad entry stands. -/
def tableFor (p va : Nat) : Nat → Nat → Nat → Building → Building × Option Nat
  | 0, _, table, b => (b, some table)
  | fuel + 1, lvl, table, b =>
    let at_ := table + 8 * (va / 2 ^ levelShift lvl % levelEntries lvl)
    let e := leNat (b.1.readPa at_ 8)
    if e % 2 == 1 then
      if e / 2 % 2 == 1 then ((b.1, b.2.1, 2), none) else tableFor p va fuel (lvl + 1) (e / 256 % 2 ^ 44 * 256) b
    else
      let t := takeFrame b p none
      if t.1.2.2 != 0 then (t.1, none)
      else tableFor p va fuel (lvl + 1) (65536 * t.2) (t.1.1.writePa at_ (pteBytes (65536 * t.2) false), t.1.2)

/-- Maps one 64 KiB page (DESIGN CHOICE, log 44). -/
def mapPage (p root va bits : Nat) (named : Option Nat) (b : Building) : Building :=
  if b.2.2 != 0 then b
  else
    match tableFor p va 4 0 root b with
    | (b, none) => b
    | (b, some table) =>
      let at_ := table + 8 * (va / 65536 % 32)
      if leNat (b.1.readPa at_ 8) % 2 == 1 then (b.1, b.2.1, 2)
      else
        let t := takeFrame b p named
        if t.1.2.2 != 0 then t.1 else (t.1.1.writePa at_ (toBytes 8 (65536 * t.2 + bits)), t.1.2)

/-- A range of an address space that ALLOC and FREE accept. -/
def pagesOk (va size : Nat) : Bool := decide (0 < size) && decide (va + size ≤ 2 ^ 57)

/-- The 64 KiB pages that a range touches. -/
def pagesOf (va size : Nat) : List Nat :=
  (List.range ((va % 65536 + size + 65535) / 65536)).map (fun k => va / 65536 * 65536 + 65536 * k)

/-- The root under which ALLOC, FREE and WINDOW work: the context's own, or that of the pending address space. -/
def State.rootFor (s : State) (p ctx : Nat) : Option Nat :=
  if s.inPart p ctx then (s.ctx? ctx).map (fun c => c.ptroot.toNat)
  else if s.pendingIn p ctx then (aget? s.pending ctx).map (fun x => x.root.toNat)
  else none

/-- ALLOC: nothing changes where it fails. -/
def State.allocPages (s : State) (p : Nat) (a : AllocArgs) : State × Nat :=
  let used := s.liveRanges
  let fresh := (s.ctx? a.ctx).isNone && (aget? s.pending a.ctx).isNone
  let bad := decide (64 ≤ a.ctx) || a.ctx == 0 || !pagesOk a.va a.size || (a.w && !a.r) || !(a.r || a.w || a.x) ||
    (!a.frames.isEmpty && a.frames.length != (pagesOf a.va a.size).length) || (!fresh && (s.rootFor p a.ctx).isNone)
  if bad then (s, 2)
  else
    let start : Building × Nat :=
      if fresh then takeFrame (s, used, 0) p none else ((s, used, 0), ((s.rootFor p a.ctx).getD 0) / 65536)
    let root := if fresh then 65536 * start.2 else (s.rootFor p a.ctx).getD 0
    let bits := 3 + (if a.r then 4 else 0) + (if a.w then 8 else 0) + (if a.x then 16 else 0)
    let b := (pagesOf a.va a.size).zipIdx.foldl (fun b k => mapPage p root k.1 bits a.frames[k.2]? b) start.1
    if b.2.2 != 0 then (s, b.2.2)
    else
      (if fresh then { b.1 with pending := aset b.1.pending a.ctx { part := p, root := BitVec.ofNat 64 root } } else b.1, 0)

def execAlloc (q : MgmtReq) (a : AllocArgs) (s : State) : Host.Outcome State Fault Refusal :=
  s.manage q (fun p s => let r := s.allocPages p a; (r.1, some r.2))

/-- The entry that maps an address, with its level. -/
def leafOf (s : State) (va : Nat) : Nat → Nat → Nat → Option (Nat × Nat)
  | 0, _, _ => none
  | fuel + 1, lvl, table =>
    let at_ := table + 8 * (va / 2 ^ levelShift lvl % levelEntries lvl)
    let e := leNat (s.readPa at_ 8)
    if e % 2 == 0 then none
    else if e / 2 % 2 == 1 then some (at_, lvl)
    else leafOf s va fuel (lvl + 1) (e / 256 % 2 ^ 44 * 256)

/-- The translations that FREE drops. -/
def freed (ctx va size : Nat) (t : Tlb) : Bool :=
  t.asid == ctx && overlaps t.va t.size (va / 65536 * 65536) (65536 * (pagesOf va size).length)

/-- FREE (R352, R436): the pages are unmapped, every access of the context made so far is performed, and its translations
are dropped. While an access through them waits at the memory side, so does the request (DEDUCED, log 45). -/
def execFree (q : MgmtReq) (ctx va size : Nat) (s : State) : Host.Outcome State Fault Refusal :=
  let drops := s.tlb.filter (freed ctx va size)
  let busy := s.waitingAccesses.any (fun x =>
    match x.2 with
    | .mem pa => drops.any (fun t => t.asid == x.1 && decide (t.pa ≤ pa) && decide (pa < t.pa + t.size))
    | _ => false)
  if busy then .next s
  else
    s.manage q (fun p s =>
      match s.rootFor p ctx with
      | none => (s, some 2)
      | some root =>
        let leaves := (pagesOf va size).filterMap (fun page => leafOf s page 5 0 root)
        let whole := fun (l : Nat × Nat) => decide (leaves.count l * 65536 = 2 ^ levelShift l.2)
        if !pagesOk va size || leaves.isEmpty || !leaves.all whole then (s, some 2)
        else
          let s := (s.waves.filter (fun e => e.2.ctx == ctx && !e.2.frozen)).foldl (fun s e => s.drainWave e.1) s
          let s := leaves.eraseDups.foldl (fun s l => s.writePa l.1 (List.replicate 8 0)) s
          (s.dropTlb (freed ctx va size), some 0))

/-! ### WINDOW and REGION (R405, R437, R444) -/

/-- A window is badly named (DEDUCED, log 51). -/
def State.windowBad (s : State) (p : Nat) (a : WindowArgs) : Bool :=
  (s.rootFor p a.ctx).isNone || a.nbase % 4096 != 0 || a.len % 4096 != 0 || a.vbase % 4096 != 0 || a.len == 0 ||
  decide (2 ^ 48 < a.nbase + a.len) || decide (2 ^ 57 < a.vbase + a.len) || a.nodes.any (fun n => decide (4096 ≤ n)) ||
  ((a.doorbell.map (fun d => spaceOf d != 0 || d.toNat % 8 != 0)).getD false) ||
  s.windows.any (fun v => v.part == p && (overlaps v.nbase v.len a.nbase a.len || (a.rkey.isSome && v.rkey == a.rkey)))

/-- WINDOW (DEDUCED, log 51). -/
def execWindow (q : MgmtReq) (a : WindowArgs) (s : State) : Host.Outcome State Fault Refusal :=
  s.manage q (fun p s =>
    if a.close then
      let mine := fun (v : Win) => v.part == p && v.ctx == some a.ctx && v.nbase == a.nbase
      if s.windows.any mine then ({ s with windows := s.windows.filter (fun v => !mine v) }, some 0) else (s, some 2)
    else if s.windowBad p a then (s, some 2)
    else
      let v : Win := { part := p, ctx := some a.ctx, nbase := a.nbase, len := a.len, vbase := a.vbase, nodes := a.nodes
                       reads := a.reads, writes := a.writes, atomics := a.atomics, rkey := a.rkey, doorbell := a.doorbell }
      ({ s with windows := s.windows ++ [v] }, some 0))

/-- REGION: a region of frames that nothing else uses; the same region may be set again (DEDUCED, log 51). -/
def execRegion (q : MgmtReq) (pbase log2slots node : Nat) (s : State) : Host.Outcome State Fault Refusal :=
  s.manage q (fun p s =>
    let len := 64 * 2 ^ log2slots
    let same := fun (v : Win) => v.part == p && v.ctx.isNone && v.nbase == pbase && v.len == len
    let others := s.windows.filter (fun v => !same v)
    let used := ({ s with windows := s.windows.filter (fun v => v.ctx.isSome) }).liveRanges
    if log2slots < 3 ∨ 20 < log2slots ∨ pbase % 4096 ≠ 0 ∨ s.partHas p pbase len = false ∨ 4096 ≤ node ∨
        (others.any (fun v => v.part == p && overlaps v.nbase v.len pbase len)) = true ∨
        (used.any (fun r => overlaps r.1 r.2 pbase len)) = true then (s, some 2)
    else
      let v : Win := { part := p, ctx := none, nbase := pbase, len, vbase := pbase, nodes := [node], reads := false, writes := false
                       atomics := false, rkey := none, doorbell := none }
      ({ s with windows := others ++ [v] }, some 0))

/-! ### DIVISION and LIFECYCLE (R353, R359, R361) -/

/-- A division that the S9 allows (DEDUCED, log 52). -/
def divisionOk (a : DivisionArgs) : Bool :=
  (a.dies == [4] || a.dies == [2, 2] || a.dies == [2, 1, 1] || a.dies == [1, 1, 1, 1]) &&
  a.nodes.length == a.dies.length && a.mgmt.length == a.dies.length && decide (a.nodes.Nodup) &&
  (a.nodes ++ a.mgmt).all (fun n => decide (n < 4096)) &&
  a.cxl.all (fun r => decide (r.1 < a.dies.length) && decide (Config.cxlBase ≤ r.2.1) && decide (0 < r.2.2) &&
    decide (r.2.1 + r.2.2 ≤ Config.cxlBase + Config.cxlBytes) && r.2.1 % 65536 == 0 && r.2.2 % 65536 == 0) &&
  a.cxl.zipIdx.all (fun x => a.cxl.zipIdx.all (fun y => x.2 == y.2 || !overlaps x.1.2.1 x.1.2.2 y.1.2.1 y.1.2.2))

/-- The partitions of a division. -/
def divide (a : DivisionArgs) : List Partition :=
  (List.range a.dies.length).map (fun i =>
    { dies := (List.range (a.dies.getD i 0)).map ((a.dies.take i).sum + ·), node := a.nodes.getD i 0, mgmt := a.mgmt.getD i 0
      cxl := (a.cxl.filter (fun r => r.1 == i)).map Prod.snd })

/-- DIVISION: memory is wiped, keys are new, and the firmware's image stands again (DESIGN CHOICE, log 6)
(DEDUCED, log 52). -/
def execDivision (q : MgmtReq) (a : DivisionArgs) (s : State) : Host.Outcome State Fault Refusal :=
  s.manage q (fun _ s =>
    if s.ctxs.any (fun e => e.1 != 0) then (s, some 1)
    else if !divisionOk a then (s, some 2)
    else
      let keygen := ((s.parts.map (·.keygen)).foldl max 0)
      let s := { (s.wipeHbm) with
        parts := (divide a).map (fun (p : Partition) => { p with keygen }), windows := [], pending := [], ended := [], tlb := [], icache := [], pins := [] }
      let s := s.rekey
      (match s.dev.image with
       | some f => s.loadImage f
       | none => s, some 0))

/-- The transitions of R361. -/
def mayMove (a b : Nat) : Bool :=
  (a, b) == (0, 1) || (a, b) == (1, 2) || (a, b) == (1, 4) || (a, b) == (2, 3) || (a, b) == (2, 4) || (a, b) == (3, 2) || (a, b) == (3, 4)

/-- A transition ends every context, wipes device memory and renews the keys (R361); nothing runs until the next
reset. -/
def State.moveLife (s : State) (target : Nat) : State :=
  let s := (s.ctxs.map Prod.fst).foldl (fun s k => s.destroyCtx k) s
  let s := { (s.wipeHbm) with windows := [], pending := [], ended := [], pins := [] }
  let s := s.rekey
  { s with dev := { s.dev with
    lcstate := target, booted := false
    fuses := if s.dev.fuses = .blank then .own else s.dev.fuses } }

/-- LIFECYCLE: a blank part, in which no firmware runs, takes it over the sideband (DEDUCED, log 48). -/
def execLifecycle (q : MgmtReq) (target : Nat) (s : State) : Host.Outcome State Fault Refusal :=
  if s.dev.lcstate = 0 ∧ q.sideband = true then
    .next (if mayMove 0 target then (s.moveLife target).respond q 0 else s.respond q 3)
  else
    s.manage q (fun _ s => if mayMove s.dev.lcstate target then (s.moveLife target, some 0) else (s, some 3))

/-! ### SPARE and RETIRE (R399, R413) -/

/-- SPARE: marks a core of the partition as failing. -/
def execSpare (q : MgmtReq) (core : Nat) (s : State) : Host.Outcome State Fault Refusal :=
  s.manage q (fun p s =>
    if (s.partLanterns p).contains (core / 24) && s.activeCore core then (nextOr s (execCoreSparing core s), some 0)
    else (s, some 2))

/-- Frames of a channel that lie in a list of ranges. -/
def framesIn (ch : Nat) (l : List (Nat × Nat)) : List Nat :=
  (l.flatMap (fun r => ((List.range ((r.1 + r.2 + 65535) / 65536 - r.1 / 65536)).map (r.1 / 65536 + ·)).filter
    (fun f => channelOf (65536 * f) == some ch))).eraseDups

/-- Moves the storage of a frame to another: data with its errors; metadata stays with the address that names it. -/
def State.moveFrame (s : State) (src dst : Nat) : State :=
  let at_ := fun (a : Nat) => a / 65536 == src
  let moved := s.mem.filter (fun c => at_ c.1)
  let kept := s.mem.filter (fun c => !at_ c.1 && c.1 / 65536 != dst)
  let follow := fun (k n : Nat) => if k / n == src then n * dst + k % n else k
  { s with
    keyed := keyBlocks s.keyed ((s.keyed.filter (fun e => e.1 / 1024 == src)).map (fun e => follow e.1 1024))
    wiped := if tget false s.wiped src then keyBlocks s.wiped [dst] else s.wiped
    hidden := (s.hidden.filter (fun h => h.word / 8192 != dst)).map (fun h => { h with word := follow h.word 8192 })
    mem := moved.foldl (fun m c => Memory.write m (65536 * dst + c.1 % 65536) c.2) kept
    bad := (s.bad.filter (fun b => b / 1024 != dst)).map (fun b => if b / 1024 == src then 1024 * dst + b % 1024 else b) }

/-- Redirects a frame's address to a destination (R413; DEDUCED, log 75). -/
def State.redirectFrame (s : State) (f dst : Nat) : State :=
  let src := (((s.served (65536 * f)).getD (65536 * f)) / 65536)
  let s := s.moveFrame src dst
  { s with redirect := tset 0 s.redirect f (dst + 1) }

/-- What RETIRE would move: frames of the channel in use under their own address, and frames that it serves for others
(DEDUCED, log 75). -/
def State.toMove (s : State) (ch : Nat) : List Nat :=
  ((framesIn ch s.liveRanges).filter (fun f => tget 0 s.redirect f == 0 && !s.redirect.any (fun e => e.2 == f + 1))) ++
  (s.redirect.filter (fun e => channelOf (65536 * (e.2 - 1)) == some ch)).map Prod.fst

/-- The channel's tag store has a pinned record, or a save is being written into the channel (R387, R398)
(DEDUCED, log 45). -/
def State.channelBusy (s : State) (ch : Nat) : Bool :=
  s.tagrecs.any (fun r => r.pinned && channelOf ((s.served (64 * r.store)).getD (64 * r.store)) == some ch) ||
  s.freezes.any (fun e => e.2.phase == 1 && (List.range (e.2.size / 65536 + 2)).any (fun i =>
    channelOf (s.place? (min (e.2.area + 65536 * i) (e.2.area + max 64 e.2.size - 1))) == some ch))

/-- RETIRE (R413): it waits while the channel is busy. -/
def execRetire (q : MgmtReq) (stack channel : Nat) (dest : List Nat) (s : State) : Host.Outcome State Fault Refusal :=
  let ch := 32 * stack + channel
  if s.dev.booted && s.channelBusy ch then .next s
  else
    s.manage q (fun p s =>
      let dies := ((s.parts[p]?).map (·.dies)).getD []
      let used := s.liveRanges
      let free := 65536 - (s.redirect.filter (fun e => s.partHas p (65536 * e.1) 65536)).length
      let moves := s.toMove ch
      let entries := moves.filter (fun f => tget 0 s.redirect f == 0)
      let destOk := fun (f : Nat) => s.partHas p (65536 * f) 65536 && !s.taken used f &&
        ((channelOf (65536 * f)).map (fun c => c / 32 != stack)).getD true
      if !dies.contains (stack / 3) || decide (32 ≤ channel) || s.retired.contains ch then (s, some 2)
      else if free < entries.length then (s, some 7)
      else if dest.length < moves.length ∨ dest.all destOk = false ∨ ¬ dest.Nodup then (s, some 2)
      else
        let s := (moves.zip dest).foldl (fun s x => s.redirectFrame x.1 x.2) s
        ({ s with retired := s.retired ++ [ch] }, some 0))

/-! ### FIRMWARE and TELEMETRY (R362, R441, R443) -/

/-- FIRMWARE: stages an image for the next reset; the boot ROM performs it over the sideband. -/
def execFirmware (q : MgmtReq) (image : FirmwareImage) (s : State) : Host.Outcome State Fault Refusal :=
  let stage := fun (s : State) =>
    if s.imageVerified image then ({ s with dev := { s.dev with image := some image } }, some 0) else (s, some 6)
  if !s.dev.booted && q.sideband && s.dev.lcstate != 4 then
    let r := stage s
    .next (r.1.respond q (r.2.getD 0))
  else s.manage q (fun _ s => stage s)

/-- Temperatures, rails and coolant, which are measured: free values (DESIGN CHOICE, log 10)
(DESIGN CHOICE, log 59). -/
def State.measured (s : State) : List Nat := (List.range 64).map (fun i => (s.free (freeAt 351 0 + i)).toNat)

/-- The telemetry block: the clock, the forecasts, PTP lock, spares in use, the counts and the measurement (R441)
(DESIGN CHOICE, log 17; DESIGN CHOICE, log 59). -/
def State.telemetryBlock (s : State) : List Nat :=
  [s.dev.clockMHz, if s.dev.ptpLocked then 1 else 0, beNat s.dev.m0] ++ s.parts.map (·.forecast) ++
  s.lanterns.map (fun l => 2 - l.spares.length) ++ s.dev.fabric.map (·.badLanes.length) ++ s.dev.ethernet.map (·.badLanes.length) ++
  s.dev.telemetry.flatMap (fun e => [e.1, e.2]) ++ s.measured

/-- TELEMETRY: a retired part still answers it over the sideband (R361). -/
def execTelemetry (q : MgmtReq) (s : State) : Host.Outcome State Fault Refusal :=
  let answer := fun (s : State) => (s.emit (.telemetry q.source s.telemetryBlock)).useFree
  if s.dev.lcstate = 4 ∧ q.sideband = true then .next ((answer s).respond q 0)
  else s.manage q (fun _ s => (answer s, some 0))

/-! ### Read-out (R361, R414) -/

/-- The management port may read what a context holds on the chip: all of it in BLANK and DEBUG, context 0's in PROVISIONED
and DEPLOYED, nothing in RETIRED. -/
def State.mayProbe (s : State) (ctx : Nat) : Bool :=
  s.dev.lcstate == 0 || s.dev.lcstate == 3 || (ctx == 0 && s.dev.lcstate != 4)

/-- What a probe finds, with the context that holds it; none where there is no such thing. Device memory is read only once
the clocks are stopped. -/
def State.probed (s : State) (p : Probe) : Option (Nat × List Word) :=
  let wave := fun (wid : Nat) (f : Wave → List Word) => (s.wave? wid).map (fun w => (w.ctx, f w))
  let bytes := fun (l : List Byte) => l.map (fun b => b.setWidth 64)
  match p with
  | .reg wid lane r => wave wid (fun w => [w.reg r lane])
  | .sysreg wid lane n => wave wid (fun w => [s.sysReg w lane n])
  | .cell wid i j => wave wid (fun w => [(w.cell i j).setWidth 64])
  | .pcs wid => wave wid (fun w => w.fflags :: (List.range 32).map (fun t => (w.thread t).pc))
  | .spad wg off n => (s.wg? wg).map (fun g => (g.ctx, bytes (readTable g.spad off n)))
  | .held id r => (aget? s.recs id).map (fun x => (x.ctx, [tget 0 x.vals r]))
  | .memory pa n => if s.dev.selfRefresh then some (1, bytes (s.readPa pa n)) else none

/-- A read-out by the management port (R361, R414): nothing where the life-cycle state forbids it (DEDUCED, log 48). -/
def State.readOut (s : State) (p : Probe) : State :=
  match s.probed p with
  | none => s
  | some (ctx, l) => if s.mayProbe ctx || (s.dev.stopped && s.dev.lcstate == 1) then s.emit (.readOut l) else s

end Sys2Proof.Machine
end

