-- ==== Sys2Proof/Machine/Physical.lean ====
section
/-!
DEFINITION. The events of the part itself: clock stop, reset and over-temperature (spec/21 R414, spec/18 R356, R362, spec/25
R442), repairs (spec/21 R411, R412, spec/25 R439), power and forecast (spec/01 R7, spec/11 R246, R247), and time (spec/25
R438).
-/

namespace Sys2Proof.Machine

/-! ### CLOCK_STOP, OVERTEMPERATURE_STOP, RESET -/

/-- CLOCK_STOP (R414): the HBM4E stacks refresh themselves, and every clock stops; ignored and reported in DEPLOYED and RETIRED. -/
def execClockStop (s : State) : Host.Outcome State Fault Refusal :=
  if s.dev.lcstate = 2 ∨ s.dev.lcstate = 4 then .next (s.report evStopIgnored)
  else .next { s with dev := { s.dev with selfRefresh := true, stopped := true } }

/-- OVERTEMPERATURE_STOP (R442): every clock stops, and the sideband reports it (DESIGN CHOICE, log 40). -/
def execOvertemperatureStop (die : Nat) (s : State) : Host.Outcome State Fault Refusal :=
  if 4 ≤ die then .next s
  else
    let s := s.report evOvertemperature
    .next { s with dev := { s.dev with stopped := true, overheated := true } }

/-- What a reset leaves: the on-chip state wiped, the single four-die partition; the fuses, the staged image, the repairs,
the ports' lanes, device memory and its metadata stay (R356, R412, R413, R435; DESIGN CHOICE, log 3)
(DEDUCED, log 4; DEDUCED, log 47; DESIGN CHOICE, log 97). -/
def State.afterReset (s : State) : State :=
  { State.reset with
    mem := s.mem, btags := s.btags, descs := s.descs, vers := s.vers, bad := s.bad, keyed := s.keyed, wiped := s.wiped
    redirect := s.redirect, retired := s.retired
    lanterns := s.lanterns.map (fun l => { resetLantern with ring := l.ring, spares := l.spares })
    parts := State.reset.parts.map (fun (p : Partition) => { p with keygen := (s.parts.map (·.keygen)).foldl max 0 })
    dev := { State.reset.dev with
      lcstate := s.dev.lcstate, fuses := s.dev.fuses, image := s.dev.image, fabric := s.dev.fabric, ethernet := s.dev.ethernet }
    out := s.out, agenda := s.agenda, freeCtr := s.freeCtr, nextKey := s.nextKey }

/-- RESET (R355, R356, R362): new keys make old memory unreadable, and the boot ROM starts context 0
(DESIGN CHOICE, log 46; DEDUCED, log 47). -/
def execReset (s : State) : Host.Outcome State Fault Refusal := .next s.afterReset.rekey.boot

/-! ### Repair in service -/

/-- Changes one port. -/
def State.modPort (s : State) (eth : Bool) (port : Nat) (f : Port → Port) : State :=
  if eth then { s with dev := { s.dev with ethernet := lmod s.dev.ethernet port f } }
  else { s with dev := { s.dev with fabric := lmod s.dev.fabric port f } }

def State.port? (s : State) (eth : Bool) (port : Nat) : Option Port := if eth then s.dev.ethernet[port]? else s.dev.fabric[port]?

/-- LANE_FAILURE (R411): the first failed lane is replaced by the spare; a second one halves the port. A fabric port has
five lanes (R433), an Ethernet port nine (R437). -/
def execLaneFailure (eth : Bool) (port lane : Nat) (s : State) : Host.Outcome State Fault Refusal :=
  match s.port? eth port with
  | none => .next s
  | some p =>
    let fail := fun (p : Port) => { p with badLanes := p.badLanes ++ [lane] }
    if decide ((if eth then 9 else 5) ≤ lane) || p.badLanes.contains lane then .next s
    else if p.badLanes = [] then .next ((s.modPort eth port (fun p => { fail p with retraining := true })).report evLaneSpared)
    else .next ((s.modPort eth port (fun p => { fail p with half := true })).report evHalfWidth)

/-- LANE_RETRAIN_COMPLETE (R411). -/
def execLaneRetrainComplete (eth : Bool) (port : Nat) (s : State) : Host.Outcome State Fault Refusal :=
  .next (s.modPort eth port (fun p => { p with retraining := false }))

/-- HBM_ROW_REPAIR (R412): no value that any agent reads changes; the repair is counted (DEDUCED, log 57). -/
def execHbmRowRepair (stack channel _row : Nat) (s : State) : Host.Outcome State Fault Refusal :=
  if 12 ≤ stack ∨ 32 ≤ channel then .next s else .next (s.count evRowRepaired)

/-- CXL_LINK_FAILURE (R439): the port's range refuses accesses until a reset (DEDUCED, log 116). -/
def execCxlLinkFailure (port : Nat) (s : State) : Host.Outcome State Fault Refusal :=
  if 4 ≤ port then .next s
  else
    let r := Config.cxlRange port
    let base := Config.cxlBase + r.1 % Config.cxlBytes
    let range := (base, min r.2 (Config.cxlBase + Config.cxlBytes - base))
    .next ({ s with dev := { s.dev with cxlDown := s.dev.cxlDown.filter (· != range) ++ [range] } }.report evCxlDown)

/-! ### Forecast and power (R7, R246, R247) -/

/-- Waves of the gangs and ready tasks queued in a partition (DEDUCED, log 56). -/
def State.queuedWaves (s : State) (part : Nat) : Nat :=
  ((s.launches.filter (fun e => s.partOfCtx e.2.ctx == part && e.2.queued)).map (fun e =>
    (e.2.gangs - e.2.nextGang + e.2.returned.length) * e.2.gsize * ((e.2.wgsize + 31) / 32))).sum +
  ((s.partLanterns part).map (fun l =>
    (((s.lanterns[l]?).map (fun l => (l.tasks.filter (fun k => k.st == .ready)).length)).getD 0 + 31) / 32)).sum

/-- Active cores of a partition. -/
def State.coresOf (s : State) (part : Nat) : List Nat :=
  (s.partLanterns part).flatMap (fun l => ((List.range 24).map (24 * l + ·)).filter s.activeCore)

/-- Free wave slots of a partition (DEDUCED, log 56). -/
def State.freeWaves (s : State) (part : Nat) : Nat :=
  ((s.coresOf part).map (fun c => 64 - ((s.onCore c (fun _ _ => false)).map (fun x => x.2.2)).sum)).sum

/-- The forecast of a partition (R246; DEDUCED, log 56). -/
def State.forecastOf (s : State) (part used : Nat) : Nat :=
  let c := 4800 * (s.coresOf part).length
  if c = 0 then 0 else min 0xFFFF (65536 * (used + 1200 * min (s.queuedWaves part) (s.freeWaves part)) / c)

/-- The clock in MHz that power control commits to for a forecast: no more than the module can hold, which is free (R247)
(DESIGN CHOICE, log 55). -/
def State.commitment (s : State) (forecast : Nat) : Nat :=
  min (600 + (600 * forecast + 25 * 65536 - 1) / (25 * 65536) * 25) (600 + (s.free (freeAt 352 0)).toNat % 601)

/-- FORECAST_UPDATE (R246, R247): the forecast is written, and power control commits to a clock for the window that begins
4 µs later. -/
def execForecastUpdate (part : Nat) (s : State) : Host.Outcome State Fault Refusal :=
  match s.parts[part]? with
  | none => .next s
  | some p =>
    let f := s.forecastOf part p.used
    let floor := s.commitment f
    let s := s.modPart part (fun p => { p with
      forecast := f, used := 0
      floors := p.floors.filter (fun x => decide (s.dev.clk < x.1 + Config.ticks1us)) ++ [(s.dev.clk + 4 * Config.ticks1us, floor)] })
    .next ({ s with dev := { s.dev with clockMHz := s.clockAt s.dev.clk s.dev.clockMHz, throttled := false } }.useFree)

/-- POWER_LIMIT_EXCEEDED (R7): under DET the clock stays, issue slots are withheld and a thermal event is raised; else the
clock falls, not below the commitments of open windows (DESIGN CHOICE, log 55). -/
def execPowerLimitExceeded (s : State) : Host.Outcome State Fault Refusal :=
  if s.detRuns then .next ({ s with dev := { s.dev with throttled := true, clockMHz := 1200 } }.report evThermal)
  else
    let lower := min s.dev.clockMHz (600 + (s.free (freeAt 352 1)).toNat % 601)
    .next ({ s with dev := { s.dev with clockMHz := s.clockAt s.dev.clk lower } }.useFree)

/-! ### Time (R438) -/

/-- PTP_OFFSET_CORRECTION (R438), in nanoseconds that sys.ptp lacks: a forward offset above 1 ms is a step, any other is
slewed (DEDUCED, log 94). -/
def execPtpOffsetCorrection (offset : Int) (s : State) : Host.Outcome State Fault Refusal :=
  if 1000000 < offset then
    .next { s with dev := { s.dev with ptp := s.dev.ptp + offset.toNat, slew := 0, ptpLocked := true } }
  else .next { s with dev := { s.dev with slew := offset, ptpLocked := true } }

end Sys2Proof.Machine
end

