-- ==== Sys2Proof/Machine/Remote.lean ====
section
/-!
DEFINITION. Accesses that arrive from other nodes: the scale-up fabric through inbound windows (spec/25 R433, R444, spec/08
R181) and Ethernet (R437).
-/

namespace Sys2Proof.Machine

/-! ### Fabric -/

/-- Sizes of one access (R190), with its natural alignment (DEDUCED, log 58). -/
def accessSize (n a : Nat) : Bool := [1, 2, 4, 8, 16, 32].contains n && a % n == 0

/-- An atomic's operation and width (R197). -/
def atomicOk (op n : Nat) : Bool := (n == 4 || n == 8) && decide (op ≤ 12)

/-- What an access needs. -/
def kindNeeds : FabricKind → Bool × Bool
  | .read => (true, false)
  | .write => (false, true)
  | _ => (true, true)

def kindFits (k : FabricKind) (n len : Nat) : Bool :=
  match k with
  | .read => len == 0
  | .write => len == n
  | .atomic op => len == n && atomicOk op.toNat n && op.toNat != 12
  | .compareSwap _ => len == n && (n == 4 || n == 8)

/-- Serves one access at the physical address that its window gives: the state with the response. -/
def State.serve (s : State) (q : FabricReq) (va : Option (Nat × Nat)) (pa : Nat) : State :=
  let old := s.nodeRead (va.any (fun x => s.inSpill x.1 x.2)) pa q.size (freeAt 353 0)
  let put := fun (bs : List Byte) => (s.hide pa q.size [] none true).nodeWrite va pa bs
  match q.kind with
  | .read => s.emit (.read q.source old)
  | .write => put q.data
  | .atomic op =>
    (put (toBytes q.size (atomFn op.toNat q.size (leNat old) (leNat q.data % 2 ^ (8 * q.size))))).emit (.read q.source old)
  | .compareSwap c =>
    let m := 2 ^ (8 * q.size)
    (put (toBytes q.size (if leNat old = c.toNat % m then leNat q.data % m else leNat old))).emit (.read q.source old)

/-- REMOTE_ACCESS (R444): served through an inbound window as an access of a system-scope agent that leaves block tags
alone, or refused with nothing changed (DEDUCED, log 58). -/
def execRemoteAccess (q : FabricReq) (s : State) : Host.Outcome State Fault Refusal :=
  match (if s.portBusy false q.source then none else s.partOfNode q.endpoint) with
  | none => .next s
  | some p =>
    let s := s.hear q.source
    let n := kindNeeds q.kind
    match s.inbound p q.source q.naddr q.size n.1 n.2 with
    | none => .next (s.emit (.refusal q.source))
    | some pa =>
      if !accessSize q.size q.naddr || !kindFits q.kind q.size q.data.length || (s.badPa pa q.size && decide (q.size < 64)) then
        .next (s.emit (.refusal q.source))
      else .next ((s.serve q (s.inboundVa p q.source q.naddr q.size n.1 n.2) pa).useFree)

/-! ### Writes of several bytes (R181, R433, R437) -/

/-- Where each byte of a virtual range lies, or none where one of them fails its check (R444). -/
def State.inboundBytes (s : State) (ctx va n : Nat) : Option (List Nat) :=
  (List.range n).mapM (fun i =>
    match s.walk ctx (va + i) with
    | .error _ => none
    | .ok m => if !m.w || (s.served m.pa).isNone then none else some m.pa)

/-- Writes bytes of a virtual range, if every one of them may be written: into blocks whose data is correct, or that the
write covers whole (R412). The cores that run the context's waves need not have seen it before an acquire at system scope
(R181; DESIGN CHOICE, log 91). -/
def State.inboundWrite (s : State) (ctx va : Nat) (bs : List Byte) : Option State :=
  match s.inboundBytes ctx va bs.length with
  | none => none
  | some pas =>
    let s := s.cure (pas.map (fun a => (a, 1)))
    if pas.any (fun a => s.badPa a 1) then none
    else
      let s := if s.waves.any (fun e => e.2.ctx == ctx && e.2.runs) then s.hideAll (pas.map s.place?) else s
      let s := (pas.zip bs).foldl (fun s x => (s.writePa x.1 [x.2]).spoilSave x.1 1) s
      some ((List.range bs.length).foldl (fun s i => s.spoil ctx (va + i)) s)

/-- POSTED_WRITE (R181, R433, R444): up to 192 bytes, performed in the order of arrival. -/
def execPostedWrite (q : FabricReq) (s : State) : Host.Outcome State Fault Refusal :=
  match (if s.portBusy false q.source then none else s.partOfNode q.endpoint) with
  | none => .next s
  | some p =>
    let s := s.hear q.source
    let n := q.data.length
    let done := match s.windowFor p q.source q.naddr n false true with
      | none => none
      | some v => v.ctx.bind (fun c => s.inboundWrite c (v.vbase + (q.naddr - v.nbase)) q.data)
    if 192 < n then .next (s.emit (.refusal q.source))
    else
      match done with
      | none => .next (s.emit (.refusal q.source))
      | some t => .next t

/-! ### Ethernet (R437) -/

/-- The window of a remote key, for a connection's node. -/
def State.rkeyWindow (s : State) (q : RdmaReq) : Option (Win × Nat) :=
  (s.windows.find? (fun v => v.rkey == some q.rkey && v.nodes.contains q.node && v.writes && decide (q.offset + q.data.length ≤ v.len))).bind
    (fun v => v.ctx.map (fun c => (v, c)))

/-- A refused WRITE: a NAK, counted in telemetry. -/
def State.nak (s : State) (node : Nat) : State := (s.count evRefusedWrite).emit (.nak node)

/-- RDMA_WRITE (R437). -/
def execRdmaWrite (q : RdmaReq) (s : State) : Host.Outcome State Fault Refusal :=
  if s.portBusy true q.node then .next s
  else
  match s.rkeyWindow q with
  | none => .next (s.nak q.node)
  | some (v, c) =>
    match s.inboundWrite c (v.vbase + q.offset) q.data with
    | none => .next (s.nak q.node)
    | some t => .next t

/-- RDMA_WRITE_IMMEDIATE (R437): the WRITE, then its immediate in the window's doorbell word (DEDUCED, log 58). -/
def execRdmaWriteImmediate (q : RdmaReq) (imm : BitVec 32) (s : State) : Host.Outcome State Fault Refusal :=
  if s.portBusy true q.node then .next s
  else
  match s.rkeyWindow q with
  | none => .next (s.nak q.node)
  | some (v, c) =>
    match v.doorbell with
    | none => .next (s.nak q.node)
    | some d =>
      match (s.inboundWrite c (v.vbase + q.offset) q.data).bind (fun t => t.inboundWrite c (vaOf d) (toBytes 8 imm.toNat)) with
      | none => .next (s.nak q.node)
      | some t => .next t

end Sys2Proof.Machine
end

