-- ==== Sys2Proof/Machine/Dispatch.lean ====
section
/-!
DEFINITION. The meaning of every instruction and event: one arm per constructor of Instr.
-/

namespace Sys2Proof.Machine

def exec (i : Instr) (s : State) : Host.Outcome State Fault Refusal :=
  match i with
  | .nop o => Sys2Proof.Machine.execNop o s
  | .mov o => Sys2Proof.Machine.execMov o s
  | .li o => Sys2Proof.Machine.execLi o s
  | .liw o => Sys2Proof.Machine.execLiw o s
  | .iadd o => Sys2Proof.Machine.execIadd o s
  | .isub o => Sys2Proof.Machine.execIsub o s
  | .imul o => Sys2Proof.Machine.execImul o s
  | .imulh o => Sys2Proof.Machine.execImulh o s
  | .imad o => Sys2Proof.Machine.execImad o s
  | .iaddi o => Sys2Proof.Machine.execIaddi o s
  | .imin o => Sys2Proof.Machine.execImin o s
  | .imax o => Sys2Proof.Machine.execImax o s
  | .iabs o => Sys2Proof.Machine.execIabs o s
  | .ineg o => Sys2Proof.Machine.execIneg o s
  | .and o => Sys2Proof.Machine.execAnd o s
  | .or o => Sys2Proof.Machine.execOr o s
  | .xor o => Sys2Proof.Machine.execXor o s
  | .andn o => Sys2Proof.Machine.execAndn o s
  | .shl o => Sys2Proof.Machine.execShl o s
  | .shr o => Sys2Proof.Machine.execShr o s
  | .bfe o => Sys2Proof.Machine.execBfe o s
  | .bfi o => Sys2Proof.Machine.execBfi o s
  | .popc o => Sys2Proof.Machine.execPopc o s
  | .clz o => Sys2Proof.Machine.execClz o s
  | .brev o => Sys2Proof.Machine.execBrev o s
  | .icmp o => Sys2Proof.Machine.execIcmp o s
  | .sel o => Sys2Proof.Machine.execSel o s
  | .lea o => Sys2Proof.Machine.execLea o s
  | .pspace o => Sys2Proof.Machine.execPspace o s
  | .mkaff o => Sys2Proof.Machine.execMkaff o s
  | .idot4 o => Sys2Proof.Machine.execIdot4 o s
  | .clog o => Sys2Proof.Machine.execClog o s
  | .fadd o => Sys2Proof.Machine.execFadd o s
  | .fsub o => Sys2Proof.Machine.execFsub o s
  | .fmul o => Sys2Proof.Machine.execFmul o s
  | .ffma o => Sys2Proof.Machine.execFfma o s
  | .fmin o => Sys2Proof.Machine.execFmin o s
  | .fmax o => Sys2Proof.Machine.execFmax o s
  | .fcmp o => Sys2Proof.Machine.execFcmp o s
  | .fdiv o => Sys2Proof.Machine.execFdiv o s
  | .fsqrt o => Sys2Proof.Machine.execFsqrt o s
  | .frcp o => Sys2Proof.Machine.execFrcp o s
  | .frsq o => Sys2Proof.Machine.execFrsq o s
  | .fexp2 o => Sys2Proof.Machine.execFexp2 o s
  | .flog2 o => Sys2Proof.Machine.execFlog2 o s
  | .fsin o => Sys2Proof.Machine.execFsin o s
  | .fcos o => Sys2Proof.Machine.execFcos o s
  | .fscs o => Sys2Proof.Machine.execFscs o s
  | .ftanh o => Sys2Proof.Machine.execFtanh o s
  | .frnd o => Sys2Proof.Machine.execFrnd o s
  | .fdot2 o => Sys2Proof.Machine.execFdot2 o s
  | .fclamp o => Sys2Proof.Machine.execFclamp o s
  | .fclass o => Sys2Proof.Machine.execFclass o s
  | .fscale o => Sys2Proof.Machine.execFscale o s
  | .fsum o => Sys2Proof.Machine.execFsum o s
  | .flerp o => Sys2Proof.Machine.execFlerp o s
  | .cvt o => Sys2Proof.Machine.execCvt o s
  | .cvtEf o => Sys2Proof.Machine.execCvtEf o s
  | .cvti o => Sys2Proof.Machine.execCvti o s
  | .pack o => Sys2Proof.Machine.execPack o s
  | .unpk o => Sys2Proof.Machine.execUnpk o s
  | .swz o => Sys2Proof.Machine.execSwz o s
  | .decb o => Sys2Proof.Machine.execDecb o s
  | .vqdec o => Sys2Proof.Machine.execVqdec o s
  | .qnt o => Sys2Proof.Machine.execQnt o s
  | .rand o => Sys2Proof.Machine.execRand o s
  | .amax o => Sys2Proof.Machine.execAmax o s
  | .shfl o => Sys2Proof.Machine.execShfl o s
  | .shflx o => Sys2Proof.Machine.execShflx o s
  | .vote o => Sys2Proof.Machine.execVote o s
  | .peers o => Sys2Proof.Machine.execPeers o s
  | .wred o => Sys2Proof.Machine.execWred o s
  | .wscan o => Sys2Proof.Machine.execWscan o s
  | .exchangeGroupIssue w lane => Sys2Proof.Machine.execExchangeGroupIssue w lane s
  | .ld o => Sys2Proof.Machine.execLd o s
  | .st o => Sys2Proof.Machine.execSt o s
  | .ldq o => Sys2Proof.Machine.execLdq o s
  | .pref o => Sys2Proof.Machine.execPref o s
  | .atom o => Sys2Proof.Machine.execAtom o s
  | .atomc o => Sys2Proof.Machine.execAtomc o s
  | .red o => Sys2Proof.Machine.execRed o s
  | .faddo o => Sys2Proof.Machine.execFaddo o s
  | .faddoApply u at_ => Sys2Proof.Machine.execFaddoApply u at_ s
  | .chain o => Sys2Proof.Machine.execChain o s
  | .chainTicketPerformed u at_ => Sys2Proof.Machine.execChainTicketPerformed u at_ s
  | .fence o => Sys2Proof.Machine.execFence o s
  | .waitm o => Sys2Proof.Machine.execWaitm o s
  | .waitmPass w lane => Sys2Proof.Machine.execWaitmPass w lane s
  | .redb o => Sys2Proof.Machine.execRedb o s
  | .redbApply w seq lane => Sys2Proof.Machine.execRedbApply w seq lane s
  | .stt o => Sys2Proof.Machine.execStt o s
  | .ldt o => Sys2Proof.Machine.execLdt o s
  | .pubv o => Sys2Proof.Machine.execPubv o s
  | .snuff o => Sys2Proof.Machine.execSnuff o s
  | .vwait o => Sys2Proof.Machine.execVwait o s
  | .cctl o => Sys2Proof.Machine.execCctl o s
  | .icinv o => Sys2Proof.Machine.execIcinv o s
  | .cpy o => Sys2Proof.Machine.execCpy o s
  | .cpym o => Sys2Proof.Machine.execCpym o s
  | .cpyg o => Sys2Proof.Machine.execCpyg o s
  | .cpyz o => Sys2Proof.Machine.execCpyz o s
  | .kvcmt o => Sys2Proof.Machine.execKvcmt o s
  | .copyComplete w seq => Sys2Proof.Machine.execCopyComplete w seq s
  | .mma o => Sys2Proof.Machine.execMma o s
  | .mmag o => Sys2Proof.Machine.execMmag o s
  | .mmar o => Sys2Proof.Machine.execMmar o s
  | .mperm o => Sys2Proof.Machine.execMperm o s
  | .acld o => Sys2Proof.Machine.execAcld o s
  | .acst o => Sys2Proof.Machine.execAcst o s
  | .acz o => Sys2Proof.Machine.execAcz o s
  | .maskt o => Sys2Proof.Machine.execMaskt o s
  | .opfence o => Sys2Proof.Machine.execOpfence o s
  | .mwait o => Sys2Proof.Machine.execMwait o s
  | .convergenceRoundIssue g k => Sys2Proof.Machine.execConvergenceRoundIssue g k s
  | .engineCommit w => Sys2Proof.Machine.execEngineCommit w s
  | .bra o => Sys2Proof.Machine.execBra o s
  | .brx o => Sys2Proof.Machine.execBrx o s
  | .call o => Sys2Proof.Machine.execCall o s
  | .callt o => Sys2Proof.Machine.execCallt o s
  | .ret o => Sys2Proof.Machine.execRet o s
  | .exit o => Sys2Proof.Machine.execExit o s
  | .join o => Sys2Proof.Machine.execJoin o s
  | .joinRelease w pc => Sys2Proof.Machine.execJoinRelease w pc s
  | .joinDeadlockRelease w => Sys2Proof.Machine.execJoinDeadlockRelease w s
  | .arrv o => Sys2Proof.Machine.execArrv o s
  | .kset o => Sys2Proof.Machine.execKset o s
  | .sign o => Sys2Proof.Machine.execSign o s
  | .bar o => Sys2Proof.Machine.execBar o s
  | .barrierComplete g n => Sys2Proof.Machine.execBarrierComplete g n s
  | .gbar o => Sys2Proof.Machine.execGbar o s
  | .yield o => Sys2Proof.Machine.execYield o s
  | .waitp o => Sys2Proof.Machine.execWaitp o s
  | .promiseDue w lane => Sys2Proof.Machine.execPromiseDue w lane s
  | .acq o => Sys2Proof.Machine.execAcq o s
  | .acqGrant core => Sys2Proof.Machine.execAcqGrant core s
  | .acqPreemption core => Sys2Proof.Machine.execAcqPreemption core s
  | .rel o => Sys2Proof.Machine.execRel o s
  | .rgn o => Sys2Proof.Machine.execRgn o s
  | .launch o => Sys2Proof.Machine.execLaunch o s
  | .draw o => Sys2Proof.Machine.execDraw o s
  | .frameb o => Sys2Proof.Machine.execFrameb o s
  | .framee o => Sys2Proof.Machine.execFramee o s
  | .sleep o => Sys2Proof.Machine.execSleep o s
  | .sleepExpiry w lane => Sys2Proof.Machine.execSleepExpiry w lane s
  | .qpush o => Sys2Proof.Machine.execQpush o s
  | .qpop o => Sys2Proof.Machine.execQpop o s
  | .qctl o => Sys2Proof.Machine.execQctl o s
  | .tspawn o => Sys2Proof.Machine.execTspawn o s
  | .tdep o => Sys2Proof.Machine.execTdep o s
  | .tdepWatch o => Sys2Proof.Machine.execTdepWatch o s
  | .tdec o => Sys2Proof.Machine.execTdec o s
  | .ttime o => Sys2Proof.Machine.execTtime o s
  | .timerWheelTick lantern => Sys2Proof.Machine.execTimerWheelTick lantern s
  | .taskDispatch lantern => Sys2Proof.Machine.execTaskDispatch lantern s
  | .taskHeadStarvation lantern => Sys2Proof.Machine.execTaskHeadStarvation lantern s
  | .heldInstanceAdmit lantern => Sys2Proof.Machine.execHeldInstanceAdmit lantern s
  | .settleDecrement inst => Sys2Proof.Machine.execSettleDecrement inst s
  | .hread o => Sys2Proof.Machine.execHread o s
  | .hrel o => Sys2Proof.Machine.execHrel o s
  | .interp o => Sys2Proof.Machine.execInterp o s
  | .ecull o => Sys2Proof.Machine.execEcull o s
  | .tex o => Sys2Proof.Machine.execTex o s
  | .boxt o => Sys2Proof.Machine.execBoxt o s
  | .trit o => Sys2Proof.Machine.execTrit o s
  | .rspawn o => Sys2Proof.Machine.execRspawn o s
  | .pixlk o => Sys2Proof.Machine.execPixlk o s
  | .pixul o => Sys2Proof.Machine.execPixul o s
  | .pxout o => Sys2Proof.Machine.execPxout o s
  | .fragmentTurnBegin w lane => Sys2Proof.Machine.execFragmentTurnBegin w lane s
  | .sysr o => Sys2Proof.Machine.execSysr o s
  | .sysw o => Sys2Proof.Machine.execSysw o s
  | .syswHoldquota o => Sys2Proof.Machine.execSyswHoldquota o s
  | .syswSpillbase o => Sys2Proof.Machine.execSyswSpillbase o s
  | .syswSpillsize o => Sys2Proof.Machine.execSyswSpillsize o s
  | .syswFqbase o => Sys2Proof.Machine.execSyswFqbase o s
  | .syswFqctl o => Sys2Proof.Machine.execSyswFqctl o s
  | .syswTrapbase o => Sys2Proof.Machine.execSyswTrapbase o s
  | .syswPtroot o => Sys2Proof.Machine.execSyswPtroot o s
  | .syswFflags o => Sys2Proof.Machine.execSyswFflags o s
  | .tlbiVa o => Sys2Proof.Machine.execTlbiVa o s
  | .tlbiAsid o => Sys2Proof.Machine.execTlbiAsid o s
  | .tlbiAll o => Sys2Proof.Machine.execTlbiAll o s
  | .wipe o => Sys2Proof.Machine.execWipe o s
  | .prioXchg o => Sys2Proof.Machine.execPrioXchg o s
  | .prioSet o => Sys2Proof.Machine.execPrioSet o s
  | .prioCoreSwitch core => Sys2Proof.Machine.execPrioCoreSwitch core s
  | .trap o => Sys2Proof.Machine.execTrap o s
  | .brk o => Sys2Proof.Machine.execBrk o s
  | .tret o => Sys2Proof.Machine.execTret o s
  | .frz o => Sys2Proof.Machine.execFrz o s
  | .thaw o => Sys2Proof.Machine.execThaw o s
  | .jrnl o => Sys2Proof.Machine.execJrnl o s
  | .emit o => Sys2Proof.Machine.execEmit o s
  | .jtrunc o => Sys2Proof.Machine.execJtrunc o s
  | .jpart o => Sys2Proof.Machine.execJpart o s
  | .ill => Sys2Proof.Machine.execIll s
  | .loadComplete w seq bad => Sys2Proof.Machine.execLoadComplete w seq bad s
  | .storeAcknowledge w seq => Sys2Proof.Machine.execStoreAcknowledge w seq s
  | .deferredFaultArrival w seq lanes orig => Sys2Proof.Machine.execDeferredFaultArrival w seq lanes orig s
  | .gangAdmission part => Sys2Proof.Machine.execGangAdmission part s
  | .launchAging u => Sys2Proof.Machine.execLaunchAging u s
  | .launchBlocking u => Sys2Proof.Machine.execLaunchBlocking u s
  | .overdueGroup w lane => Sys2Proof.Machine.execOverdueGroup w lane s
  | .gangRetire gang => Sys2Proof.Machine.execGangRetire gang s
  | .launchCompletion u => Sys2Proof.Machine.execLaunchCompletion u s
  | .drawCompletion u => Sys2Proof.Machine.execDrawCompletion u s
  | .frameCompletion ctx => Sys2Proof.Machine.execFrameCompletion ctx s
  | .frameElementStart u => Sys2Proof.Machine.execFrameElementStart u s
  | .objectCreate u => Sys2Proof.Machine.execObjectCreate u s
  | .clusterCreate u obj => Sys2Proof.Machine.execClusterCreate u obj s
  | .vertexCreate u obj cls => Sys2Proof.Machine.execVertexCreate u obj cls s
  | .triangleSetup u obj cls => Sys2Proof.Machine.execTriangleSetup u obj cls s
  | .rayStart u lantern => Sys2Proof.Machine.execRayStart u lantern s
  | .heldRecordRelease rec => Sys2Proof.Machine.execHeldRecordRelease rec s
  | .holdStorageExhausted ctx => Sys2Proof.Machine.execHoldStorageExhausted ctx s
  | .freezeStop f => Sys2Proof.Machine.execFreezeStop f s
  | .saveComplete f => Sys2Proof.Machine.execSaveComplete f s
  | .freezeDeadline f => Sys2Proof.Machine.execFreezeDeadline f s
  | .restore f => Sys2Proof.Machine.execRestore f s
  | .coreSparing core => Sys2Proof.Machine.execCoreSparing core s
  | .forecastUpdate part => Sys2Proof.Machine.execForecastUpdate part s
  | .atomicResultReturn w seq => Sys2Proof.Machine.execAtomicResultReturn w seq s
  | .journalRecordArrival r => Sys2Proof.Machine.execJournalRecordArrival r s
  | .journalAck ctx index node => Sys2Proof.Machine.execJournalAck ctx index node s
  | .partnerLost ctx => Sys2Proof.Machine.execPartnerLost ctx s
  | .remoteAccess r => Sys2Proof.Machine.execRemoteAccess r s
  | .postedWrite r => Sys2Proof.Machine.execPostedWrite r s
  | .rdmaWrite r => Sys2Proof.Machine.execRdmaWrite r s
  | .rdmaWriteImmediate r imm => Sys2Proof.Machine.execRdmaWriteImmediate r imm s
  | .create q a => Sys2Proof.Machine.execCreate q a s
  | .start q a => Sys2Proof.Machine.execStart q a s
  | .destroy q ctx => Sys2Proof.Machine.execDestroy q ctx s
  | .level q ctx level => Sys2Proof.Machine.execLevel q ctx level s
  | .freeze q ctx area deadlineUs => Sys2Proof.Machine.execFreeze q ctx area deadlineUs s
  | .thawTransaction q ctx area => Sys2Proof.Machine.execThawTransaction q ctx area s
  | .journal q a => Sys2Proof.Machine.execJournal q a s
  | .alloc q a => Sys2Proof.Machine.execAlloc q a s
  | .free q ctx va size => Sys2Proof.Machine.execFree q ctx va size s
  | .window q a => Sys2Proof.Machine.execWindow q a s
  | .region q pbase log2slots node => Sys2Proof.Machine.execRegion q pbase log2slots node s
  | .division q a => Sys2Proof.Machine.execDivision q a s
  | .lifecycle q target => Sys2Proof.Machine.execLifecycle q target s
  | .spare q core => Sys2Proof.Machine.execSpare q core s
  | .retire q stack channel dest => Sys2Proof.Machine.execRetire q stack channel dest s
  | .firmware q image => Sys2Proof.Machine.execFirmware q image s
  | .telemetry q => Sys2Proof.Machine.execTelemetry q s
  | .clockStop => Sys2Proof.Machine.execClockStop s
  | .reset => Sys2Proof.Machine.execReset s
  | .laneFailure eth port lane => Sys2Proof.Machine.execLaneFailure eth port lane s
  | .hbmRowRepair stack channel row => Sys2Proof.Machine.execHbmRowRepair stack channel row s
  | .cxlLinkFailure port => Sys2Proof.Machine.execCxlLinkFailure port s
  | .powerLimitExceeded => Sys2Proof.Machine.execPowerLimitExceeded s
  | .overtemperatureStop die => Sys2Proof.Machine.execOvertemperatureStop die s
  | .ptpOffsetCorrection offset => Sys2Proof.Machine.execPtpOffsetCorrection offset s
  | .laneRetrainComplete eth port => Sys2Proof.Machine.execLaneRetrainComplete eth port s

end Sys2Proof.Machine
end

