-- ==== Sys2Proof/Machine/Auto.lean ====
section
/-!
DEFINITION. What happens when the agenda names nothing: the part's own events in a fixed order (DESIGN CHOICE, log 8), and what every
cycle brings.
-/

namespace Sys2Proof.Machine

/-! ### A cycle -/

/-- Some outcomes one after the other. -/
def State.runAll (s : State) (l : List Instr) : State := l.foldl (fun s i => nextOr s (exec i s)) s

/-- What a cycle's operations leave to the task dispatchers, once for each lantern: the timer wheel where sys.ptp has
passed a multiple of 100 ns, and one dispatch (R289, R290), after the launch arbiters (R293). -/
def State.taskCycle (s : State) : State :=
  if s.lanterns.all (fun l => l.tasks.isEmpty) then s
  else
    let arbiters := if s.launches.isEmpty then [] else (List.range s.parts.length).map Instr.gangAdmission
    (s.runAll arbiters).runAll (s.lanterns.zipIdx.flatMap (fun l => if l.1.tasks.isEmpty then [] else
      [.timerWheelTick l.2, .heldInstanceAdmit l.2, .taskDispatch l.2, .taskHeadStarvation l.2]))

/-- One tick with what it completes: the task dispatchers, requests for allotments and RELs, retired gangs, TRETs, and waits
for the partner. -/
def State.tick (s : State) : State :=
  let s := s.cycle.taskCycle.allotCycle.reap
  let s := s.waves.foldl (fun s e => s.tryTret e.1) s
  (s.ctxs.foldl (fun s e => s.tryPartner e.1) s).useFree

/-! ### Events that may be due -/

def Wave.lanesAt (w : Wave) (p : Wait → Bool) : List Nat :=
  (List.range 32).filter (fun t => (w.thread t).present && !(w.thread t).exited && p (w.thread t).wait)

/-- Freezes, from the deadline to the restore. -/
def State.freezeTurns (s : State) : List Instr :=
  s.freezes.flatMap (fun e => [.freezeStop e.1, .saveComplete e.1, .freezeDeadline e.1, .restore e.1])

/-- What completes for one wave's Mitten. -/
def mittenTurns (wid : Nat) (w : Wave) : List Instr :=
  w.mitten.flatMap (fun e =>
    [.loadComplete wid e.seq 0, .storeAcknowledge wid e.seq, .atomicResultReturn wid e.seq, .copyComplete wid e.seq] ++
    (if e.ins matches .redb _ then (lanesOf (e.exec &&& ~~~e.done)).map (fun t => .redbApply wid e.seq t) else [])) ++
  (if w.uncommitted.isEmpty then [] else [.engineCommit wid])

/-- Waits of one wave that may end. -/
def waitTurns (wid : Nat) (w : Wave) : List Instr :=
  (w.lanesAt (· == .exchange)).map (.exchangeGroupIssue wid) ++
  (w.lanesAt isMemWait).map (.waitmPass wid) ++
  (w.lanesAt (fun x => match x with | .sleep _ => true | _ => false)).map (.sleepExpiry wid) ++
  (if w.copies then (w.lanesAt (· == .none)).map (.promiseDue wid) else []) ++
  w.joins.map (fun j => .joinRelease wid j.pc) ++ (if w.joins.isEmpty then [] else [.joinDeadlockRelease wid]) ++
  (if w.kind == .draw && w.rate == 6 then (w.lanesAt (fun _ => true)).map (.fragmentTurnBegin wid) else [])

/-- Rounds and barriers. -/
def State.groupTurns (s : State) : List Instr :=
  s.wgs.flatMap (fun e =>
    (List.range e.2.convs.length).map (.convergenceRoundIssue e.1) ++ (List.range e.2.bars.length).map (.barrierComplete e.1)) ++
  (s.gangs.filter (fun e => e.2.gbar != [])).map (fun e => .barrierComplete e.1 16)

/-- The memory side's ordered accesses. -/
def State.orderedTurns (s : State) : List Instr :=
  s.launches.flatMap (fun e =>
    let at_ := fun (l : Loc) => match l with | .mem pa => some pa | _ => none
    ((e.2.faddo.filterMap (fun c => at_ c.loc)).eraseDups.map (.faddoApply e.1)) ++
    (e.2.chains.filterMap (fun c => at_ c.loc)).map (.chainTicketPerformed e.1))

/-- Allotment requests, failing cores. -/
def State.coreTurns (s : State) : List Instr :=
  let cores := ((s.gangs.filter (fun e => e.2.acqAt.isSome)).flatMap (fun e => (s.acqMembers e.2).map (fun m => m.2.core))).eraseDups
  cores.flatMap (fun c => [.acqGrant c, .acqPreemption c]) ++
  s.lanterns.zipIdx.flatMap (fun l => l.1.failing.map (fun p => .coreSparing (24 * l.2 + p)))

/-- Retirement and completion. -/
def State.endTurns (s : State) : List Instr :=
  s.gangs.map (fun e => .gangRetire e.1) ++ s.settling.map (fun x => .settleDecrement x.id) ++
  s.recs.map (fun e => .heldRecordRelease e.1) ++ s.launches.map (fun e => .launchCompletion e.1) ++
  s.draws.map (fun e => .drawCompletion e.1) ++ s.ctxs.map (fun e => .frameCompletion e.1) ++
  s.ctxs.map (fun e => .holdStorageExhausted e.1) ++ s.ctxs.map (fun e => .partnerLost e.1)

/-- The launch arbiters. -/
def State.admitTurns (s : State) : List Instr :=
  s.launches.flatMap (fun e => [.launchAging e.1, .launchBlocking e.1]) ++
  (if s.launches.isEmpty then [] else (List.range s.parts.length).map .gangAdmission)

/-- The level at which a draw's elements are placed (R232, R258). -/
def State.drawLevel (s : State) (d : DrawUnit) : Nat := min 23 (((s.ctx? d.ctx).map (·.level)).getD 0 + d.delta)

/-- The elements of draws, those of the lowest level first. -/
def State.drawTurns (s : State) : List Instr :=
  (sortBy (fun e => [s.drawLevel e.2, e.1]) s.draws).flatMap (fun e =>
    .frameElementStart e.1 :: .objectCreate e.1 ::
    e.2.objs.flatMap (fun o => .clusterCreate e.1 o.idx :: o.clusters.flatMap (fun c =>
      [.vertexCreate e.1 o.idx c.idx, .triangleSetup e.1 o.idx c.idx])) ++
    (e.2.rays.map (·.lantern)).eraseDups.map (.rayStart e.1))

/-- Groups that have waited 64 cycles; forecasts, once each microsecond (R246). -/
def State.clockTurns (s : State) : List Instr :=
  s.waves.flatMap (fun e => e.2.readySince.map (fun x => .overdueGroup e.1 x.1)) ++
  (s.parts.zipIdx.filter (fun p => 0 < s.dev.clk && s.dev.clk % Config.ticks1us == 0 &&
    p.1.floors.all (fun f => f.1 != s.dev.clk + 4 * Config.ticks1us))).map (fun p => .forecastUpdate p.2)

/-- Every turn that may be due, in the order in which they are tried (DESIGN CHOICE, log 8). -/
def State.dueTurns (s : State) : List Turn :=
  ((s.oldLevels.map (fun e => e.1 / 64)).eraseDups.map (fun c => .event (.prioCoreSwitch c))) ++
  s.freezeTurns.map .event ++
  (s.waves.filter (fun e => !e.2.frozen && e.2.mitten.any Entry.inFifo)).map (fun e => .drain e.1) ++
  (s.waves.flatMap (fun e => mittenTurns e.1 e.2) ++ s.orderedTurns ++ s.waves.flatMap (fun e => waitTurns e.1 e.2) ++
    s.groupTurns ++ s.coreTurns ++ s.endTurns ++ s.admitTurns ++ s.drawTurns ++ s.clockTurns).map .event

/-- One issue, if a group can issue: the event that a rotation brings first, else the next issue slot, else a cycle. -/
def stepIssue (s : State) : Host.Outcome State Fault Refusal :=
  match s.stepEvent with
  | some i => exec i s
  | none =>
    match s.fetchIssue with
    | .idle => .next s.tick
    | .moved s' => .next s'
    | .run i s' => exec i s'

/-- The state that a turn of the part's own leads to. -/
def State.after (s : State) (t : Turn) : State :=
  match t with
  | .event i => nextOr s (exec i s)
  | .drain w => s.drainOne w
  | .issue => s
  | .cycle => s.tick
  | .readOut p => s.readOut p

/-- The turn changes something, the free-value counter aside. -/
def State.progress (s : State) (t : Turn) : Bool := { s.after t with freeCtr := s.freeCtr, cur := s.cur } != s

/-- The first turn that is due (DESIGN CHOICE, log 8). -/
def State.autoTurn (s : State) : Option Turn := s.dueTurns.find? s.progress

/-- A turn of the agenda has an effect while every clock is stopped: a reset and a read-out (R414, R442). -/
def runsStopped (t : Turn) : Bool :=
  match t with
  | .event .reset => true
  | .readOut _ => true
  | _ => false

end Sys2Proof.Machine
end

