-- ==== Sys2Proof/Machine/Step.lean ====
section
/-!
DEFINITION. One step: the next turn of the agenda; else the next turn that is due; else an issue; else a cycle passes.
-/

namespace Sys2Proof.Machine

/-- One turn. -/
def stepTurn (s : State) (t : Turn) : Host.Outcome State Fault Refusal :=
  match t with
  | .event i => exec i s
  | .drain w => .next (s.drainOne w)
  | .issue => stepIssue s
  | .cycle => .next s.tick
  | .readOut p => .next (s.readOut p)

def step (s : State) : Host.Outcome State Fault Refusal :=
  match s.agenda with
  | [] =>
    if s.dev.stopped then .fault .clocksStopped
    else
      match s.autoTurn with
      | some t => stepTurn s t
      | none => stepIssue s
  | t :: rest =>
    -- a stopped machine does not notice what reaches it (R414)
    if s.dev.stopped && !runsStopped t then .next { s with agenda := rest }
    else stepTurn { s with agenda := rest } t

/-- The machine whose next step runs the instruction with the given bits (DESIGN CHOICE, log 6). -/
def State.withFetchWord (s : State) (nbits w : Nat) : State := s.placeWord (w % 2 ^ nbits)

end Sys2Proof.Machine
end

