-- ==== Sys2Proof/Safety.lean ====
section
/-!
DEFINITION. What a safe run is, and the terms in which the statements speak of one issue: when an instruction issues,
what its issue leaves behind, and what a lane's register holds after it.
-/

namespace Sys2Proof.Machine

/-! ### Runs -/

/-- A step that goes on. -/
def goesOn (o : Host.Outcome State Fault Refusal) : Prop := ∃ t, o = .next t

/-- The state after n steps, if each goes on. -/
def stepsTo : Nat → State → Option State
  | 0, s => some s
  | n + 1, s => match step s with
    | .next t => stepsTo n t
    | _ => none

/-- A state from which every number of steps goes on. -/
def Safe (s : State) : Prop := ∀ n, (stepsTo n s).isSome

/-! ### One issue -/

/-- The instruction is the one in issue, and nothing stands before its effect: the decode checks pass (R52), no wait
holds it (R239), and the checks at issue pass (R46, R57, R192, R373). -/
structure Issues (s : State) (i : Instr) (r : Run) : Prop where
  issue  : s.run? i = some r
  decode : s.decodeCheck r.c r.w i = none
  ready  : s.commonWait i r = false
  waits  : waitOf i s r = false
  checks : s.issueCheck i r = none

/-- Every byte of memory reads as before. -/
def SameMemory (s t : State) : Prop := ∀ a, Memory.read t.mem a = Memory.read s.mem a

/-- Every wave but one is as before. -/
def OtherWaves (s t : State) (wid : Nat) : Prop := ∀ k, k ≠ wid → t.wave? k = s.wave? k

/-- Gangs are as before, but for the next step of the rotation of a deterministic one (R243). -/
def SameGangs (s t : State) : Prop :=
  t.gangs.map (fun e => (e.1, { e.2 with turn := 0 })) = s.gangs.map (fun e => (e.1, { e.2 with turn := 0 }))

/-- The bookkeeping of an issue: the issue slots used, the step of the rotation, and the model's own (cur, issued, freeCtr). -/
structure Accounted (b t : State) : Prop where
  machine : t = { b with
    waves := t.waves, gangs := t.gangs, parts := t.parts, cur := none, issued := t.issued, freeCtr := t.freeCtr }
  gangs   : SameGangs b t
  parts   : t.parts.map (fun p => { p with used := 0 }) = b.parts.map (fun p => { p with used := 0 })

/-- What an issue that touches nothing but its own wave may change in the machine: the wave, and the bookkeeping of an
issue. -/
structure WaveOnly (s : State) (r : Run) (t : State) (w' : Wave) : Prop where
  machine : Accounted s t
  wave    : t.wave? r.c.wid = some w'
  others  : OtherWaves s t r.c.wid
  memory  : SameMemory s t

/-- Each thread of the issue group that has not exited goes to `next`, and keeps everything but its place, its stall
and its results in flight; the other threads are as before. -/
def ThreadsGo (r : Run) (w' : Wave) (next : Nat → Word) : Prop :=
  ∀ l, let a := r.w.thread l
       let b := w'.thread l
       if r.c.lanes.getLsbD l = true ∧ a.exited = false ∧ l < r.w.threads.length then
         b = { a with pc := next l, source := b.source, readyAt := b.readyAt, pend := b.pend, cond := b.cond }
       else b = a

/-- Condition registers are as before. -/
def SameConds (r : Run) (w' : Wave) : Prop := ∀ l, (w'.thread l).cond = (r.w.thread l).cond

/-- The registers of a wave but `ds` of the executing threads are as before. -/
def SameRegs (r : Run) (w' : Wave) (ds : List Nat) : Prop :=
  ∀ x l, l < 32 → (x ∈ ds → r.ex.getLsbD l = false) → w'.reg x l = r.w.reg x l

/-- What a lane-wise issue leaves of its wave: only registers `ds` of the executing threads are written, with their tags,
poison marks and origins; the queues lose what the sources popped; the flags `fl` are set, at the instruction's latency where
it has a fixed one (R93); threads go on at the next pc. -/
structure LaneStep (s : State) (i : Instr) (r : Run) (ds : List Nat) (fl : FFlags) (t : State) (w' : Wave) : Prop where
  only    : WaveOnly s r t w'
  rest    : w' = { r.w with
    regs := w'.regs, tags := w'.tags, poison := w'.poison, threads := w'.threads, fflags := w'.fflags
    queues := w'.queues, retired := w'.retired, lastLane := w'.lastLane, overdue := w'.overdue
    readySince := w'.readySince, yieldAt := w'.yieldAt, loaded := w'.loaded, flying := w'.flying }
  regs    : SameRegs r w' ds
  marks   : ∀ x, x ∉ ds → w'.tag x = r.w.tag x ∧ tget 0 w'.poison x = tget 0 r.w.poison x
  queues  : w'.queues = (r.w.popAll i).queues
  flags   : w'.fflags = (r.w.setFlags (latency i) s.dev.clk r.c.lanes fl).fflags ∧
    w'.flying = (r.w.setFlags (latency i) s.dev.clk r.c.lanes fl).flying
  threads : ThreadsGo r w' (fun _ => nextPc i r)
  retired : w'.retired = r.w.retired + 1

/-- An earlier result of register d of thread l does not have its latency behind it (R56). -/
def inFlight (w : Wave) (d l : Nat) : Prop :=
  ((w.thread l).pend.any (fun p => p.reg == d && decide (p.dist < p.lat))) = true

/-- A write of register d of thread l that comes before an earlier result of the same register has its latency behind it
(R56). -/
def undersizedWrite (r : Run) (d l : Nat) : Prop := inFlight r.w d l

/-- Register d of thread l has been given the value v; after an undersized write it may keep the earlier result (R57). -/
def Written (r : Run) (w' : Wave) (d l : Nat) (v : Word) : Prop :=
  w'.reg d l = v ∨ (undersizedWrite r d l ∧ w'.reg d l = r.w.reg d l)

/-! ### Results of a lane-wise instruction -/

/-- Operand word k of thread l (R106). -/
def operand (s : State) (r : Run) (i : Instr) (l k : Nat) : Word := (s.srcVals r.w i l).getD k 0

/-- Sub-element j of operand k of thread l, as an integer of the type. -/
def operandInt (s : State) (r : Run) (i : Instr) (ty : Ty) (l k j : Nat) : Int :=
  intVal ty.isSigned ty.width (sub (operand s r i l k) j ty.width)

/-- Sub-element j of operand k of thread l, as a bit pattern. -/
def operandBits (s : State) (r : Run) (i : Instr) (ty : Ty) (l k j : Nat) : Nat := sub (operand s r i l k) j ty.width

/-- Sub-element j of operand k of thread l, as a value of the float type, flushed under .ftz. -/
def operandFlt (s : State) (r : Run) (i : Instr) (o : OpA) (l k j : Nat) : FVal :=
  (fmtOfTy o.ty).read (rndOf o.mod).ftz (sub (operand s r i l k) j o.ty.width)

/-- Register d of each executing thread holds in each of its n sub-elements the pattern that `f` gives for the thread
and the sub-element; the flags that `f` gives are set; nothing else of the wave or the machine changes. -/
def SubResult (s : State) (i : Instr) (r : Run) (d width n : Nat) (f : Nat → Nat → Nat × FFlags) : Prop :=
  ∃ t w' fl, exec i s = .next t ∧ LaneStep s i r [d] fl t w' ∧ SameConds r w' ∧
    (∀ k, fl.getLsbD k = true ↔ ∃ l j, r.ex.getLsbD l = true ∧ j < n ∧ (f l j).2.getLsbD k = true) ∧
    ∀ l, r.ex.getLsbD l = true → ∃ v, Written r w' d l v ∧ ∀ j, j < n → sub v j width = (f l j).1 % 2 ^ width

/-- Register d of each executing thread holds the word that `f` gives for the thread; no flag is set; nothing else of the
wave or the machine changes. -/
def WordResult (s : State) (i : Instr) (r : Run) (d : Nat) (f : Nat → Word) : Prop :=
  ∃ t w', exec i s = .next t ∧ LaneStep s i r [d] 0 t w' ∧ SameConds r w' ∧
    ∀ l, r.ex.getLsbD l = true → Written r w' d l (f l)

/-- None of the flags that `f` gives is trapped (R94). -/
def Untrapped (r : Run) (n : Nat) (f : Nat → Nat → Nat × FFlags) : Prop :=
  ∀ l j, r.ex.getLsbD l = true → j < n → r.w.trapping (f l j).2 = 0

/-- An instruction that issues, and none of whose flags is trapped, has the results that `f` gives. -/
def Computes (s : State) (i : Instr) (r : Run) (d width n : Nat) (f : Nat → Nat → Nat × FFlags) : Prop :=
  Issues s i r → Untrapped r n f → SubResult s i r d width n f

/-- Exact integers, wrapped to the sub-element or clamped to it (R108). -/
def Fits (s : State) (i : Instr) (r : Run) (o : OpA) (f : Nat → Nat → Int) : Prop :=
  Computes s i r o.d.toNat o.ty.width o.ty.nsub
    (fun l j => fitInt (o.mod.getLsbD 1) o.ty.isSigned o.ty.width (f l j))

/-- Exact values with the flags found on the way, rounded once into the type (R88-R91). -/
def Rounds (s : State) (i : Instr) (r : Run) (o : OpA) (f : Nat → Nat → FVal × FFlags) : Prop :=
  Computes s i r o.d.toNat o.ty.width o.ty.nsub (fun l j => putF o.ty (rndOf o.mod) (f l j))

/-- Bit patterns without flags. -/
def Patterns (s : State) (i : Instr) (r : Run) (o : OpA) (f : Nat → Nat → Nat) : Prop :=
  Computes s i r o.d.toNat o.ty.width o.ty.nsub (fun l j => (f l j, 0))

/-- An instruction that issues gives register d the words that `f` gives. -/
def Gives (s : State) (i : Instr) (r : Run) (d : Nat) (f : Nat → Word) : Prop := Issues s i r → WordResult s i r d f

/-- An instruction that issues writes condition register c alone: of each executing thread, with what `f` gives (or, after
an undersized write, what it held), and sets the flags `fl`. -/
def Decides (s : State) (i : Instr) (r : Run) (c : Nat) (f : Nat → Bool) (fl : Nat → FFlags) : Prop :=
  Issues s i r → (∀ l, r.ex.getLsbD l = true → r.w.trapping (fl l) = 0) →
  ∃ t w' all, exec i s = .next t ∧ LaneStep s i r [] all t w' ∧
    (∀ k, all.getLsbD k = true ↔ ∃ l, r.ex.getLsbD l = true ∧ (fl l).getLsbD k = true) ∧
    (∀ l k, (r.ex.getLsbD l = true → k ≠ c) → (w'.thread l).cond.getLsbD k = (r.w.thread l).cond.getLsbD k) ∧
    ∀ l, r.ex.getLsbD l = true → (w'.thread l).cond.getLsbD c = f l ∨
      (undersizedWrite r (256 + c) l ∧ (w'.thread l).cond.getLsbD c = (r.w.thread l).cond.getLsbD c)

/-! ### Cross-lane instructions (R137) -/

/-- The threads of the group whose own membership mask does not name them: each takes part alone. -/
def State.aloneLanes (s : State) (i : Instr) (r : Run) : Lanes :=
  maskOf ((lanesOf r.c.lanes).filter (fun t => !(s.memberMask r.w i t).getLsbD t))

/-- What a cross-lane instruction computes from, with the given sources of each reader. -/
def State.crossView (s : State) (i : Instr) (r : Run) (srcs : Nat → Lanes) : Cross :=
  { vals := fun u => s.srcVals r.w i u, cond := fun u => (readConds i).any (s.readCond r.w u), srcs }

/-- The sources of a reader: the executing threads that its mask names, none where it does not name the reader. -/
def State.crossSources (s : State) (i : Instr) (r : Run) (t : Nat) : Lanes :=
  if (s.memberMask r.w i t).getLsbD t then s.memberMask r.w i t &&& r.ex else 0

/-- The wave at the exchange: some threads have other waits, and the exchange's own record is another. -/
structure ExchangeWave (r : Run) (w0 : Wave) (wait : Nat → Wait) : Prop where
  rest    : w0 = { r.w with threads := w0.threads, exch := w0.exch }
  length  : w0.threads.length = r.w.threads.length
  threads : ∀ l, l < r.w.threads.length → w0.thread l = { r.w.thread l with wait := wait l }

/-- An exchange leaves each executing thread's results in vD; nothing else of the machine changes but the waits. -/
def Exchanged (s : State) (i : Instr) (r : Run) (w0 : Wave) (c : Cross) (t : State) : Prop :=
  ∃ w' fl, LaneStep s i { r with w := w0 } (writeRegs i) fl t w' ∧ SameConds { r with w := w0 } w' ∧
    ∀ l, r.ex.getLsbD l = true → ∀ e ∈ (crossFn i c l).1, Written { r with w := w0 } w' e.1 l e.2

/-! ### The end of an issue -/

/-- The end of an issue: from the machine `b` after its effect, whose wave is `w0`, each thread of the group goes to
`next`, sources that were popped leave their queues, and nothing else changes but the bookkeeping of an issue. -/
structure Finished (b : State) (i : Instr) (r : Run) (w0 : Wave) (t : State) (w' : Wave) (next : Nat → Word) : Prop where
  machine : Accounted b t
  wave    : t.wave? r.c.wid = some w'
  others  : OtherWaves b t r.c.wid
  rest    : w' = { w0 with
    threads := w'.threads, queues := w'.queues, retired := w'.retired, lastLane := w'.lastLane, overdue := w'.overdue
    readySince := w'.readySince, yieldAt := w'.yieldAt }
  queues  : w'.queues = (w0.popAll i).queues
  threads : ThreadsGo { r with w := w0 } w' next
  retired : w'.retired = w0.retired + 1

/-- The issue group goes on past its instruction. -/
def GoesOn (b : State) (i : Instr) (r : Run) (w0 : Wave) (t : State) (w' : Wave) : Prop :=
  Finished b i r w0 t w' (fun _ => nextPc i r)

/-- A wave with one more Mitten entry. -/
def Wave.withEntry (w : Wave) (e : Entry) : Wave := { w with mitten := w.mitten ++ [e], seqNext := (w.seqNext + 1) % 4096 }

/-- The entry is one of the issue: its instruction, words, pc and executing threads, the lowest free place of the Mitten
of the wave and its next sequence number. -/
structure OfIssue (e : Entry) (i : Instr) (r : Run) (v : Wave) : Prop where
  ins  : e.ins = i
  pc   : e.pc = r.c.pc
  w0   : e.w0 = r.c.w0
  w1   : e.w1 = r.c.w1
  exec : e.exec = r.ex
  slot : e.slot = v.freeEntry
  seq  : e.seq = v.seqNext

/-- The results of an issue wait in a Mitten entry of its wave, after a change of the machine to `b` in which that wave is
`w1` (R109, R190, R301): when they return, the registers `dest` of each executing thread get the words, and its flags are
set, of which `ok` holds. -/
def Held (b : State) (i : Instr) (r : Run) (w1 : Wave) (dest : List Nat) (ok : Nat → List Word → FFlags → Prop) (t : State) : Prop :=
  ∃ c w' e, GoesOn c i r (w1.withEntry e) t w' ∧ c = { b with waves := c.waves } ∧ OtherWaves b c r.c.wid ∧ OfIssue e i r w1 ∧
    e.dest = dest ∧ ∀ l, r.ex.getLsbD l = true → ∃ v, aget? e.res l = some v ∧ ok l v ((aget? e.flags l).getD 0)

/-- The issue of an instruction that reads memory changes nothing else but the translations held and what the cores have
seen (R171, R349). -/
def ReadsOnly (s b : State) : Prop := b = { s with tlb := b.tlb, hidden := b.hidden }

/-! ### Memory instructions -/

/-- What lane x.1 loads from its location x.2, for an issue with the pointers `ea` (R193, R178). -/
def State.laneLoad (s : State) (i : Instr) (r : Run) (ea : List (Nat × Word)) (n : Nat) (x : Nat × Loc) : Option (List Byte) :=
  s.loadBytes r.w x.1 x.2 n (s.viewOf r.w i ((aget? ea x.1).getD 0))

/-- Contexts differ at most in when their journals have heard from their partners (R406). -/
def SameButHeard (s t : State) : Prop :=
  let quiet := fun (u : State) => u.ctxs.map (fun (e : Nat × Ctx) => (e.1, { e.2 with journal := e.2.journal.map (fun (j : Journal) => { j with heard := 0 }) }))
  quiet t = quiet s

/-- The results of an entry have come to its wave: the entry is freed, its flags are set, and its registers hold them in the
executing threads, but where an undersized write keeps what was there (R56, R57). -/
structure Returned (w : Wave) (e : Entry) (w' : Wave) : Prop where
  rest : w' = { w with
    regs := w'.regs, tags := w'.tags, poison := w'.poison, loaded := w'.loaded, fflags := w'.fflags, mitten := w'.mitten }
  mitten : w'.mitten = w.mitten.filter (fun x => x.seq != e.seq)
  flags  : w'.fflags = (w.orFlags (e.flags.foldl (fun a x => if e.exec.getLsbD x.1 then a ||| x.2 else a) 0)).fflags
  regs   : ∀ x l, l < 32 → (x ∈ e.dest → e.exec.getLsbD l = false) → w'.reg x l = w.reg x l
  kept   : ∀ l d, l < 32 → (l, d) ∈ e.keeps → w'.reg d l = w.reg d l
  values : ∀ l d v, e.exec.getLsbD l = true → (d, v) ∈ e.dest.zip ((aget? e.res l).getD []) → (l, d) ∉ e.keeps →
    w'.reg d l = v ∨ (inFlight w d l ∧ w'.reg d l = w.reg d l)

/-- Every executing lane passes its checks, and `locs` says where its access lies (R191, R367). -/
def Reaches (s : State) (i : Instr) (r : Run) (acc : Acc) (spaces : List Nat) (size align : Nat) (ptr : List Word → Word)
    (locs : List (Nat × Loc)) : Prop :=
  s.resolveAll r.w acc spaces size align (s.addrs i r ptr) = ([], locs)

/-- The state in which a memory-side access of an issue is performed: the translations that it used are held, and every
earlier store of the wave has been sent (R173). -/
def State.afterStores (s : State) (i : Instr) (r : Run) (ptr : List Word → Word) : State :=
  (s.touch r.w.ctx ((s.addrs i r ptr).map Prod.snd)).drainWave r.c.wid

/-- The same for an atomic, after the release and the acquire that it may be (R176); the words that it replaces are kept for
the matrix engines (R164). -/
def State.atMemory (s : State) (i : Instr) (o : OpM) (r : Run) (ptr : List Word → Word) (locs : List (Nat × Loc)) : State :=
  locs.foldl (fun s l => s.loosen r.w l.2 o.size.bytes)
    (((s.afterStores i r ptr).releaseBy r.w o).acquireBy r.w o)

/-- An atomic of an issue: performed at the memory side in lane order after the wave's earlier stores, with `f` of the
lane's operands and the old value; its entry holds the old values for the registers `dest` until they return. -/
def Atomically (s : State) (i : Instr) (o : OpM) (r : Run) (op : Nat) (dest : List Nat) (data : Nat → List Word)
    (operand : List Word → Word) (f : List Word → Nat → Nat) : Prop :=
  let n := o.size.bytes
  let ptr := fun v => List.getD v 0 0
  ∀ locs w1, Issues s i r → r.ex ≠ 0 → (s.isDet r.w = true → detLanes (s.addrs i r ptr) = 0) →
    Reaches s i r accAtomic [0, 1, 2, 3, 4] n n ptr locs →
    let m := s.atMemory i o r ptr locs
    m.wave? r.c.wid = some w1 →
    let p := m.rmwAll r.w.ctx (m.writer r.w) n op locs (fun l => toBytes n (operand (data l)).toNat) (fun l => f (data l))
    p.2.2.1 = 0 →
    ∃ b t w' e, exec i s = .next t ∧ GoesOn b i r (w1.withEntry e) t w' ∧
      b = { p.1 with waves := b.waves, tagrecs := b.tagrecs } ∧ OtherWaves p.1 b r.c.wid ∧
      OfIssue e i r w1 ∧ e.st = .sent ∧ e.loc = locs ∧ e.dest = dest ∧ e.res = p.2.1

/-- Bytes of device memory after an access of n bytes at pa: these hold `bs`, every other byte is as before. -/
structure MemoryTo (s t : State) (pa : Nat) (bs : List Byte) : Prop where
  bytes : t.readPa pa bs.length = bs
  other : ∀ a, (∀ k, k < bs.length → a ≠ s.place? (pa + k)) → Memory.read t.mem a = Memory.read s.mem a

/-- The access of n bytes lies in one frame, and its data has no uncorrectable error. -/
def Plain (s : State) (pa n : Nat) : Prop := pa % 65536 + n ≤ 65536 ∧ s.badPa pa n = false

/-- Only what the memory side keeps has changed: bytes, uncorrectable blocks, the blocks written under the present keys, and
the writes that some core has not seen. -/
def MemorySideOnly (s t : State) : Prop := t = { s with mem := t.mem, bad := t.bad, keyed := t.keyed, hidden := t.hidden }

/-- A group that waited for memory has passed: its core has seen what it read, the words are in register d, and it goes on. -/
def MemWaitDone (s : State) (i : Instr) (d : Nat) (r : Run) (t : State) : Prop :=
  ∃ w0 w', ExchangeWave r w0 (fun l => if r.c.lanes.getLsbD l then .none else (r.w.thread l).wait) ∧
    LaneStep (s.memSeen i r) i { r with w := w0 } [d] 0 t w' ∧ SameConds { r with w := w0 } w' ∧
    ∀ l v, (l, some v) ∈ s.passes i r → Written { r with w := w0 } w' d l v

/-- A group that waits for memory stays at its instruction, with the words of the threads that have passed. -/
def MemWaitStays (s : State) (i : Instr) (r : Run) (t : State) : Prop :=
  ∃ w0, t.wave? r.c.wid = some w0 ∧
    ExchangeWave r w0 (fun l => if r.c.lanes.getLsbD l then .memory ((aget? (s.passes i r) l).getD none)
      else (r.w.thread l).wait) ∧
    OtherWaves s t r.c.wid ∧ t = { s with waves := t.waves, cur := none, freeCtr := t.freeCtr }

/-- Both ends of a wait for memory. -/
def WaitsForMemory (s : State) (i : Instr) (d : Nat) (r : Run) (o : Host.Outcome State Fault Refusal) : Prop :=
  ∃ t, o = .next t ∧ if (s.passes i r).all (fun p => p.2.isSome) then MemWaitDone s i d r t else MemWaitStays s i r t

/-- A group of lanes released from a wait of some kind at an instruction of one word. -/
def Released (w w' : Wave) (lanes : Lanes) (p : Wait → Bool) : Prop :=
  ∀ l, lanes.getLsbD l = true → l < w.threads.length → (w.thread l).exited = false → p (w.thread l).wait = true →
    p (w.thread l).stood = false → w'.thread l = { w.thread l with wait := .none, pc := (w.thread l).pc + 8 }

/-- A version operation of an issue on the tile at `pa`, after the wave's earlier stores: the version word becomes `new`
of the old one, and each executing lane's result is `back` of it. Without watches on the tile nothing else changes. -/
def OnVersion (s : State) (i : Instr) (o : OpM) (r : Run) (new back : Word → Word) : Prop :=
  let s1 := ((s.touch r.w.ctx ((s.lowTile i r).map Prod.snd)).drainWave r.c.wid).releaseBy r.w o
  ∀ x pa w1, Issues s i r → r.ex ≠ 0 → s.resolveAll r.w accAtomic [0, 4] 4096 4096 (s.lowTile i r) = ([], [(x, .mem pa)]) →
    s1.wave? r.c.wid = some w1 → s1.badLoc (.mem pa) 4096 = false →
    ∃ b t w' e, exec i s = .next t ∧ GoesOn b i r (w1.withEntry e) t w' ∧ OfIssue e i r w1 ∧ e.st = .sent ∧
      e.dest = [o.d.toNat] ∧ tget 0 b.vers (pa / 4096) = new (s1.version (.mem pa)) ∧
      (∀ k, k ≠ pa / 4096 → tget 0 b.vers k = tget 0 s1.vers k) ∧
      (∀ l, r.ex.getLsbD l = true → aget? e.res l = some [back (s1.version (.mem pa))]) ∧ OtherWaves s1 b r.c.wid ∧
      (s1.watchesOn (pa / 4096) = [] → b = { s1 with waves := b.waves, tagrecs := b.tagrecs, vers := b.vers })

/-- An instruction that reads a codebook page for each executing lane: element j of its result, which returns later, is what
`val` gives for the lane and the page's words, and so are its flags. -/
def ReadsPage (s : State) (i : Instr) (r : Run) (d : Nat) (ptr : List Word → Word)
    (val : Nat → List Nat → Nat → Nat × FFlags) : Prop :=
  let page := fun (x : Nat × Loc) => pageWords ((s.loadBytes r.w x.1 x.2 1024 (s.viewOf r.w i 0)).getD [])
  ∀ locs, Issues s i r → r.ex ≠ 0 → Reaches s i r accLoad [0, 1, 2, 4] 1024 1024 ptr locs →
    (∀ x ∈ locs, ∀ j, j < 4 → r.w.trapping (val x.1 (page x) j).2 = 0) →
    ∃ b t, exec i s = .next t ∧ ReadsOnly s b ∧ Held b i r r.w [d] (fun l v fl => ∃ x ∈ locs, ∃ y, x.1 = l ∧ v = [y] ∧
      (∀ j, j < 4 → sub y j 16 = (val l (page x) j).1 % 2 ^ 16) ∧
      ∀ k, fl.getLsbD k = true ↔ ∃ j, j < 4 ∧ (val l (page x) j).2.getLsbD k = true) t

/-- A copy of an issue whose checks pass: a promise in vD of every executing lane that names its Mitten entry and its copy
number, and under DET its due count (R209, R210); `bytes` is B, and a copy with nothing to do frees its entry at once. -/
def CopyIssue (s : State) (i : Instr) (r : Run) (d : Nat) (rel : Option Nat) (bytes : Nat) (empty : Bool) : Prop :=
  let s1 := match rel with
    | some k => (s.drainWave r.c.wid).releaseAs r.w k
    | none => s
  ∀ w1, s1.wave? r.c.wid = some w1 →
    ∃ (b t : State) (w0 w' : Wave) (e : Entry) (p : Word), exec i s = .next t ∧
      LaneStep b i { r with w := w0 } [d] 0 t w' ∧ SameConds { r with w := w0 } w' ∧
      b = { s1 with waves := b.waves } ∧ OtherWaves s1 b r.c.wid ∧
      OfIssue e i r w1 ∧ e.isCopy = true ∧ e.st = .issued ∧ e.copySeq = r.w.copySeq ∧
      e.vals.map (fun x => x.2.drop 1) = [s.srcVals r.w i r.low] ∧
      w0 = { (if empty then w1.passEntry else w1.withEntry e) with copySeq := (w1.copySeq + 1) % 1024 } ∧
      (∀ l, r.ex.getLsbD l = true → Written { r with w := w0 } w' d l p) ∧
      p.toNat / 2 ^ 58 = r.w.freeEntry ∧ p.toNat / 2 ^ 48 % 1024 = r.w.copySeq % 1024 ∧
      (s1.isDet r.w = true → p.toNat % 2 ^ 48 = (r.w.retired + 256 + (bytes + 255) / 256) % 2 ^ 48)

/-- A pointer of a copy passes the checks at issue (R211). -/
def Points (s : State) (r : Run) (acc : Acc) (spaces : List Nat) (size align : Nat) (p : Word) : Prop :=
  s.ptrFault r.w acc spaces size align p = []

/-- Both ends in space 0x4 are multiples of 64, and so is each size (R212). -/
def FourAligned (a b : Word) (size : Nat) : Prop :=
  spaceOf a = 4 → spaceOf b = 4 → a.toNat % 64 = 0 ∧ b.toNat % 64 = 0 ∧ size % 64 = 0

/-! ### Traps (R370, R374) -/

/-- A wave has taken a trap: its trap registers say what, its threads stand at the handler with their pcs and conditions
saved, its flags have landed, and nothing else of the machine has changed but the step of a rotation. -/
structure Trapped (s : State) (wid : Nat) (w : Wave) (group : Lanes) (resume : Nat → Word) (i : TrapInfo) (t : State) : Prop where
  machine : t = { s with waves := t.waves, gangs := t.gangs, cur := none }
  gangs   : SameGangs s t
  others  : OtherWaves s t wid
  wave    : ∃ w', t.wave? wid = some w' ∧
    w' = { w.landFlags (fun _ => true) with trap := w'.trap, threads := w'.threads } ∧
    w'.trap.tcause = i.tcause ∧ w'.trap.tmask = i.mask.setWidth 64 ∧ w'.trap.tpc = i.pc ∧ w'.trap.taddr = i.addr ∧
    w'.trap.tinfo = i.info ∧ w'.trap.tfrom = i.source.getD 0 ∧ w'.trap.tword0 = i.w0 ∧ w'.trap.tword1 = i.w1 ∧
    w'.trap.inHandler = true ∧
    ∀ l, let a := w.thread l
         let b := w'.thread l
         if a.present = true ∧ a.exited = false then
           b.pc = w.trapbase ∧ b.tepc = (if group.getLsbD l then resume l else a.pc) ∧ b.tcond = a.cond.setWidth 64 ∧
           b.wait = .none ∧ b.stood = a.wait ∧ b.cond = a.cond
         else b = a

/-- A wave that can take a trap: it has a handler, and is not in it (R374, R378). -/
def Catches (w : Wave) : Prop := w.trap.inHandler = false ∧ w.trapbase ≠ 0

/-! ### Control, joins and barriers -/

/-- Only registers `ds` of the executing threads, with their tags, marks, origins and results in flight, differ from the wave
at the issue. -/
structure WritesOnly (r : Run) (w0 : Wave) (ds : List Nat) : Prop where
  rest    : w0 = { r.w with
    regs := w0.regs, tags := w0.tags, poison := w0.poison, loaded := w0.loaded, threads := w0.threads }
  regs    : SameRegs r w0 ds
  threads : ∀ l, w0.thread l = { r.w.thread l with pend := (w0.thread l).pend }

/-- The executing threads of a transfer go to their targets, the others of the group to the next pc. -/
def targets (i : Instr) (r : Run) (at_ : Nat → Word) (l : Nat) : Word := if r.ex.getLsbD l then at_ l else nextPc i r

/-- A transfer without a link register. -/
def Transfers (s : State) (i : Instr) (r : Run) (at_ : Nat → Word) : Prop :=
  ∃ t w', exec i s = .next t ∧ Finished s i r r.w t w' (targets i r at_)

/-- A transfer that links: register d of the executing threads holds the next pc; `hidden` is what some core has not seen
after it. -/
def Links (s : State) (i : Instr) (r : Run) (d : Nat) (hidden : List Hidden) (at_ : Nat → Word) : Prop :=
  ∃ b t w0 w', exec i s = .next t ∧ Finished b i r w0 t w' (targets i r at_) ∧ b = { s with waves := b.waves, hidden } ∧
    OtherWaves s b r.c.wid ∧ WritesOnly r w0 [d] ∧ ∀ l, r.ex.getLsbD l = true → Written r w0 d l (nextPc i r)

/-- An issue whose executing threads stop at the instruction, each with its wait, after a change of the machine to `b`. -/
def StopsEach (b : State) (i : Instr) (r : Run) (w1 : Wave) (wait : Nat → Wait) (t : State) : Prop :=
  ∃ w0 w', Finished b i r w0 t w' (targets i r (fun _ => r.c.pc)) ∧ w0 = { w1 with threads := w0.threads } ∧
    ∀ l, l < w1.threads.length → w0.thread l = { w1.thread l with
      wait := if r.ex.getLsbD l then wait l else (w1.thread l).wait }

/-- The same with one wait for all. -/
def StopsAt (b : State) (i : Instr) (r : Run) (w1 : Wave) (wait : Wait) (t : State) : Prop :=
  StopsEach b i r w1 (fun _ => wait) t

/-- Threads of a list go on from their JOIN as one group, their members leave its record, and nothing else changes. -/
def JoinReleased (s : State) (wid : Nat) (w : Wave) (pc : Word) (rel : List Nat) (t : State) : Prop :=
  t = { s with waves := t.waves } ∧ OtherWaves s t wid ∧
  ∃ w', t.wave? wid = some w' ∧ w' = { w with threads := w'.threads, joins := w'.joins } ∧
    (∀ l, l ∈ rel → w'.thread l = { w.thread l with wait := .none, pc := pc + 8 }) ∧
    (∀ l, l ∉ rel → w'.thread l = w.thread l) ∧
    (∀ j ∈ w'.joins, j.pc = pc → ∀ l ∈ rel, j.arrived.getLsbD l = false ∧ j.arrived &&& s.joinMembers w l = 0)

/-- Every wave of a table of arrivals has its lanes released from a wait of some kind; no other wave changes. -/
def AllReleased (s t : State) (arr : Table Lanes) (p : Wait → Bool) : Prop :=
  (∀ k lanes v, (k, lanes) ∈ arr → s.wave? k = some v →
    ∃ v', t.wave? k = some v' ∧ Released v v' lanes p ∧ v' = { v with threads := v'.threads }) ∧
  ∀ k, (∀ x ∈ arr, x.1 ≠ k) → t.wave? k = s.wave? k

/-! ### Work and tasks -/

/-- An issue that writes register d of its executing threads, with what `f` gives, after a change of the machine to `b`,
and of its wave to `w0`; nothing else changes. -/
def Answers (b : State) (i : Instr) (r : Run) (w0 : Wave) (d : Nat) (f : Nat → Word) (t : State) : Prop :=
  ∃ w', LaneStep b i { r with w := w0 } [d] 0 t w' ∧ SameConds { r with w := w0 } w' ∧
    ∀ l, r.ex.getLsbD l = true → Written { r with w := w0 } w' d l (f l)

/-- The wave's earlier stores are sent, and released at device scope (R224, R318, R319, R322). -/
def State.deviceRelease (s : State) (r : Run) : State := (s.drainWave r.c.wid).releaseAs r.w 4

/-- The state in which it acts: its record's translation is held. -/
def State.afterRecord (s : State) (r : Run) (p : Word) : State := (s.deviceRelease r).touch r.w.ctx [p]

/-- The record of a LAUNCH or DRAW is read: its 256 bytes. -/
def Reads256 (s : State) (r : Run) (p : Word) (b : List Byte) : Prop :=
  ∃ x loc, (s.deviceRelease r).resolveAll r.w accLoad [0, 1, 4] 256 256 [(r.low, p)] = ([], [(x, loc)]) ∧
    (s.afterRecord r p).badLoc loc 256 = false ∧ b = ((s.afterRecord r p).readLoc r.w.ctx loc 256 0).getD []

/-- An issue with no executing thread does nothing but go on. -/
def Idles (s : State) (i : Instr) (r : Run) : Prop := Issues s i r → r.ex = 0 → ∃ t w', exec i s = .next t ∧ GoesOn s i r r.w t w'

/-- A queue of the wave changes after a plain issue. -/
def QueueStep (s : State) (i : Instr) (r : Run) (n : Nat) (f : Queue → Queue) (t : State) : Prop :=
  ∃ t0 w0, GoesOn s i r r.w t0 w0 ∧ t = { t0 with waves := t.waves } ∧ OtherWaves t0 t r.c.wid ∧
    t.wave? r.c.wid = some { w0 with queues := lmod w0.queues n f }

/-- Changes of a list of lanes one after another: the state, and each lane's result. -/
def inOrder {α : Type} (f : State → α → State × Word) (lane : α → Nat) : List α → State → State × List (Nat × Word)
  | [], s => (s, [])
  | x :: l, s =>
    let q := f s x
    let p := inOrder f lane l q.1
    (p.1, (lane x, q.2) :: p.2)

/-- An issue of class T that is performed at once, after a change of the machine to `b` in which its wave is `w1`: its
results wait in a Mitten entry for register d of its executing threads, with what `f` gives (R301). -/
def Tagged (b : State) (i : Instr) (r : Run) (w1 : Wave) (d : Nat) (f : Nat → Word → Prop) (t : State) : Prop :=
  ∃ c w' e, GoesOn c i r (w1.withEntry e) t w' ∧ c = { b with waves := c.waves } ∧ OtherWaves b c r.c.wid ∧ OfIssue e i r w1 ∧
    e.st = .sent ∧ e.dest = [d] ∧ ∀ l, r.ex.getLsbD l = true → ∃ v, aget? e.res l = some [v] ∧ f l v

/-- An instruction that makes such changes: each lane's result waits for register d; where no thread executes it goes on. -/
def InOrder (s0 : State) (i : Instr) (r : Run) (d : Nat) (p : State × List (Nat × Word)) (o : Host.Outcome State Fault Refusal) :
    Prop :=
  ∀ w1, s0.wave? r.c.wid = some w1 → ∃ t, o = .next t ∧ (r.ex = 0 → ∃ w', GoesOn p.1 i r w1 t w') ∧
    (r.ex ≠ 0 → Tagged p.1 i r w1 d (fun l v => (l, v) ∈ p.2) t)

/-! ### Graphics -/

/-- An instruction that loads n words of four bytes for each executing lane, from a pointer that is a multiple of `align`:
its results, which return later to the registers `ds`, are what `res` gives for the lane and its words (R333, R334). -/
def ReadsFloats (s : State) (i : Instr) (r : Run) (align n : Nat) (ds : List Nat) (res : Nat → List Nat → List Word) : Prop :=
  let a := s.addrs i r (fun v => v.getD 0 0)
  let words := a.flatMap (fun x => (List.range n).map (fun k => (x.1, addrAdd x.2 (BitVec.ofNat 64 (4 * k)))))
  ∀ locs, Issues s i r → r.ex ≠ 0 → (s.resolveAll r.w accLoad [0, 1, 2, 4] (4 * n) align a).1 = [] →
    s.resolveAll r.w accLoad [0, 1, 2, 4] 4 4 words = ([], locs) →
    let b0 := s.touch r.w.ctx (words.map Prod.snd)
    let loads := (words.zip locs).map (fun x => ({ lane := x.1.1, ea := x.1.2, loc := x.2.2, size := 4 } : Piece))
    ∃ b t, exec i s = .next t ∧ ReadsOnly s b ∧ Held b i r r.w ds (fun l v _ =>
      v = res l ((loads.filter (fun x => x.lane == l)).map (fun x => leNat (b0.pieceBytes i r x)))) t

/-- A wave group of one wave has started for elements of a draw, on the first core of the lantern with room (R263). -/
def OneWave (s : State) (u : Nat) (d : DrawUnit) (lantern rate : Nat) (l : List Started) (b : State) : Prop :=
  ∀ e core quad slot, d.obj.entry.getD rate none = some e → s.groupPlace lantern d.obj 1 = some (core, quad) →
    s.freeSlot d.ctx = some slot → s.slotsLeft d.ctx ≠ 0 → s.wave? (widOf d.ctx slot) = none →
    ∃ w, b = { s with waves := b.waves, wgs := b.wgs, gangs := b.gangs, nextKey := s.nextKey + 2 } ∧
      OtherWaves s b (widOf d.ctx slot) ∧ b.wave? (widOf d.ctx slot) = some w ∧ w.kind = .draw ∧ w.draw = u ∧ w.ctx = d.ctx ∧
      w.rate = rate ∧ w.core = core ∧ w.quad = quad % 4 ∧
      (∀ j x, l[j]? = some x → w.thread j =
        { freshThread (d.obj.at e) (BitVec.ofNat 64 x.elem) with el := x.el, eptr := x.eptr }) ∧
      ∀ j, l.length ≤ j → w.thread j = absent

/-- The fragments of some threads of a wave have changed, and nothing else of the machine. -/
def FragsTo (s : State) (w : Wave) (wid : Nat) (lanes : Lanes) (f : Frag → Frag) (b : State) : Prop :=
  b = { s with draws := b.draws } ∧ (∀ k, k ≠ w.draw → b.draw? k = s.draw? k) ∧
  b.draw? w.draw = (s.draw? w.draw).map (fun d => { d with frags := d.frags.map (fun g =>
    if g.started = true ∧ g.wid = wid ∧ lanes.getLsbD g.lane = true then f g else g) })

/-- The completion actions of a record can be performed: its word lies in memory, its counter is not 0. -/
def Completable (s : State) (ctx : Nat) (c : Completion) : Prop :=
  (∀ a v, c.cw = some (a, v) → ∃ pa, s.agentLoc ctx accStore [0, 3, 4] 8 8 a = .ok (.mem pa) ∧ Plain s pa 8) ∧
  ∀ k, c.ctr = some k → s.counter k ≠ 0

/-- The completion actions have been performed: the word is stored, then the counter falls by one (R229). -/
def Completed (s : State) (ctx : Nat) (c : Completion) (t : State) : Prop :=
  ∃ s1, (match c.cw with
      | none => s1 = s
      | some (a, v) => ∃ pa, s.agentLoc ctx accStore [0, 3, 4] 8 8 a = .ok (.mem pa) ∧ MemoryTo s s1 pa (toBytes 8 v.toNat) ∧
        s1 = { s with mem := s1.mem, bad := s1.bad, keyed := s1.keyed, btags := s1.btags }) ∧
    match c.ctr with
    | none => t = { s1 with freeCtr := t.freeCtr }
    | some k => t = { s1.putCounter k (s1.counter k - 1) with freeCtr := t.freeCtr }

/-! ### System registers and management -/

/-- An issue that only changes its own wave, to `w0`, before it goes on. -/
def SetsWave (s : State) (i : Instr) (r : Run) (w0 : Wave) : Prop :=
  ∃ b t w', exec i s = .next t ∧ b = { s with waves := b.waves } ∧ OtherWaves s b r.c.wid ∧ GoesOn b i r w0 t w'

/-- An issue that changes one register of each executing thread, with what `f` makes of the thread. -/
def SetsThreads (s : State) (i : Instr) (r : Run) (f : Nat → Thread → Thread) : Prop :=
  ∃ w0, SetsWave s i r w0 ∧ w0 = { r.w with threads := w0.threads } ∧
    ∀ l, l < r.w.threads.length → w0.thread l = if r.ex.getLsbD l then f l (r.w.thread l) else r.w.thread l

/-- An issue that only changes its context, before it goes on. -/
def SetsCtx (s : State) (i : Instr) (r : Run) (f : Ctx → Ctx) : Prop :=
  ∃ b t w', exec i s = .next t ∧ b = { s with ctxs := b.ctxs } ∧ (∀ k, k ≠ r.w.ctx → b.ctx? k = s.ctx? k) ∧
    b.ctx? r.w.ctx = (s.ctx? r.w.ctx).map f ∧ GoesOn b i r r.w t w'

/-- An issue whose wave takes a precise trap, with nothing done: its group is to run the instruction again (R375). -/
def TrapsAt (s : State) (i : Instr) (r : Run) (cause : Word) (lanes : Lanes) : Prop :=
  ∃ t x, exec i s = .next t ∧ Trapped s r.c.wid r.w r.c.lanes (fun _ => r.c.pc) x t ∧ x.tcause = cause ∧ x.mask = lanes ∧
    x.pc = r.c.pc ∧ x.w0 = r.c.w0 ∧ x.w1 = r.c.w1

/-- A management request that the firmware serves: it runs, and the request comes from the management node of partition p
(R435, R436). -/
structure Served (s : State) (q : MgmtReq) (p : Nat) : Prop where
  runs : s.dev.booted = true
  part : s.partOfNode q.endpoint = some p
  mgmt : (s.parts[p]?).map (·.mgmt) = some q.source

/-- The state in which a management request is served: a request of the fabric has been heard (R406). -/
def State.heard (s : State) (q : MgmtReq) : State := if q.sideband then s else s.hear q.source

/-- The state with the response of a request. -/
def Responds (b : State) (q : MgmtReq) (status : Nat) (o : Host.Outcome State Fault Refusal) : Prop :=
  o = .next { b with out := b.out ++ [.response q.source q.sideband status] }

end Sys2Proof.Machine
end

