-- ==== Sys2Proof/Certificates/Slice0/Obligations.lean ====
section
/-!
DEFINITION. The statements about the machine, in the terms of Sys2Proof/Safety.lean. The rules R<n> are those of spec/.
-/

open Sys2Proof Sys2Proof.Machine

/-- R39, R40, R41, R42, R43, R44, R45, R46, R47, R48, R49, R50, R51, R52, R53, R54: The words of a well-formed program
instruction decode to it, whatever bytes follow; and words that decode are the words that the instruction encodes to. -/
def Obligations.DecodeEncode : Prop :=
  (∀ i : Instr, isProgram i = true → i.wf = true →
    (∀ bs, decode (encodeBytes i ++ bs) = .ok (i, bs)) ∧
    ∃ w0 w1, decodeWords w0 w1 = .ok i ∧ encode i = if twoWords (opcOf w0) then [w0, w1] else [w0]) ∧
  (∀ (w0 w1 : Word) (i : Instr), decodeWords w0 w1 = .ok i →
    isProgram i = true ∧ i.wf = true ∧ (i ≠ .ill → encode i = if twoWords (opcOf w0) then [w0, w1] else [w0]))

/-- R41, R42, R43, R44, R45, R46, R47, R48, R49, R50, R51, R52, R53, R54: Words written out from the spec's encodings decode
to the instructions that they stand for; a reserved opcode is refused. -/
def Obligations.SpecWordsDecode : Prop :=
  decodeWords 0x3023050181210949#64 0 = .ok (.ffma ⟨⟨3, 0, false⟩, 5, .reg 3, .reg 4, .const 8, .f32x2, 4, .cond false 1⟩) ∧
  decodeWords 0x00090701_7FFFFFB0#64 0 = .ok (.iaddi ⟨⟨0, 0, false⟩, 7, .reg 2, 0x7FFFFFB#27, .always⟩) ∧
  decodeWords 0x00030C00_00000000#64 0x0123456789ABCDEF#64 = .ok (.liw ⟨⟨0, 0, false⟩, 12, 0x0123456789ABCDEF, .always⟩) ∧
  decodeWords 0x00600804_828034A0#64 0 =
    .ok (.ld ⟨⟨0, 0, false⟩, 8, .reg 9, .reg 10, 3, .b32, .acquire, .workgroup, .always⟩) ∧
  decodeWords 0x08800000_7FFFFFBE#64 0 = .ok (.bra ⟨⟨0, 4, false⟩, 0, .reg 0, 0x7FFFFFB#27, .cond true 2⟩) ∧
  decodeWords 0x04E00A00_00000070#64 0 = .ok (.sysr ⟨⟨0, 2, false⟩, 10, .reg 0, 7, .always⟩) ∧
  (∀ w0 w1 : Word, 0xF1 ≤ (opcOf w0).toNat → (opcOf w0).toNat ≤ 0xFE → decodeWords w0 w1 = .error .reservedOpcode)

/-- R39, R40, R243: A turn runs its event; an issue runs what the words at the chosen group's pc decode to, with the issue in
`cur`, after what a rotation of a deterministic gang brings first; the words are those in memory where no instruction cache
holds their line. -/
def Obligations.StepRunsDecoded : Prop :=
  (∀ (s : State) (i : Instr) (rest : List Turn), s.agenda = .event i :: rest → s.dev.stopped = false ∨ i = .reset →
    step s = exec i { s with agenda := rest }) ∧
  (∀ s s1 : State, s.dev.stopped = false →
    (s.agenda = [] ∧ s.autoTurn = none ∧ s1 = s ∨ ∃ rest, s.agenda = .issue :: rest ∧ s1 = { s with agenda := rest }) →
    (∀ i : Instr, s1.stepEvent = some i → step s = exec i s1) ∧
    (∀ (s2 sd : State) (wid : Nat) (w : Wave) (lanes : Lanes) (pc w0 w1 : Word) (i : Instr), s1.stepEvent = none →
      s1.nextIssue = some (wid, w, lanes, pc) → sd = ((s1.detGang w).map (fun g => s1.drainGang g.1)).getD s1 →
      sd.wordsAt w pc = .ok (w0, w1, s2) → decodeWords w0 w1 = .ok i → (decHdr w0).rate.toNat = w.rate →
      rateLegal (s2.isDrawProg w) w.rate = true → ¬(twoWords (opcOf w0) = true ∧ pc.toNat % 64 = 56) →
      step s = exec i { s2 with cur := some { wid, lanes, pc, w0, w1 := if twoWords (opcOf w0) then w1 else 0 } })) ∧
  (∀ (s : State) (w : Wave) (pc : Word) (m : Mapping), spaceOf pc = 0 → pc.toNat / 2 ^ 57 % 8 < 5 → pc.toNat % 8 = 0 →
    s.translate w.ctx (vaOf pc / 64 * 64) 64 = .ok m → m.x = true → s.served m.pa ≠ none → s.badPa m.pa 64 = false →
    (∀ l ∈ s.icache, ¬(l.core = w.core ∧ l.asid = w.ctx ∧ l.va = vaOf pc / 64 * 64)) →
    ∃ w1 t, s.wordsAt w pc = .ok (wordOfBytes (s.readPa (m.pa + vaOf pc % 64) 8), w1, t) ∧
      (pc.toNat % 64 < 56 → w1 = wordOfBytes (s.readPa (m.pa + vaOf pc % 64 + 8) 8)) ∧
      t = { s with tlb := t.tlb, icache := t.icache }) ∧
  (∀ s : State, s.dev.stopped = true → (s.agenda = [] → step s = .fault .clocksStopped) ∧
    ∀ turn rest, s.agenda = turn :: rest → turn ≠ .event .reset → (∀ p, turn ≠ .readOut p) →
      step s = .next { s with agenda := rest })

/-- R5, R356, R435: Reset leaves memory in canonical form, no wave, launch, record, translation or context, every counter 0,
one partition of four dies, 16 lanterns of 24 cores and two spares, and the clock at 0 with no firmware running. -/
def Obligations.ResetState : Prop := ∀ s : State, s = State.reset →
  Memory.wf s.mem = true ∧ s.waves = [] ∧ s.wgs = [] ∧ s.gangs = [] ∧ s.recs = [] ∧ s.tlb = [] ∧ s.icache = [] ∧
  s.windows = [] ∧ s.ctxs = [] ∧ (∀ k, s.counter k = 0) ∧
  s.parts.map (·.dies) = [[0, 1, 2, 3]] ∧
  s.lanterns.length = 16 ∧ (∀ l ∈ s.lanterns, l.ring.length = 24 ∧ l.spares = [24, 25] ∧ l.tasks = []) ∧
  (∀ c, c < 384 → s.activeCore c = true) ∧ s.dev.clk = 0 ∧ s.dev.stopped = false ∧ s.dev.booted = false ∧
  s.dev.fabric.length = 18 ∧ s.dev.ethernet.length = 32

/-- Every step keeps memory in its canonical form. -/
def Obligations.MemoryCanonical : Prop := ∀ s t : State, Memory.wf s.mem = true → step s = .next t → Memory.wf t.mem = true

/-- Every instruction goes on from every state: none ends in a fault or a refusal. -/
def Obligations.EveryInstructionGoesOn : Prop := ∀ (i : Instr) (s : State), goesOn (exec i s)

/-- R56, R239: A group that a wait holds does not issue, and nothing changes. -/
def Obligations.WaitsHold : Prop := ∀ (s : State) (i : Instr) (r : Run), isProgram i = true → i ≠ .ill → s.run? i = some r →
  s.decodeCheck r.c r.w i = none → (s.commonWait i r = true ∨ waitOf i s r = true) → exec i s = .next { s with cur := none }

/-- R53, R256, R374, R375, R376, R378, R416, R417: A trap enters the wave's handler with its registers saved; without a
handler, or inside one, the workgroup ends and the fault goes to its context's queue. TRAP resumes after itself, BRK at
itself, ILL and a failed check at decode are precise; TRET returns once every thread of the wave has reached one. -/
def Obligations.Traps : Prop :=
  (∀ (s : State) (wid : Nat) (w : Wave) (g : Lanes) (resume : Nat → Word) (x : TrapInfo), s.wave? wid = some w →
    (Catches w → Trapped s wid w g resume x (s.takeTrap wid g resume x)) ∧
    (¬Catches w → w.kind = .compute → (∀ e ∈ s.waves, e.2.wg = w.wg → e.2.kind = .compute ∨ e.2.kind = .access) →
      (∀ k v, s.wave? k = some v → v.wg = w.wg → ∃ v', (s.takeTrap wid g resume x).wave? k = some v' ∧ v'.ended = true ∧
        ∀ l, (v.thread l).present = true → (v'.thread l).exited = true) ∧
      ∀ c, s.ctx? w.ctx = some c → ∃ c', (s.takeTrap wid g resume x).ctx? w.ctx = some c' ∧ c'.fqhead = c.fqhead + 1)) ∧
  (∀ (i : Instr) (s : State) (r : Run) (cause : Nat), encode i ≠ [] → s.run? i = some r → s.decodeCheck r.c r.w i = some cause →
    Catches r.w → ∃ t, exec i s = .next t ∧
      Trapped s r.c.wid r.w r.c.lanes (fun _ => r.c.pc) (r.trap cause r.c.lanes) t) ∧
  (∀ (s : State) (r : Run), s.run? .ill = some r → Catches r.w → TrapsAt s .ill r 0x01 r.c.lanes) ∧
  (∀ (o : OpI) (s : State) (r : Run), let i := Instr.trap o
    Issues s i r →
    (r.ex = 0 → ∃ t w', exec i s = .next t ∧ GoesOn s i r r.w t w') ∧
    (r.ex ≠ 0 → Catches r.w → ∃ b w0 t x, exec i s = .next t ∧ GoesOn s i r r.w b w0 ∧
      Trapped b r.c.wid w0 r.c.lanes (fun _ => nextPc i r) x t ∧ x.tcause = 0x11 ∧ x.mask = r.ex ∧ x.pc = r.c.pc)) ∧
  (∀ (o : OpI) (s : State) (r : Run), let i := Instr.brk o
    Issues s i r →
    (r.ex = 0 → ∃ t w', exec i s = .next t ∧ GoesOn s i r r.w t w') ∧
    (r.ex ≠ 0 → Catches r.w → TrapsAt s i r 0x10 r.ex)) ∧
  (∀ (o : OpA) (s : State) (r : Run), let i := Instr.tret o
    Issues s i r →
    (Catches r.w → TrapsAt s i r 0x01 r.c.lanes) ∧
    (r.w.trap.inHandler = true → ∃ t, StopsAt s i r r.w .tret t ∧ exec i s = .next (t.tryTret r.c.wid))) ∧
  (∀ (s : State) (wid : Nat) (w : Wave), s.wave? wid = some w → w.allAtTret = true → w.frozen = false →
    (∀ l, w.live.getLsbD l = true → spaceOf (w.thread l).tepc = 0 ∧ (w.thread l).tepc.toNat % 8 = 0) →
    ∃ w', (s.tryTret wid).wave? wid = some w' ∧ OtherWaves s (s.tryTret wid) wid ∧ SameMemory s (s.tryTret wid) ∧
      w' = { w with trap := { w.trap with inHandler := false }, threads := w'.threads, joins := w'.joins } ∧
      ∀ l, let a := w.thread l
           if a.present = true ∧ a.exited = false then
             w'.thread l = { a with
               pc := a.tepc, cond := a.tcond.setWidth 4, pend := [], readyAt := 0, source := none, stood := .none, stoodPc := 0
               wait := if a.stood.keeps = true ∧ a.tepc = a.stoodPc then a.stood else .none }
           else w'.thread l = a)

/-- R108, R111: The integer arithmetic instructions give each sub-element its exact result, wrapped or clamped. -/
def Obligations.IntegerArithmetic : Prop := ∀ (o : OpA) (s : State) (r : Run),
  (let i := Instr.iadd o; let v := operandInt s r i o.ty; Fits s i r o (fun l j => v l 0 j + v l 1 j)) ∧
  (let i := Instr.isub o; let v := operandInt s r i o.ty; Fits s i r o (fun l j => v l 0 j - v l 1 j)) ∧
  (let i := Instr.imul o; let v := operandInt s r i o.ty; Fits s i r o (fun l j => v l 0 j * v l 1 j)) ∧
  (let i := Instr.imulh o; let v := operandInt s r i o.ty; Fits s i r o (fun l j => v l 0 j * v l 1 j / 2 ^ o.ty.width)) ∧
  (let i := Instr.imad o; let v := operandInt s r i o.ty; Fits s i r o (fun l j => v l 0 j * v l 1 j + v l 2 j)) ∧
  (let i := Instr.imin o; let v := operandInt s r i o.ty; Fits s i r o (fun l j => min (v l 0 j) (v l 1 j))) ∧
  (let i := Instr.imax o; let v := operandInt s r i o.ty; Fits s i r o (fun l j => max (v l 0 j) (v l 1 j))) ∧
  (let i := Instr.iabs o; let v := operandInt s r i o.ty; Fits s i r o (fun l j => ((v l 0 j).natAbs : Int))) ∧
  (let i := Instr.ineg o; let v := operandInt s r i o.ty; Fits s i r o (fun l j => -(v l 0 j)))

/-- R112: IDOT4 accepts signed and unsigned bytes, and gives each half of vD the exact sum of its half of SC and four
products, wrapped to 32 bits or clamped. -/
def Obligations.ByteDotProduct : Prop := ∀ (o : OpA) (s : State) (r : Run), let i := Instr.idot4 o
  (i.wf = true → o.ty = .i8x8 ∨ o.ty = .n8x8) ∧
  Computes s i r o.d.toNat 32 2 (fun l j =>
    fitInt (o.mod.getLsbD 1) o.ty.isSigned 32 (intVal o.ty.isSigned 32 (sub (operand s r i l 2) j 32) +
      ((List.range 4).map (fun k => operandInt s r i o.ty l 0 (4 * j + k) * operandInt s r i o.ty l 1 (4 * j + k))).sum))

/-- R110, R113, R116, R118, R136: Moves, immediates, bitwise logic, selection, address arithmetic and RAND give each executing
thread a whole word, and NOP gives nothing. -/
def Obligations.WordResults : Prop := ∀ (s : State) (r : Run),
  (∀ o : OpA, Issues s (.nop o) r → ∃ t w', exec (.nop o) s = .next t ∧ LaneStep s (.nop o) r [] 0 t w' ∧ SameConds r w') ∧
  (∀ o : OpA, let i := Instr.mov o; Gives s i r o.d.toNat (fun l => operand s r i l 0)) ∧
  (∀ o : OpI, Gives s (.li o) r o.d.toNat (fun _ => o.imm.signExtend 64)) ∧
  (∀ o : OpL, Gives s (.liw o) r o.d.toNat (fun _ => o.lit)) ∧
  (∀ o : OpI, let i := Instr.iaddi o; Gives s i r o.d.toNat (fun l => operand s r i l 0 + o.imm.signExtend 64)) ∧
  (∀ o : OpA, let i := Instr.and o; Gives s i r o.d.toNat (fun l => operand s r i l 0 &&& operand s r i l 1)) ∧
  (∀ o : OpA, let i := Instr.or o; Gives s i r o.d.toNat (fun l => operand s r i l 0 ||| operand s r i l 1)) ∧
  (∀ o : OpA, let i := Instr.xor o; Gives s i r o.d.toNat (fun l => operand s r i l 0 ^^^ operand s r i l 1)) ∧
  (∀ o : OpA, let i := Instr.andn o; Gives s i r o.d.toNat (fun l => operand s r i l 0 &&& ~~~(operand s r i l 1))) ∧
  (∀ o : OpA, let i := Instr.sel o; Gives s i r o.d.toNat (fun l =>
    if s.readCond r.w l (o.mod.toNat % 4) then operand s r i l 0 else operand s r i l 1)) ∧
  (∀ o : OpA, let i := Instr.lea o; Gives s i r o.d.toNat (fun l =>
    addrAdd (operand s r i l 0) ((operand s r i l 1 <<< o.mod.toNat) + operand s r i l 2))) ∧
  (∀ o : OpA, let i := Instr.rand o; Gives s i r o.d.toNat (fun l => randVal (operand s r i l 0) (operand s r i l 1)))

/-- R119: PSPACE accepts i64, and puts MOD into the space, SB[2:0] into bits 59-57 and SA[56:0] into the address, whatever the
space; a use of a reserved space or policy is cause 0x06; an SB left out is constant entry 0, which reads as 0. -/
def Obligations.SpacePointers : Prop :=
  (∀ (o : OpA) (s : State) (r : Run), let i := Instr.pspace o
    (i.wf = true → o.ty = .i64) ∧ (o.sb = .const 0 → ∀ l, operand s r i l 1 = 0) ∧
    Gives s i r o.d.toNat (fun l => o.mod ++ (operand s r i l 1).extractLsb' 0 3 ++ (operand s r i l 0).extractLsb' 0 57)) ∧
  (∀ (s : State) (w : Wave) (acc : Acc) (spaces : List Nat) (size align : Nat) (p : Word) (n : Nat),
    (6 ≤ spaceOf p ∧ spaceOf p ≤ 14) ∨ ((spaceOf p = 0 ∨ spaceOf p = 4) ∧ 5 ≤ p.toNat / 2 ^ 57 % 8) →
    ∃ f, s.resolve w acc spaces size align p n = .error f ∧ f.cause = 6)

/-- R25, R120: MKAFF accepts i64 and n64, and gives thread t SA + t × SB; its tag is A with base SA and stride SB where both
are U, the group holds every present thread and no guard stands, else G. -/
def Obligations.AffineValues : Prop := ∀ (o : OpA) (s : State) (r : Run), let i := Instr.mkaff o
  (i.wf = true → o.ty = .i64 ∨ o.ty = .n64) ∧
  (Issues s i r → ∃ t w', exec i s = .next t ∧ LaneStep s i r [o.d.toNat] 0 t w' ∧ SameConds r w' ∧
    (∀ l, r.ex.getLsbD l = true → Written r w' o.d.toNat l (operand s r i l 0 + BitVec.ofNat 64 l * operand s r i l 1)) ∧
    (r.ex ≠ 0 → ∀ a b, s.srcTag r.w o.sa o.ty = .u a → s.srcTag r.w o.sb o.ty = .u b → r.ex = r.w.present → o.g = .always →
      w'.tag o.d.toNat = .a a b) ∧
    (r.ex ≠ 0 → (∀ a b, ¬(s.srcTag r.w o.sa o.ty = .u a ∧ s.srcTag r.w o.sb o.ty = .u b)) ∨ r.ex ≠ r.w.present ∨ o.g ≠ .always →
      w'.tag o.d.toNat = .g))

/-- R113, R114, R124, R130, R131: Shifts, bit fields, bit counts, classification, rounding to an integral value, packing and
swizzling give each sub-element its pattern. -/
def Obligations.BitPatterns : Prop := ∀ (o : OpA) (s : State) (r : Run),
  (let i := Instr.shl o; let v := operandBits s r i o.ty
   Patterns s i r o (fun l j => if o.ty.width ≤ v l 1 j then 0 else v l 0 j * 2 ^ v l 1 j)) ∧
  (let i := Instr.shr o; let v := operandBits s r i o.ty
   Patterns s i r o (fun l j => wrapInt o.ty.width (operandInt s r i o.ty l 0 j / 2 ^ min (v l 1 j) o.ty.width))) ∧
  (let i := Instr.bfe o; let v := operandBits s r i o.ty
   Patterns s i r o (fun l j => bfeVal o.ty.isSigned o.ty.width (v l 0 j) (v l 1 j) (v l 2 j))) ∧
  (let i := Instr.bfi o; let v := operandBits s r i o.ty
   Patterns s i r o (fun l j => bfiVal o.ty.width
     (sub (s.readReg r.w l o.d.toNat o.ty.width (freeAt 3 l)) j o.ty.width) (v l 0 j) (v l 1 j) (v l 2 j))) ∧
  (let i := Instr.popc o; Patterns s i r o (fun l j => onesOf o.ty.width (operandBits s r i o.ty l 0 j))) ∧
  (let i := Instr.clz o; Patterns s i r o (fun l j => leadingZeros o.ty.width (operandBits s r i o.ty l 0 j))) ∧
  (let i := Instr.brev o; Patterns s i r o (fun l j => reverseBits o.ty.width (operandBits s r i o.ty l 0 j))) ∧
  (let i := Instr.fclass o; Patterns s i r o (fun l j => classOf (fmtOfTy o.ty) (operandBits s r i o.ty l 0 j))) ∧
  (let i := Instr.frnd o; Patterns s i r o (fun l j => ((fmtOfTy o.ty).write rne
     (integralVal (o.mod.toNat / 4) ((fmtOfTy o.ty).read false (operandBits s r i o.ty l 0 j)))).1)) ∧
  (let i := Instr.pack o; Gives s i r o.d.toNat (fun l =>
     BitVec.ofNat 64 (pack6 (s.groupVals r.w i l (groupAt o.sa 4)) / 2 ^ (64 * o.mod.toNat)))) ∧
  (let i := Instr.unpk o; Computes s i r o.d.toNat 8 8 (fun l j =>
     (((operand s r i l 0).toNat + 2 ^ 64 * (operand s r i l 1).toNat + 2 ^ 128 * (operand s r i l 2).toNat) /
       2 ^ (6 * (8 * o.mod.toNat + j)) % 64, 0))) ∧
  (let i := Instr.swz o; let v := operandBits s r i o.ty; let n := o.ty.nsub
   Patterns s i r o (fun l j => let k := v l 1 j % (2 * n); if k < n then v l 0 k else v l 2 (k - n)))

/-- R115, R117, R123: ICMP, CLOG and FCMP write their condition register, and no register. -/
def Obligations.Conditions : Prop := ∀ (s : State) (r : Run),
  (∀ o : OpA, let i := Instr.icmp o; let v := operandInt s r i o.ty
    Decides s i r (o.d.toNat % 4) (fun l =>
      anyAll (o.mod.getLsbD 3) o.ty.nsub (fun j => intRel (o.mod.toNat % 8) (v l 0 j) (v l 1 j))) (fun _ => 0)) ∧
  (∀ o : OpClog, let i := Instr.clog o
    Decides s i r o.d.toNat (fun l => o.tt.getLsbD ((if s.readCond r.w l o.ca.toNat then 2 else 0) +
      (if s.readCond r.w l o.cb.toNat then 1 else 0))) (fun _ => 0)) ∧
  (∀ o : OpA, let i := Instr.fcmp o
    let rel := fun (l j : Nat) => floatRel (o.mod.toNat % 8)
      ((fmtOfTy o.ty).read false (operandBits s r i o.ty l 0 j)) ((fmtOfTy o.ty).read false (operandBits s r i o.ty l 1 j))
    Decides s i r (o.d.toNat % 4) (fun l => anyAll (o.mod.getLsbD 3) o.ty.nsub (fun j => (rel l j).1))
      (fun l => (List.range o.ty.nsub).foldl (fun a j => a ||| (rel l j).2) 0))

/-- R121, R122: Floating arithmetic gives each sub-element its exact result, rounded once, with the flags of R91. -/
def Obligations.FloatArithmetic : Prop := ∀ (o : OpA) (s : State) (r : Run),
  (let i := Instr.fadd o; let v := operandFlt s r i o
   Rounds s i r o (fun l j => FVal.sum (rndOf o.mod).mode [v l 0 j, v l 1 j])) ∧
  (let i := Instr.fsub o; let v := operandFlt s r i o
   Rounds s i r o (fun l j => FVal.sum (rndOf o.mod).mode [v l 0 j, (v l 1 j).neg])) ∧
  (let i := Instr.fmul o; let v := operandFlt s r i o; Rounds s i r o (fun l j => (v l 0 j).mul (v l 1 j))) ∧
  (let i := Instr.ffma o; let v := operandFlt s r i o
   Rounds s i r o (fun l j => fmaVal (rndOf o.mod).mode (v l 0 j) (v l 1 j) (v l 2 j))) ∧
  (let i := Instr.fmin o; let v := operandFlt s r i o; Rounds s i r o (fun l j => minmaxVal false (v l 0 j) (v l 1 j))) ∧
  (let i := Instr.fmax o; let v := operandFlt s r i o; Rounds s i r o (fun l j => minmaxVal true (v l 0 j) (v l 1 j))) ∧
  (let i := Instr.fclamp o; let v := operandFlt s r i o
   Rounds s i r o (fun l j => clampVal (v l 0 j) (v l 1 j) (v l 2 j))) ∧
  (let i := Instr.fscale o; let v := operandFlt s r i o
   Rounds s i r o (fun l j => (scaleVal (v l 0 j) (intVal true o.ty.width (operandBits s r i o.ty l 1 j)), 0))) ∧
  (let i := Instr.flerp o; let v := operandFlt s r i o
   Rounds s i r o (fun l j => lerpVal (rndOf o.mod).mode (v l 0 j) (v l 1 j) (v l 2 j))) ∧
  (let i := Instr.fdot2 o; let v := operandFlt s r i o
   Computes s i r o.d.toNat 32 2 (fun l j => putF .f32x2 (rndOf o.mod) (dot2Val (rndOf o.mod).mode (v l 0 (2 * j))
     (v l 1 (2 * j)) (v l 0 (2 * j + 1)) (v l 1 (2 * j + 1)) (fmtF32.read (rndOf o.mod).ftz (sub (operand s r i l 2) j 32)))))

/-- R125, R126: The special functions give each sub-element their value, rounded once; FSCS gives the sine in vD and the
cosine in vD+1. -/
def Obligations.SpecialFunctions : Prop := ∀ (o : OpA) (s : State) (r : Run),
  (let i := Instr.fdiv o; let v := operandFlt s r i o; Rounds s i r o (fun l j => divVal (v l 0 j) (v l 1 j))) ∧
  (let i := Instr.fsqrt o; Rounds s i r o (fun l j => sqrtVal (operandFlt s r i o l 0 j))) ∧
  (let i := Instr.frcp o; Rounds s i r o (fun l j => rcpVal (operandFlt s r i o l 0 j))) ∧
  (let i := Instr.frsq o; Rounds s i r o (fun l j => rsqVal (operandFlt s r i o l 0 j))) ∧
  (let i := Instr.fexp2 o; Rounds s i r o (fun l j => exp2Val (operandFlt s r i o l 0 j))) ∧
  (let i := Instr.flog2 o; Rounds s i r o (fun l j => log2Val (operandFlt s r i o l 0 j))) ∧
  (let i := Instr.fsin o; Rounds s i r o (fun l j => sinVal (operandFlt s r i o l 0 j))) ∧
  (let i := Instr.fcos o; Rounds s i r o (fun l j => cosVal (operandFlt s r i o l 0 j))) ∧
  (let i := Instr.ftanh o; Rounds s i r o (fun l j => tanhVal (operandFlt s r i o l 0 j))) ∧
  (let i := Instr.fscs o
   let sn := fun (l j : Nat) => putF o.ty (rndOf o.mod) (sinVal (operandFlt s r i o l 0 j))
   let cs := fun (l j : Nat) => putF o.ty (rndOf o.mod) (cosVal (operandFlt s r i o l 0 j))
   Issues s i r → Untrapped r o.ty.nsub sn → Untrapped r o.ty.nsub cs →
   ∃ t w' fl, exec i s = .next t ∧ LaneStep s i r [o.d.toNat, (o.d + 1).toNat] fl t w' ∧ SameConds r w' ∧
     ∀ l, r.ex.getLsbD l = true → ∃ a b, Written r w' o.d.toNat l a ∧ Written r w' (o.d + 1).toNat l b ∧
       ∀ j, j < o.ty.nsub → sub a j o.ty.width = (sn l j).1 % 2 ^ o.ty.width ∧ sub b j o.ty.width = (cs l j).1 % 2 ^ o.ty.width)

/-- R128, R129, R132: Conversions write the target slots that PART selects and keep the others; CVT with EF also writes its
residue; DECB decodes a block's elements. -/
def Obligations.Conversions : Prop := ∀ (s : State) (r : Run),
  (∀ o : OpCvt, let i := Instr.cvt o
    Computes s i r o.d.toNat o.dst.width o.dst.nsub (fun l j =>
      match cvtSource o.ty.nsub o.dst.nsub o.part.toNat j with
      | some k => convFloat (fmtOfTy o.dst) (rndOf o.mod)
          ((fmtOfTy o.ty).read (rndOf o.mod).ftz (sub (operand s r i l 0) k o.ty.width))
      | none => (sub (s.oldD r l o.d.toNat o.dst.width) j o.dst.width, 0))) ∧
  (∀ o : OpCvt, let i := Instr.cvti o
    Computes s i r o.d.toNat o.dst.width o.dst.nsub (fun l j =>
      match cvtSource o.ty.nsub o.dst.nsub o.part.toNat j with
      | some k =>
        let x := sub (operand s r i l 0) k o.ty.width
        if tyIsFloat o.ty then floatToInt o.dst (rndOf o.mod).mode ((fmtOfTy o.ty).read (rndOf o.mod).ftz x)
        else if tyIsFloat o.dst then (fmtOfTy o.dst).write (rndOf o.mod) (FVal.ofQ (Q.ofInt (intVal o.ty.isSigned o.ty.width x)))
        else fitInt (rndOf o.mod).sat o.dst.isSigned o.dst.width (intVal o.ty.isSigned o.ty.width x)
      | none => (sub (s.oldD r l o.d.toNat o.dst.width) j o.dst.width, 0))) ∧
  (∀ o : OpCvt, let i := Instr.cvtEf o
    let rn : Rnd := { mode := 0, sat := o.mod.getLsbD 1, ftz := o.mod.getLsbD 0 }
    let res := fun (l k : Nat) => cvtEf (fmtOfTy o.dst) rn (sub (operand s r i l 0) k 32) (sub (operand s r i l 1) k 32)
    Issues s i r → (∀ l k, r.w.trapping (res l k).2.2 = 0) → ∀ c, o.sc = .reg c →
    ∃ t w' fl, exec i s = .next t ∧ LaneStep s i r [o.d.toNat, c.toNat] fl t w' ∧ SameConds r w' ∧
      ∀ l, r.ex.getLsbD l = true → ∃ a b, Written r w' o.d.toNat l a ∧ Written r w' c.toNat l b ∧
        (∀ k, k < 2 → sub b k 32 = (res l k).2.1 % 2 ^ 32) ∧
        ∀ j, j < o.dst.nsub → sub a j o.dst.width = (match cvtSource 2 o.dst.nsub o.part.toNat j with
          | some k => if k < 2 then (res l k).1 else 0
          | none => sub (s.oldD r l o.d.toNat o.dst.width) j o.dst.width) % 2 ^ o.dst.width) ∧
  (∀ o : OpA, let i := Instr.decb o
    let tag := fun (l : Nat) => (operand s r i l 1).toNat % 65536
    Computes s i r o.d.toNat 16 4 (fun l j =>
      let f := tag l % 256
      let ty := tyOfCode f
      let e := 4 * (o.mod.toNat / 4) + j
      if 1 ≤ f ∧ f ≤ 15 then
        if e < ty.nsub then
          let x := if o.mod.getLsbD 0 && tyIsFloat ty then (fmtOfTy ty).read true (sub (operand s r i l 0) e ty.width)
            else fmtElem f (operand s r i l 0) e
          let y := (fmtOfTy o.ty).write { mode := 0, sat := o.mod.getLsbD 1, ftz := o.mod.getLsbD 0 }
            (x.mul (.fin false (scaleQ (tag l / 256)))).1
          (y.1, y.2 ||| (if x.isNan then fInvalid else 0))
        else (0, 0)
      else (0, fInvalid)))

/-- R137: At a cross-lane instruction (SHFL, SHFLX, VOTE, PEERS, WRED, WSCAN, FSUM, AMAX) each thread whose own mask does not
name it takes part alone, without sources, and goes on; the other threads of its group wait for their exchange. A
cross-lane instruction all of whose group's threads are named by their own masks stops them at it. -/
def Obligations.CrossLaneIssue : Prop :=
  (∀ (o : OpA) (s : State) (r : Run),
     ∀ i ∈ [Instr.shfl o, .shflx o, .vote o, .peers o, .wred o, .wscan o, .fsum o, .amax o], Issues s i r →
     let alone := s.aloneLanes i r
     let c := s.crossView i r (fun _ => 0)
     alone ≠ 0 → (∀ l, (r.ex &&& alone).getLsbD l = true → r.w.trapping (crossFn i c l).2 = 0) →
     ∃ t w0, exec i s = .next t ∧
       ExchangeWave r w0 (fun l => if r.c.lanes.getLsbD l && !alone.getLsbD l then .exchange else (r.w.thread l).wait) ∧
       Exchanged s i { r with c := { r.c with lanes := alone }, ex := r.ex &&& alone } w0 c t) ∧
  (∀ (o : OpA) (s : State) (r : Run),
     ∀ i ∈ [Instr.shfl o, .shflx o, .vote o, .peers o, .wred o, .wscan o, .fsum o, .amax o], Issues s i r →
     s.aloneLanes i r = 0 →
     ∃ t w0, exec i s = .next t ∧ t.wave? r.c.wid = some w0 ∧
       ExchangeWave r w0 (fun l => if r.c.lanes.getLsbD l then .exchange else (r.w.thread l).wait) ∧
       OtherWaves s t r.c.wid ∧ t = { s with waves := t.waves, cur := none, freeCtr := t.freeCtr })

/-- R137, R138, R139, R140, R141, R142: Once every thread that their masks name has come, passed or exited, under DET in the
step of their wave, the threads of an exchange issue together: each gets its result from its own sources, and goes on. What SHFL, SHFLX, VOTE and PEERS give a
reader, and that an integer WRED of sums is the sum of its sources' elements whatever the order. -/
def Obligations.Exchanges : Prop :=
  (∀ (s s' : State) (wid lane : Nat) (i : Instr) (r : Run),
     s.exchangeReady wid lane = some (i, s', r) → s.exchangeDue wid lane = true →
     let c := s'.crossView i r (s'.crossSources i r)
     (∀ l, r.ex.getLsbD l = true → r.w.trapping (crossFn i c l).2 = 0) →
     ∃ t w0, exec (.exchangeGroupIssue wid lane) s = .next t ∧
       ExchangeWave r w0 (fun l => if r.c.lanes.getLsbD l then .none else (r.w.thread l).wait) ∧ Exchanged s' i r w0 c t) ∧
  (∀ (o : OpA) (c : Cross) (t : Nat), t < 32 →
     (let u := ((c.vals t).getD 1 0).toNat % 32
      let own := (c.vals t).getD 0 0
      let from_ := fun q => if (c.srcs t).getLsbD q then (c.vals q).getD 0 0 else own
      crossFn (.shfl o) c t = ([(o.d.toNat,
        if o.mod.toNat % 4 = 0 then from_ u else if o.mod.toNat % 4 = 1 then (if u ≤ t then from_ (t - u) else own)
        else if o.mod.toNat % 4 = 2 then (if t + u ≤ 31 then from_ (t + u) else own) else from_ (t ^^^ u))], 0)) ∧
     (let n := o.ty.nsub
      let w := o.ty.width
      let at_ := fun (p : Nat) => sub ((c.vals (p / n)).getD 0 0) (p % n) w
      let u := fun j => sub ((c.vals t).getD 1 0) (if o.mod.toNat % 4 = 0 then j else 0) w % (32 * n)
      let p := fun j => t * n + j
      let q := fun j => if o.mod.toNat % 4 = 0 then some (u j) else if o.mod.toNat % 4 = 1 then some (p j ^^^ u j)
        else if o.mod.toNat % 4 = 2 then (if u j ≤ p j then some (p j - u j) else none)
        else if p j + u j < 32 * n then some (p j + u j) else none
      ∃ v, crossFn (.shflx o) c t = ([(o.d.toNat, v)], 0) ∧ ∀ j, j < n →
        sub v j w = match q j with
          | some k => if (c.srcs t).getLsbD (k / n) then at_ k else at_ (p j)
          | none => at_ (p j)) ∧
     (let all := fun k => k = t ∨ (c.srcs t).getLsbD k = true
      ∃ v : Word, crossFn (.vote o) c t = ([(o.d.toNat, v)], 0) ∧
        (o.mod.toNat / 4 = 0 → ∀ k, v.getLsbD k = true ↔ k < 32 ∧ all k ∧ c.cond k = true) ∧
        (o.mod.toNat / 4 = 1 → (v = 1 ∧ ∃ k, k < 32 ∧ all k ∧ c.cond k = true) ∨ (v = 0 ∧ ∀ k, k < 32 → all k → c.cond k = false)) ∧
        (2 ≤ o.mod.toNat / 4 → (v = 1 ∧ ∀ k, k < 32 → all k → c.cond k = true) ∨ (v = 0 ∧ ∃ k, k < 32 ∧ all k ∧ c.cond k = false))) ∧
     (∃ v : Word, crossFn (.peers o) c t = ([(o.d.toNat, v)], 0) ∧ ∀ k, v.getLsbD k = true ↔
       k < 32 ∧ (k = t ∨ ((c.srcs t).getLsbD k = true ∧ (c.vals k).getD 0 0 = (c.vals t).getD 0 0))) ∧
     (tyIsFloat o.ty = false → o.mod.toNat % 8 = 0 →
       ∃ v, crossFn (.wred o) c t = ([(o.d.toNat, v)], 0) ∧ ∀ j, j < o.ty.nsub →
         sub v j o.ty.width = ((List.range 32).map (fun u => if (c.srcs t).getLsbD u then
           ((List.range o.ty.nsub).map (fun k => sub ((c.vals u).getD 0 0) k o.ty.width)).sum else 0)).sum % 2 ^ o.ty.width))

/-- R189, R193: LD takes every lane's data and holds it in a Mitten entry for its registers, in space 0x4 with the block tag
behind them; ST puts every lane's data into the wave's FIFO. Neither changes memory or a register when it issues. -/
def Obligations.LoadsAndStoresIssue : Prop := ∀ (o : OpM) (s : State) (r : Run) (locs : List (Nat × Loc)),
  (let i := Instr.ld o
   let n := o.size.bytes
   Issues s i r → s.tagRegFault i r = none → r.ex ≠ 0 → Reaches s i r accLoad ldSpaces n n (eaOf o) locs →
   let load := s.laneLoad i r (s.addrs i r (eaOf o)) n
   (∀ x ∈ locs, (load x).isSome = true) →
   ∃ b t w' e, exec i s = .next t ∧ GoesOn b i r (r.w.withEntry e) t w' ∧
     b = { s with waves := b.waves, tlb := b.tlb, hidden := b.hidden } ∧
     OtherWaves s b r.c.wid ∧ OfIssue e i r r.w ∧ e.st = .issued ∧
     e.dest = groupAt (.reg o.d) o.size.regs ++ s.tagRegs i r ∧
     ∀ x ∈ locs, ∃ bs v, load x = some bs ∧ aget? e.res x.1 = some v ∧
       v.take o.size.regs = wordsOf o.size.regs bs) ∧
  (let i := Instr.st o
   let n := o.size.bytes
   Issues s i r → s.tagRegFault i r = none → r.ex ≠ 0 → Reaches s i r accStore stSpaces n n (eaOf o) locs →
   ∃ b t w' e, exec i s = .next t ∧ GoesOn b i r (r.w.withEntry e) t w' ∧ b = { s with waves := b.waves, tlb := b.tlb } ∧
     OtherWaves s b r.c.wid ∧ OfIssue e i r r.w ∧ e.inFifo = true ∧ e.loc = locs ∧
     ∀ l, r.ex.getLsbD l = true → aget? e.vals l =
       some (s.groupVals r.w i l (groupAt (.reg o.d) o.size.regs ++ s.tagRegs i r)))

/-- R194, R195: LDQ reserves an entry of its pair's queue and holds the data for it in a Mitten entry; where no thread
executes it pushes an entry of zeros. PREF holds a Mitten entry without a destination, and changes nothing but held
translations. -/
def Obligations.QueueLoadsAndPrefetches : Prop := ∀ (o : OpM) (s : State) (r : Run) (locs : List (Nat × Loc)),
  (let i := Instr.ldq o
   let n := o.size.bytes
   let q := o.d.toNat % 8
   let load := s.laneLoad i r [] n
   let put := fun (v : Wave) (x : Option (List Word)) =>
     { v with queues := lmod v.queues q (fun k => { k with entries := k.entries ++ [x] }) }
   ∀ k v, Issues s i r → r.w.pair = some k → k ≠ r.c.wid → s.wave? k = some v → (v.queue q).depth ≠ 0 →
   (r.ex ≠ 0 → Reaches s i r accLoad [0, 1, 2, 3, 4, 5] n n (eaOf o) locs → (∀ x ∈ locs, (load x).isSome = true) →
     ∃ b t w' e, exec i s = .next t ∧ GoesOn b i r (r.w.withEntry e) t w' ∧
       b = { s with waves := b.waves, tlb := b.tlb, hidden := b.hidden } ∧
       (∀ j, j ≠ r.c.wid → j ≠ k → b.wave? j = s.wave? j) ∧ b.wave? k = some (put v none) ∧
       OfIssue e i r r.w ∧ e.st = .issued ∧ e.queue = some q ∧
       ∀ x ∈ locs, ∃ bs, load x = some bs ∧ aget? e.res x.1 = some (wordsOf 1 bs)) ∧
   (r.ex = 0 → ∃ b t w', exec i s = .next t ∧ GoesOn b i r r.w t w' ∧ b = { s with waves := b.waves } ∧
     (∀ j, j ≠ k → b.wave? j = s.wave? j) ∧ b.wave? k = some (put v (some (List.replicate 32 0))))) ∧
  (let i := Instr.pref o
   Issues s i r →
   (r.ex ≠ 0 → ∃ b t, exec i s = .next t ∧ b = { s with waves := b.waves, tlb := b.tlb } ∧ OtherWaves s b r.c.wid ∧
     ∃ w' e, GoesOn b i r (r.w.withEntry e) t w' ∧ OfIssue e i r r.w ∧ e.dest = [] ∧ e.res = []) ∧
   (r.ex = 0 → ∃ b t w', exec i s = .next t ∧ GoesOn b i r r.w t w' ∧ b = { s with tlb := b.tlb }))

/-- R173, R174, R191, R193: When the data of a load, or of another instruction that holds its results so, returns, its
registers hold it in the executing lanes and its entry is free; a store's acknowledgement frees its entry; a fault met at
the memory side marks the entry that made the access, and the lanes of a REDB that met none are applied all the same.
Sending the oldest store of a wave's FIFO writes the bytes of its lanes at their addresses, a higher lane over a lower
one, and no other byte of memory. -/
def Obligations.PendingAccesses : Prop :=
  (∀ (s : State) (wid seq : Nat) (w : Wave) (e : Entry),
     s.wave? wid = some w → w.entry? seq = some e → e.seq = seq →
     (∀ bad, completes e.ins = true → e.queue = none → e.st = .issued → w.frozen = false → s.farBusy w e = false → e.dest.Nodup →
       ∃ t w', exec (.loadComplete wid seq bad) s = .next t ∧
         t = { s with waves := t.waves, ctxs := t.ctxs, freeCtr := t.freeCtr } ∧ SameButHeard s t ∧
         OtherWaves s t wid ∧ t.wave? wid = some w' ∧ Returned w e w') ∧
     (e.st = .sent → ackedKind e = true → s.returns w e = true →
       ∃ t, exec (.storeAcknowledge wid seq) s = .next t ∧
         t = { s with waves := t.waves, ctxs := t.ctxs, tagrecs := t.tagrecs } ∧ SameButHeard s t ∧
         OtherWaves s t wid ∧ t.wave? wid = some { w with mitten := w.mitten.filter (fun x => x.seq != seq) } ∧
         ∀ x, x ∈ t.tagrecs ↔ x ∈ s.tagrecs ∧ x.tag ≠ tagWord w seq) ∧
     (∀ lanes orig, lanes &&& s.faultable w e ≠ 0 → s.returns w e = true → (orig = 0x05 ∨ orig = 0x16) → w.live ≠ 0 →
       e.inFifo = false →
       let hit := lanes &&& s.faultable w e
       (¬(e.ins matches .redb _) →
         ∃ t w', exec (.deferredFaultArrival wid seq lanes orig) s = .next t ∧ t = { s with waves := t.waves } ∧
         OtherWaves s t wid ∧ t.wave? wid = some w' ∧ w'.mitten = w.mitten.map (fun x => if x.seq = seq then
           { x with st := .fault, orig, exec := e.exec, done := if e.isCopy then 0 else e.exec &&& ~~~hit } else x)) ∧
       (∀ o, e.ins = .redb o →
         (∀ l, e.exec.getLsbD l = true → ∃ pa, aget? e.loc l = some (.mem pa) ∧ s.badLoc (.mem pa) o.size.bytes = false) →
         ∃ t w', exec (.deferredFaultArrival wid seq lanes orig) s = .next t ∧
         t = { s with waves := t.waves, mem := t.mem, bad := t.bad, keyed := t.keyed } ∧ OtherWaves s t wid ∧
         t.wave? wid = some w' ∧ w'.mitten = w.mitten.map (fun x => if x.seq = seq then
           { x with st := .fault, orig, done := e.done ||| (e.exec &&& ~~~hit) } else x)))) ∧
  (∀ (s : State) (wid : Nat) (w : Wave) (e : Entry) (o : OpM),
     s.wave? wid = some w → w.frozen = false → w.mitten.find? Entry.inFifo = some e → e.ins = .st o → s.sendable w e = true →
     (∀ l, e.exec.getLsbD l = true → (e.storeBytes l).length = o.size.bytes ∧
       ∃ pa, aget? e.loc l = some (.mem pa) ∧ s.badLoc (.mem pa) o.size.bytes = false) →
     let n := o.size.bytes
     let at_ := fun (l k a : Nat) => e.exec.getLsbD l = true ∧ k < n ∧ ∃ pa, aget? e.loc l = some (.mem pa) ∧ a = s.place? (pa + k)
     ∀ a, ((∀ l k, ¬at_ l k a) → Memory.read (s.drainOne wid).mem a = Memory.read s.mem a) ∧
       ∀ l k, at_ l k a → (∀ m j, at_ m j a → m < l ∨ (m = l ∧ j = k)) →
         Memory.read (s.drainOne wid).mem a = (e.storeBytes l).getD k 0)

/-- R197, R198: The operations of the memory side on values of n bytes. A read-modify-write in device memory answers the old
value, leaves the new one in its bytes, and changes no other byte and nothing else of the machine. -/
def Obligations.MemorySide : Prop :=
  (∀ (n a b : Nat), 0 < n → a < 2 ^ (8 * n) → b < 2 ^ (8 * n) →
     let sg := fun x => intVal true (8 * n) x
     atomFn 0 n a b = (a + b) % 2 ^ (8 * n) ∧ atomFn 1 n a b = a &&& b ∧ atomFn 2 n a b = a ||| b ∧ atomFn 3 n a b = a ^^^ b ∧
     atomFn 4 n a b = (if sg a ≤ sg b then a else b) ∧ atomFn 5 n a b = (if sg a ≤ sg b then b else a) ∧
     atomFn 6 n a b = min a b ∧ atomFn 7 n a b = max a b ∧ atomFn 8 n a b = b) ∧
  (∀ (s : State) (ctx pa n op free : Nat) (core : Option Nat) (data : List Byte) (f : Nat → Nat),
     pa % 65536 + n ≤ 65536 → s.badLoc (.mem pa) n = false →
     ∃ t, s.rmw ctx core (.mem pa) n op data f free = .ok (t, leNat (s.readPa pa n)) ∧
       t.readPa pa n = toBytes n (f (leNat (s.readPa pa n))) ∧
       (∀ a, (∀ k, k < n → a ≠ s.place? (pa + k)) → Memory.read t.mem a = Memory.read s.mem a) ∧ MemorySideOnly s t)

/-- R198: ATOM, ATOMC and RED perform their operation at the memory side, after the wave's earlier stores; ATOM and ATOMC keep
the old values for vD, which return later, as the results of the other instructions of class T do. -/
def Obligations.AtomicsIssue : Prop := ∀ (o : OpM) (s : State) (r : Run),
  (let i := Instr.atom o
   Atomically s i o r o.op [o.d.toNat] (fun l => [(s.srcVals r.w i l).getD 1 0]) (fun v => v.getD 0 0)
     (fun v old => atomFn o.op o.size.bytes old ((v.getD 0 0).toNat % 2 ^ (8 * o.size.bytes)))) ∧
  (let i := Instr.atomc o
   Atomically s i o r 12 [o.d.toNat] (fun l => [(s.srcVals r.w i l).getD 1 0, s.regVal r.w l o.d.toNat])
     (fun v => v.getD 1 0) (fun v old => if old = (v.getD 0 0).toNat % 2 ^ (8 * o.size.bytes)
       then (v.getD 1 0).toNat % 2 ^ (8 * o.size.bytes) else old)) ∧
  (let i := Instr.red o
   Atomically s i o r o.op [] (fun l => [s.regVal r.w l o.d.toNat]) (fun v => v.getD 0 0)
     (fun v old => atomFn o.op o.size.bytes old ((v.getD 0 0).toNat % 2 ^ (8 * o.size.bytes)))) ∧
  (∀ w e seq, s.wave? r.c.wid = some w → w.entry? seq = some e → e.seq = seq → resultReturns e.ins = true → e.st = .sent →
    s.returns w e = true → e.dest.Nodup →
    ∃ t w', exec (.atomicResultReturn r.c.wid seq) s = .next t ∧
      t = { s with waves := t.waves, ctxs := t.ctxs, tagrecs := t.tagrecs, freeCtr := t.freeCtr } ∧ SameButHeard s t ∧
      OtherWaves s t r.c.wid ∧ t.wave? r.c.wid = some w' ∧ Returned w e w')

/-- R99, R199, R200: FADDO sends its contributions to the memory channel, where they wait under their keys; the lowest key of
an address is added once its turn has come. CHAIN takes its workgroup's ticket and its group waits; the ticket whose turn
has come adds the group's values, its lanes get the sums before theirs, and the group goes on. -/
def Obligations.OrderedAddsAndChains : Prop :=
  (∀ (o : OpM) (s : State) (r : Run) (locs : List (Nat × Loc)),
     (let i := Instr.faddo o
      let n := o.size.bytes
      let ptr := fun v => List.getD v 0 0
      let s1 := s.afterStores i r ptr
      let u := ((s1.launchOf r.w).map Prod.fst).getD 0
      let g := ((s1.wg? r.w.wg).map s1.wgIndex).getD 0
      ∀ w1 l1, Issues s i r → r.ex ≠ 0 → Reaches s i r accAtomic [0, 4] n n ptr locs → s1.wave? r.c.wid = some w1 →
      s1.launch? u = some l1 → (∀ x ∈ locs, s1.badLoc x.2 n = false) →
      ∃ b t, ∃ (w0 w' : Wave) (e : Entry), exec i s = .next t ∧ GoesOn b i r (w0.withEntry e) t w' ∧ OfIssue e i r w1 ∧ e.st = .sent ∧
        w0 = { w1 with threads := w0.threads } ∧
        (∀ l, l < w1.threads.length → w0.thread l = { w1.thread l with
          faddoSeq := (w1.thread l).faddoSeq + if r.ex.getLsbD l then 1 else 0 }) ∧
        b = { s1 with waves := b.waves, launches := b.launches, tagrecs := b.tagrecs } ∧ OtherWaves s1 b r.c.wid ∧
        (∀ k, k ≠ u → b.launch? k = s1.launch? k) ∧
        ∃ e0, OfIssue e0 i r r.w ∧ b.launch? u = some { l1 with faddo := l1.faddo ++ locs.map (fun x =>
          { loc := x.2, wg := g, tid := 32 * r.w.idx + x.1, seq := (r.w.thread x.1).faddoSeq, wide := n == 8
            value := s1.regVal r.w x.1 o.d.toNat, wid := r.c.wid, lane := x.1, coarse := r.w.kind == .coarse, entry := e0 }) }) ∧
     (∀ u pa l c, s.launch? u = some l → l.nextFaddo pa = some c →
       c ∈ l.faddo ∧ c.loc = .mem pa ∧ (∀ d ∈ l.faddo, d.loc = .mem pa → d.before c = false) ∧
       (s.faddoTurn u c = false → exec (.faddoApply u pa) s = .next s) ∧
       (let n := if c.wide then 8 else 4
        s.faddoTurn u c = true → Plain s pa n →
        ∃ t, exec (.faddoApply u pa) s = .next t ∧
          MemoryTo s t pa (toBytes n (atomFn 9 n (leNat (s.readPa pa n)) (c.value.toNat % 2 ^ (8 * n)))) ∧
          t.launch? u = some { l with faddo := l.faddo.erase c } ∧ (∀ k, k ≠ u → t.launch? k = s.launch? k) ∧
          t = { s with mem := t.mem, bad := t.bad, keyed := t.keyed, launches := t.launches }))) ∧
  (∀ (o : OpM) (s : State) (r : Run) (locs : List (Nat × Loc)),
     (let i := Instr.chain o
      let n := o.size.bytes
      let ptr := fun v => List.getD v 0 0
      let s1 := s.afterStores i r ptr
      ∀ w1 u l l1 a loc x, Issues s i r → r.ex ≠ 0 → (∀ y ∈ s.addrs i r ptr, y.2 = a) →
      Reaches s i r accAtomic [0, 4] n n ptr locs → locs.head? = some (x, loc) → s.launchOf r.w = some (u, l) →
      l.chainBroken loc = false → ((l.chain? loc).map (fun c => c.holds (((s.wg? r.w.wg).map s.wgIndex).getD 0))).getD false = false →
      s1.wave? r.c.wid = some w1 → s1.launch? u = some l1 →
      ∃ b t, ∃ (w0 w' : Wave) (e : Entry), exec i s = .next t ∧
        Finished b i r w0 t w' (fun l => if r.ex.getLsbD l then r.c.pc else nextPc i r) ∧
        w0 = { w1.withEntry e with threads := w0.threads } ∧ OfIssue e i r w1 ∧ e.st = .issued ∧ e.dest = [o.d.toNat] ∧
        (∀ l, l < w1.threads.length → w0.thread l = { w1.thread l with
          wait := if r.ex.getLsbD l then .chain else (w1.thread l).wait }) ∧
        b = { s1 with waves := b.waves, launches := b.launches, wgs := b.wgs } ∧ OtherWaves s1 b r.c.wid ∧
        b.launch? u = some (l1.modChain loc (n == 8) (fun c => { c with tickets := c.tickets ++
          [{ wg := ((s.wg? r.w.wg).map s.wgIndex).getD 0, wid := r.c.wid, entry := r.w.seqNext, lanes := r.ex
             vals := (lanesOf r.ex).map (fun l => (l, (s1.srcVals r.w i l).getD 1 0)) }] }))) ∧
     (∀ u pa l c k w, s.launch? u = some l → l.chain? (.mem pa) = some c → l.chainBroken (.mem pa) = false →
       s.chainTurn u c = some k → l.terminated.any (fun x => x.1 == k.wg) = false → s.wave? k.wid = some w →
       let n := if c.wide then 8 else 4
       let p := chainPrefixes (2 ^ (8 * n)) (leNat (s.readPa pa n)) k.vals
       Plain s pa n →
       ∃ t w', exec (.chainTicketPerformed u pa) s = .next t ∧ MemoryTo s t pa (toBytes n p.2) ∧ t.wave? k.wid = some w' ∧
         Released w w' k.lanes (· == .chain) ∧ OtherWaves s t k.wid ∧ w' = { w with threads := w'.threads, mitten := w'.mitten } ∧
         w'.mitten = w.mitten.map (fun e => if e.seq == k.entry then { e with st := .sent, res := p.1 } else e) ∧
         t = { s with mem := t.mem, bad := t.bad, keyed := t.keyed, waves := t.waves, launches := t.launches }))

/-- R183, R201, R202, R203, R207: REDB sends each lane's reduction to the base die; each is then applied by itself, and the
last frees the entry. FENCE releases and acquires as its ORD says once what it covers is acknowledged, and goes on; WAITM and VWAIT give the words that their threads
read when their conditions held, or wait at the instruction until every condition has held; WAITM_PASS reads again. -/
def Obligations.ReductionsAndMemoryWaits : Prop :=
  (∀ (o : OpM) (s : State) (r : Run) (locs : List (Nat × Loc)),
     (let i := Instr.redb o
      let n := o.size.bytes
      Issues s i r → s.isDet r.w = false → r.ex ≠ 0 → Reaches s i r accAtomic [0, 4] n n (fun v => List.getD v 0 0) locs →
      ∃ b t w' e, exec i s = .next t ∧ GoesOn b i r (r.w.withEntry e) t w' ∧ b = { s with waves := b.waves, tlb := b.tlb } ∧
        OtherWaves s b r.c.wid ∧ OfIssue e i r r.w ∧ e.st = .sent ∧ e.loc = locs ∧
        ∀ l, r.ex.getLsbD l = true → aget? e.vals l = some [s.regVal r.w l o.d.toNat]) ∧
     (∀ wid seq lane w e pa, s.wave? wid = some w → w.entry? seq = some e → e.ins = .redb o → w.frozen = false → e.st ≠ .fault →
       e.exec.getLsbD lane = true → e.done.getLsbD lane = false → aget? e.loc lane = some (.mem pa) →
       let n := o.size.bytes
       let v := (((aget? e.vals lane).getD []).getD 0 0).toNat % 2 ^ (8 * n)
       let done := e.done ||| 1#32 <<< lane
       Plain s pa n →
       ∃ t w', exec (.redbApply wid seq lane) s = .next t ∧
         MemoryTo s t pa (toBytes n (atomFn o.op n (leNat (s.readPa pa n)) v)) ∧ t.wave? wid = some w' ∧
         OtherWaves s t wid ∧ t = { s with mem := t.mem, bad := t.bad, keyed := t.keyed, waves := t.waves } ∧
         w' = { w with mitten := if done = e.exec then w.mitten.filter (fun x => x.seq != seq)
           else w.mitten.map (fun x => if x.seq == seq then { x with st := .partly, done } else x) })) ∧
  (∀ (o : OpM) (s : State) (r : Run),
     (let i := Instr.fence o
      let b := (s.releaseBy r.w o).acquireBy r.w o
      ∀ w1, Issues s i r → r.w.mitten.find? (fun e => fenceCovers o r.ex e && r.w.deliverable e) = none →
      b.wave? r.c.wid = some w1 → ∃ t w', exec i s = .next t ∧ GoesOn b i r w1 t w') ∧
     (let i := Instr.waitm o
      let n := o.size.bytes
      let ptr := fun v => List.getD v 0 0
      ∀ locs, Issues s i r → Reaches s i r accLoad [0, 1, 2, 3, 4, 5] n n ptr locs →
      WaitsForMemory (s.touch r.w.ctx ((s.addrs i r ptr).map Prod.snd)) i o.d.toNat r (exec i s)) ∧
     (∀ l v, s.waitmTest o r.w l = some v →
       ∃ a bs, s.resolve r.w accLoad [0, 1, 2, 3, 4, 5] o.size.bytes o.size.bytes ((s.srcVals r.w (.waitm o) l).getD 0 0)
         (freeAt 300 l) = .ok a ∧
         s.loadBytes r.w l a o.size.bytes (s.viewOf r.w (.waitm o) ((s.srcVals r.w (.waitm o) l).getD 0 0)) = some bs ∧ v = leWord bs ∧
         waitmHolds o.op o.size.bytes (leNat bs) ((s.srcVals r.w (.waitm o) l).getD 1 0).toNat = true) ∧
     (let i := Instr.vwait o
      let n := o.size.bytes
      ∀ locs, Issues s i r → s.resolveAll r.w accLoad [0, 4] n n (s.lowTile i r) = ([], locs) →
      WaitsForMemory (s.touch r.w.ctx ((s.lowTile i r).map Prod.snd)) i o.d.toNat r (exec i s)) ∧
     (∀ wid lane s', s.waiters wid lane isMemWait = some (.waitm o, s', r) → s.memDue wid r = true →
       WaitsForMemory s' (.waitm o) o.d.toNat r (exec (.waitmPass wid lane) s)) ∧
     (∀ wid lane s', s.waiters wid lane isMemWait = some (.vwait o, s', r) → s.memDue wid r = true →
       WaitsForMemory s' (.vwait o) o.d.toNat r (exec (.waitmPass wid lane) s)))

/-- R173, R204, R205, R206: STT puts a tile's bytes and version into the FIFO; LDT takes for each thread its 128 bytes of the
tile and, where it names a register for it, the version word, both with what the wave's own stores in the FIFO write. PUBV raises a tile's version, unless it is settled, snuffed or at its
greatest, and answers the version word after it; SNUFF sets bit 62 and answers the word before it. Without watches on the
tile nothing else changes. -/
def Obligations.TilesAndVersions : Prop :=
  (∀ (o : OpM) (s : State) (r : Run) (x : Nat) (loc : Loc),
     (let i := Instr.stt o
      let a := s.tileAddr i o r
      Issues s i r → wholeWave i r = true → r.ex ≠ 0 →
      s.resolveAll r.w accStore [0, 4] 4096 4096 [(r.low, a)] = ([], [(x, loc)]) →
      ∃ b t w' e, exec i s = .next t ∧ GoesOn b i r (r.w.withEntry e) t w' ∧ b = { s with waves := b.waves, tlb := b.tlb } ∧
        OtherWaves s b r.c.wid ∧ OfIssue e i r r.w ∧ e.inFifo = true ∧ e.loc = [(x, loc)] ∧
        ∀ l, r.ex.getLsbD l = true → aget? e.vals l =
          some (s.groupVals r.w i l (groupAt (.reg o.d) 16) ++ [(s.srcVals r.w i l).getD 1 0])) ∧
     (let i := Instr.ldt o
      let a := s.tileAddr i o r
      let ds := (List.range 16).map (fun k => o.d.toNat + k) ++ groupAt o.sb 1
      let bytes := (s.readLoc r.w.ctx loc 4096 0).getD []
      Issues s i r → wholeWave i r = true → r.ex ≠ 0 →
      s.resolveAll r.w accLoad [0, 4] 4096 4096 [(r.low, a)] = ([], [(x, loc)]) →
      ∃ b t, exec i s = .next t ∧ ReadsOnly s b ∧ Held b i r r.w ds (fun l v _ =>
        v = wordsOf 16 (r.w.forward l (loc.plus (128 * l)) ((bytes.drop (128 * l)).take 128)) ++
          (groupAt o.sb 1).map (fun _ => s.versionAt r.w loc)) t)) ∧
  (∀ (o : OpM) (s : State) (r : Run),
     OnVersion s (.pubv o) o r (fun v => (pubvWord (o.off.getLsbD 0) v).1) (fun v => (pubvWord (o.off.getLsbD 0) v).1) ∧
     OnVersion s (.snuff o) o r (fun v => v ||| 0x4000000000000000) (fun v => v) ∧
     (∀ settle v, (pubvWord settle v).1 = if v.getLsbD 62 = true ∨ v.getLsbD 63 = true ∨ v.toNat % 2 ^ 32 = 2 ^ 32 - 1 then v
       else if settle then (v + 1) ||| 0x8000000000000000 else v + 1))

/-- R133, R134, R196, R208: CCTL pins or unpins its lines for the context and changes no value; ICINV drops the executing
core's lines of a range, all of them where the range is greater than 1 MiB. VQDEC gives the four elements that its part
selects of an index, decoded through the page; QNT gives slot J the index that the exact search finds, and keeps the other
slots. -/
def Obligations.CachesAndCodebooks : Prop :=
  (∀ (o : OpM) (s : State) (r : Run) (locs : List (Nat × Loc)),
     (let i := Instr.cctl o
      Issues s i r → Reaches s i r accLoad [0, 4, 5] 1 1 (fun v => List.getD v 0 0) locs →
      ∃ b t w', exec i s = .next t ∧ GoesOn b i r r.w t w' ∧ b = { s with tlb := b.tlb, pins := b.pins } ∧
        ∀ p, p ∈ b.pins ↔ if o.op = 2 then p ∈ s.pins ∨ (p.2 = r.w.ctx ∧ ∃ x ∈ locs, lineOf x.2 = some p.1)
          else if o.op = 3 then p ∈ s.pins ∧ ∀ x ∈ locs, lineOf x.2 ≠ some p.1 else p ∈ s.pins) ∧
     (let i := Instr.icinv o
      let a := (s.srcVals r.w i r.low).getD 0 0
      let n := ((s.srcVals r.w i r.low).getD 1 0).toNat
      Issues s i r → r.ex ≠ 0 → spaceOf a = 0 →
      ∃ b t w', exec i s = .next t ∧ GoesOn b i r r.w t w' ∧ b = { s with icache := b.icache } ∧
        ∀ x, x ∈ b.icache ↔ x ∈ s.icache ∧ ¬(x.core = r.w.core ∧ n ≠ 0 ∧
          (2 ^ 20 < n ∨ (x.asid = r.w.ctx ∧ x.va < vaOf a + n ∧ vaOf a < x.va + 64))))) ∧
  (∀ (o : OpA) (s : State) (r : Run),
     (let i := Instr.vqdec o
      ReadsPage s i r o.d.toNat (fun v => v.getD 1 0) (fun l page j =>
        let p := o.mod.toNat % 8
        let idx := sub (operand s r i l 0) (p / 2) 16
        (fmtOfTy o.ty).write rne (FVal.ofQ (vqWeight (page.getD (idx / 256) 0) idx ((operand s r i l 2).toNat % 256)
          (4 * (p % 2) + j))))) ∧
     (let i := Instr.qnt o
      ReadsPage s i r o.d.toNat (fun v => v.getD 0 0) (fun l page j =>
        let g := s.groupVals r.w i l (groupAt o.sa (if o.ty == .f32x2 then 4 else 2))
        let w := (List.range 8).map (fun e => (fmtOfTy o.ty).value (sub (g.getD (e / o.ty.nsub) 0) (e % o.ty.nsub) o.ty.width))
        if j = o.mod.toNat % 4 then
          (if w.any (fun x => !x.isFin) then (0, fInvalid)
           else (qntBest (w.map FVal.q) page ((operand s r i l 1).toNat % 256), 0))
        else (sub (s.oldD r l o.d.toNat 16) j 16, 0))))

/-- R182, R209, R210, R211, R212, R213, R214, R215, R220, R360: CPY, CPYM, CPYG, CPYZ, KVCMT and WIPE, whose pointers and
sizes pass the checks at issue, give each executing thread a promise and hold the copy in a Mitten entry. The completion
of a copy performs it and frees its entry, or marks the entry with the cause it met; a copy of 16 bytes in device memory
leaves the source's bytes at the destination and no other byte changed. -/
def Obligations.Copies : Prop :=
  (∀ (s : State) (r : Run), r.ex ≠ 0 →
     (∀ o : OpX, let i := Instr.cpy o
       let v := fun k => (s.srcVals r.w i r.low).getD k 0
       let n := (v 2).toNat % 2 ^ 40
       Issues s i r → Points s r accCopyFrom fromSpaces n 16 (v 0) → Points s r accCopyTo toSpaces n 16 (v 1) →
       n % 16 = 0 → FourAligned (v 0) (v 1) n → CopyIssue s i r o.a.d.toNat (relScope o) n (n == 0)) ∧
     (∀ o : OpX, let i := Instr.cpym o
       let v := fun k => (s.srcVals r.w i r.low).getD k 0
       let n := (v 2).toNat % 2 ^ 40
       Issues s i r → Points s r accCopyFrom fromSpaces n 16 (v 0) → spaceOf (v 1) = 2 → (v 1).toNat % 16 = 0 →
       (∀ m ∈ cpymMembers o, Points s r accCopyTo [2] n 16 (withMember (v 1) m)) → n % 16 = 0 →
       CopyIssue s i r o.a.d.toNat (relScope o) (n * (cpymMembers o).length) (n == 0 || (cpymMembers o).isEmpty)) ∧
     (∀ o : OpX, let i := Instr.cpyg o
       let v := fun k => (s.srcVals r.w i r.low).getD k 0
       Issues s i r → Points s r accCopyFrom fromSpaces 0 16 (v 0) → Points s r accCopyTo toSpaces 0 16 (v 1) →
       Points s r accCopyFrom listSpaces 0 16 (v 2) → FourAligned (v 0) (v 1) (elemSize o) →
       CopyIssue s i r o.a.d.toNat (relScope o) 0 false) ∧
     (∀ o : OpX, let i := Instr.cpyz o
       let v := fun k => (s.srcVals r.w i r.low).getD k 0
       let n := (v 2).toNat % 2 ^ 32
       Issues s i r →
       (if field o.w1 48 48 = 1 then Points s r accCopyFrom [5] (n * 4096) 4096 (v 0) ∧ Points s r accCopyTo toSpaces (n * 4096) 16 (v 1)
        else Points s r accCopyFrom toSpaces (n * 4096) 16 (v 0) ∧ Points s r accCopyTo [5] (n * 4096) 4096 (v 1)) →
       CopyIssue s i r o.a.d.toNat (relScope o) (n * 4096) (n == 0)) ∧
     (∀ o : OpX, let i := Instr.kvcmt o
       let v := fun k => (s.srcVals r.w i r.low).getD k 0
       Issues s i r → Points s r accCopyFrom fromSpaces 0 16 (v 0) → Points s r accCopyFrom listSpaces 0 16 (v 1) →
       Points s r accCopyFrom listSpaces 0 16 (v 2) → CopyIssue s i r o.a.d.toNat (relScope o) 0 false) ∧
     (∀ o : OpA, let i := Instr.wipe o
       let v := fun k => (s.srcVals r.w i r.low).getD k 0
       let n := (v 1).toNat % 2 ^ 48
       Issues s i r → Points s r accCopyTo [0, 4, 15] n 64 (v 0) → n % 64 = 0 →
       CopyIssue s i r o.d.toNat (if o.mod.getLsbD 3 then some (o.mod.toNat % 8) else none) n (n == 0))) ∧
  (∀ (s : State) (wid seq : Nat) (w : Wave) (e : Entry),
     s.wave? wid = some w → w.entry? seq = some e → e.seq = seq → w.frozen = false → s.farBusy w e = false → e.isCopy = true →
     e.st ≠ .fault →
     let s0 := s.heardFrom w e
     (∀ s1 w1 k, s0.runCopy w e = ((s1, none), k) → s1.wave? wid = some w1 →
       ∃ t, exec (.copyComplete wid seq) s = .next t ∧ t = { s1 with waves := t.waves, freeCtr := t.freeCtr } ∧
         OtherWaves s1 t wid ∧ t.wave? wid = some { w1 with mitten := w1.mitten.filter (fun x => x.seq != seq) }) ∧
     (∀ s1 w1 c k, s0.runCopy w e = ((s1, some c), k) → s1.wave? wid = some w1 → w1.live ≠ 0 →
       ∃ t, exec (.copyComplete wid seq) s = .next t ∧ t = { s1 with waves := t.waves, freeCtr := t.freeCtr } ∧
         OtherWaves s1 t wid ∧ t.wave? wid = some { w1 with mitten := w1.mitten.map (fun x =>
           if x.seq == seq then { x with st := .fault, orig := c, cursor := k } else x) }) ∧
     (∀ o v a b p q, e.ins = .cpy o → e.vals = [v] → v.2.drop 1 = [a, b, 16] → a.toNat % 16 = 0 → b.toNat % 16 = 0 →
       spaceOf b = 0 → s0.resolve w accCopyFrom fromSpaces 16 1 a 900 = .ok (.mem p) →
       s0.resolve w accCopyTo toSpaces 16 1 b 0 = .ok (.mem q) → Plain s0 p 16 → Plain s0 q 16 →
       ∃ t, exec (.copyComplete wid seq) s = .next t ∧ MemoryTo s0 t q (s0.readPa p 16)))

/-- R310, R368: WAITP goes on once the copy that the lowest executing thread's promise names is done; a copy that has met a
fault gives it that fault; a promise whose due count has passed while its copy is unfinished traps it with cause 0x08
and the copy's Mitten record. -/
def Obligations.Promises : Prop := ∀ (o : OpC) (s : State) (r : Run),
  (let i := Instr.waitp o
   Issues s i r →
   (s.waitpCopy o r = none → ∃ b t w', exec i s = .next t ∧ GoesOn b i r r.w t w' ∧ b = { s with hidden := b.hidden }) ∧
   ∀ e, s.waitpCopy o r = some e → e.st = .fault → Catches r.w →
     ∃ b w0 t x, exec i s = .next t ∧ b = { s with waves := b.waves } ∧ OtherWaves s b r.c.wid ∧ b.wave? r.c.wid = some w0 ∧
       w0 = { r.w with mitten := r.w.mitten.filter (fun y => y.seq != e.seq) } ∧
       Trapped b r.c.wid w0 r.c.lanes (fun _ => r.c.pc) x t ∧ x.cause = 0x14 ∧ x.deferred = true ∧ x.pc = e.pc ∧
       x.trec = e.words r.w) ∧
  (∀ wid lane s' e, s.standers wid lane = some (.waitp o, s', r) → s'.commonWait (.waitp o) r = false → Catches r.w →
    s'.waitpCopy o r = some e → e.st ≠ .fault → s'.waitsHard o r.w e = false → s'.duePassed (s'.promiseOf o r) = true →
    ∃ t x, exec (.promiseDue wid lane) s = .next t ∧ Trapped s' r.c.wid r.w r.c.lanes (fun _ => r.c.pc) x t ∧
      x.cause = 0x08 ∧ x.deferred = true ∧ x.pc = r.c.pc ∧ x.mask = r.ex ∧ x.trec = e.words r.w)

/-- R159, R160: MMA, MMAG, MMAR and MPERM open their convergence register's round, or join it, and wait; once every expected
thread is in it, the operation issues for its wave with its operands, and the round is over. -/
def Obligations.MatrixRounds : Prop :=
  (∀ (o : OpX) (s : State) (r : Run) (g : Workgroup), ∀ i ∈ [Instr.mma o, .mmag o, .mmar o, .mperm o], Issues s i r →
    s.wg? r.w.wg = some g → roundConflict (convOf g (mmKreg o.w1)) r = false →
    let k := mmKreg o.w1
    ∃ t w0, exec i s = .next t ∧ t.wave? r.c.wid = some w0 ∧ OtherWaves s t r.c.wid ∧
      ExchangeWave r w0 (fun l => if r.c.lanes.getLsbD l then .conv k else (r.w.thread l).wait) ∧
      t = { s with waves := t.waves, wgs := t.wgs, gangs := t.gangs, cur := none, freeCtr := t.freeCtr } ∧ SameGangs s t ∧
      (∀ j, j ≠ r.w.wg → t.wg? j = s.wg? j) ∧
      t.wg? r.w.wg = some (g.modConv k (fun c => { c with
        isOpen := true, wave := r.c.wid, pc := r.c.pc, sigs := tset 0 c.sigs r.c.wid (tget 0 c.sigs r.c.wid ||| r.c.lanes) }))) ∧
  (∀ (s s' : State) (g k lane : Nat) (x : Workgroup) (v : Wave) (i : Instr) (o : OpX) (r : Run), s.wg? g = some x →
    let c := convOf x k
    s.wave? c.wave = some v →
    (List.range 32).find? (fun l => (v.thread l).wait == .conv k && !(v.thread l).exited) = some lane →
    c.isOpen = true → s.roundFull c g = true → s.waiters c.wave lane (· == .conv k) = some (i, s', r) →
    i ∈ [Instr.mma o, .mmag o, .mmar o, .mperm o] → s'.commonWait i r = false → s'.issueCheck i r = none →
    (∀ p ∈ (s'.issueParts r.w i o).1, p.faults = []) →
    ∃ (b t : State) (w0 w' : Wave) (e : Entry), exec (.convergenceRoundIssue g k) s = .next t ∧
      GoesOn b i r { w0.withEntry e with engines := r.w.engines + 1 } t w' ∧
      ExchangeWave r w0 (fun l => if r.c.lanes.getLsbD l then .none else (r.w.thread l).wait) ∧ w0.exch = r.w.exch ∧
      OfIssue e i r r.w ∧ e.engNum = r.w.engines ∧ e.st = .issued ∧ e.snap = (s'.issueParts r.w i o).2 ∧
      (s'.isDet r.w = true → e.snap = (s'.matParts r.w i o none).map (·.words)) ∧
      b = { s' with waves := b.waves, wgs := b.wgs, tlb := b.tlb } ∧ OtherWaves s' b r.c.wid ∧
      b.wg? g = some (x.modConv k (fun c => { c with isOpen := false, sigs := [] })))

/-- R146, R165, R166, R167: ACLD, ACST, ACZ and MASKT issue into the Mitten, with the registers that ACLD and MASKT read then.
The oldest engine operation of a wave commits: ACZ zeroes its tile, ACLD and MASKT write the cells that they name, ACST
the registers; no other cell or register changes, and the entry is free. -/
def Obligations.Accumulators : Prop :=
  (∀ (o : OpX) (s : State) (r : Run),
     (∀ i, i = Instr.acld o ∨ i = .acst o ∨ i = .acz o ∨ i = .maskt o → Issues s i r →
       ∃ (b t : State) (w' : Wave) (e : Entry), exec i s = .next t ∧
         GoesOn b i r { r.w.withEntry e with engines := r.w.engines + 1 } t w' ∧ b = { s with waves := b.waves } ∧
         OtherWaves s b r.c.wid ∧ OfIssue e i r r.w ∧ e.st = .issued ∧ e.engNum = r.w.engines ∧
         (i = .acld o → ∀ base, o.a.sa = .reg base → ∀ l, r.ex.getLsbD l = true → aget? e.vals l =
           some (s.groupVals r.w i l ((List.range (acGroup o.w1)).map (base.toNat + ·)))) ∧
         (i = .acst o → e.dest = groupAt (.reg o.a.d) (acGroup o.w1)) ∧
         (i = .maskt o → ∀ a, o.a.sa = .reg a → ∀ l, l < 32 → aget? e.vals l = some [s.regVal r.w l a.toNat]))) ∧
  (∀ (s : State) (wid : Nat) (w : Wave) (e : Entry) (o : OpX),
     s.wave? wid = some w → w.frozen = false → w.uncommitted.head? = some e → fieldsOk e.ins = true →
     let row := mmAccRow o.w1
     let col := mmAccCol o.w1
     let cells := fun (w' : Wave) (new : Nat → Nat → Option Nat) => ∀ r c, c < 256 →
       w'.cell r c = if row ≤ r ∧ col ≤ c then
         (match new (r - row) (c - col) with | some v => BitVec.ofNat 32 v | none => w.cell r c) else w.cell r c
     let ends := fun (w' : Wave) => ∃ t, exec (.engineCommit wid) s = .next t ∧ t.wave? wid = some w' ∧ OtherWaves s t wid ∧
       t = { s with waves := t.waves, freeCtr := t.freeCtr } ∧ w'.mitten = w.mitten.filter (fun x => x.seq != e.seq)
     (e.ins = .acz o → ∃ w', ends w' ∧ w' = { w with acc := w'.acc, mitten := w'.mitten } ∧
       cells w' (fun i j => if i < acRows o.w1 ∧ j < acCols o.w1 then some 0 else none)) ∧
     (e.ins = .acld o → ∃ w', ends w' ∧
       w' = { w with acc := w'.acc, mitten := w'.mitten, fflags := w'.fflags, owed := w'.owed } ∧
       cells w' (fun i j =>
         let n := fmtSlot (mmFmtA o.w1)
         let p := i * acCols o.w1 + j
         let q := p % (2048 / n)
         let l := q / (64 / n)
         if i < acRows o.w1 ∧ j < acCols o.w1 ∧ e.exec.getLsbD l = true then
           some (widen o.w1 (sub (((aget? e.vals l).getD []).getD (p / (2048 / n)) 0) (q % (64 / n)) n)).1 else none)) ∧
     (e.ins = .maskt o → ∃ w', ends w' ∧
       w' = { w with acc := w'.acc, mitten := w'.mitten, fflags := w'.fflags, owed := w'.owed } ∧
       cells w' (fun i j =>
         let word := fun l => ((aget? e.vals l).getD []).getD 0 0
         let sb := (word 32).toNat
         let seen := (visible (fun n => sub (word (n / 4)) (n % 4) 16) 129 i).1
         if i < min (sb / 2 ^ 16 % 256) (16 * acRows o.w1) ∧ j < acCols o.w1 ∧ sb % 512 ≤ j ∧ j - sb % 512 ∉ seen then
           some (if mmIacc o.w1 then 0x80000000 else 0xFF800000) else none)) ∧
     (e.ins = .acst o → ∃ w', ends w' ∧ w'.acc = w.acc ∧
       (∀ x l, l < 32 → (o.a.d.toNat ≤ x → x < o.a.d.toNat + acGroup o.w1 → e.exec.getLsbD l = false) → w'.reg x l = w.reg x l) ∧
       ∀ l g, e.exec.getLsbD l = true → g < acGroup o.w1 →
         let n := fmtSlot (mmFmtA o.w1)
         ∃ v : Word, (w'.reg (o.a.d.toNat + g) l = v ∨
             (inFlight w (o.a.d.toNat + g) l ∧ w'.reg (o.a.d.toNat + g) l = w.reg (o.a.d.toNat + g) l)) ∧
           ∀ j, j < 64 / n →
             let p := g * (2048 / n) + l * (64 / n) + j
             sub v j n = (narrow o.w1 o.a.mod (w.tileCell o.w1 (p / acCols o.w1) (p % acCols o.w1))).1 % 2 ^ n))

/-- R146, R162, R163, R164: A matrix operation whose operands are as they were at its issue, and not in a latch, commits the
cells that its arithmetic gives, all in one step. OPFENCE goes on with every latch of the workgroup invalid; MWAIT, once
few enough operations are uncommitted and none of those that it covers has failed or trapped, sets their flags and goes
on. -/
def Obligations.MatrixCommitsAndWaits : Prop :=
  (∀ (s : State) (wid : Nat) (w : Wave) (e : Entry) (o : OpX),
     s.wave? wid = some w → w.frozen = false → w.uncommitted.head? = some e → fieldsOk e.ins = true →
     e.ins ∈ [Instr.mma o, .mmag o, .mmar o, .mperm o] → w.latchA.valid = false → w.latchB.valid = false → e.snap ≠ [] →
     e.snap = (s.matParts w e.ins o e.snap[0]?).map (·.words) → (∀ p ∈ s.matParts w e.ins o e.snap[0]?, p.bad = false) →
     let res := matResults e.ins o (w.tileCell o.w1) e.snap
     ∃ t w', exec (.engineCommit wid) s = .next t ∧ t.wave? wid = some w' ∧ OtherWaves s t wid ∧
       t = { s with waves := t.waves, freeCtr := t.freeCtr } ∧ w'.mitten = w.mitten.filter (fun x => x.seq != e.seq) ∧
       w' = { w with acc := w'.acc, mitten := w'.mitten, latchA := w'.latchA, latchB := w'.latchB, owed := w'.owed } ∧
       (∀ x ∈ res, w'.cell (mmAccRow o.w1 + x.1) (mmAccCol o.w1 + x.2.1) = BitVec.ofNat 32 x.2.2.1) ∧
       ∀ r c, c < 256 → (∀ x ∈ res, ¬(r = mmAccRow o.w1 + x.1 ∧ c = mmAccCol o.w1 + x.2.1)) → w'.cell r c = w.cell r c) ∧
  (∀ (o : OpX) (s : State) (r : Run),
     (let i := Instr.opfence o
      Issues s i r → ∃ (b t : State) (w0 w' : Wave), exec i s = .next t ∧ GoesOn b i r w0 t w' ∧
        w0 = { r.w with
          threads := w0.threads, latchA := {}, latchB := {}, mitten := w0.mitten, loose := [], fenced := r.w.regs } ∧
        (∀ l, l < r.w.threads.length → w0.thread l = { r.w.thread l with
          pend := if r.c.lanes.getLsbD l then [] else (r.w.thread l).pend }) ∧
        b = { s with waves := b.waves } ∧
        ∀ k v, k ≠ r.c.wid → s.wave? k = some v → b.wave? k = some (if v.wg = r.w.wg then
          { v with latchA := {}, latchB := {}, mitten := v.mitten.map (fun m => { m with latches := m.latches && !isEngine m.ins }) }
          else v)) ∧
     (let i := Instr.mwait o
      let covered := fun n => n + o.a.mod.toNat < r.w.engines
      Issues s i r → (∀ e ∈ r.w.mitten, isEngine e.ins = true → covered e.engNum → e.st ≠ .fault) →
      (∀ x ∈ r.w.owed, covered x.num → r.w.trapping x.flags = 0) →
      ∃ (b t : State) (w0 w' : Wave), exec i s = .next t ∧ GoesOn b i r w0 t w' ∧ b = { s with waves := b.waves } ∧
        OtherWaves s b r.c.wid ∧ w0 = { r.w with fflags := w0.fflags, owed := w0.owed } ∧
        (∀ x, x ∈ w0.owed ↔ x ∈ r.w.owed ∧ ¬covered x.num) ∧
        ∀ k, w0.fflags.getLsbD k = true ↔ r.w.fflags.getLsbD k = true ∨
          ∃ x ∈ r.w.owed, covered x.num ∧ x.atWait = true ∧ x.flags.getLsbD k = true))

/-- R303, R304, R307, R308: BRA, BRX and RET take the executing threads to their targets and the others to the next
instruction; CALL and CALLT also leave the next pc in vD. A CALLT's target is the one that the function table holds for
the index, of the type that the instruction names. EXIT ends the executing threads of a compute or access wave and lets
the others go on; YIELD goes on with the Y hint, which DET ignores. -/
def Obligations.TransfersOfControl : Prop :=
  (∀ (o : OpC) (s : State) (r : Run),
     (let i := Instr.bra o
      Issues s i r → (r.ex ≠ 0 → s.otherRate r.w (pcPlus r.c.pc o.tgt) r.w.rate = false) →
      Transfers s i r (fun _ => r.c.pc + o.tgt.signExtend 64 * 8)) ∧
     (let i := Instr.brx o
      let at_ := fun l => addrAdd (operand s r i l 0) (o.tgt.signExtend 64 * 8)
      Issues s i r → (∀ l, r.ex.getLsbD l = true → spaceOf (operand s r i l 0) = 0 ∧ (operand s r i l 0).toNat % 8 = 0 ∧
        s.otherRate r.w (at_ l) r.w.rate = false) → Transfers s i r at_) ∧
     (let i := Instr.ret o
      let at_ := fun l => operand s r i l 0
      Issues s i r → (∀ l, r.ex.getLsbD l = true → spaceOf (at_ l) = 0 ∧ (at_ l).toNat % 8 = 0 ∧
        s.otherRate r.w (at_ l) r.w.rate = false) → Transfers s i r at_) ∧
     (let i := Instr.call o
      Issues s i r → (r.ex ≠ 0 → s.otherRate r.w (pcPlus r.c.pc o.tgt) r.w.rate = false) →
      Links s i r o.d.toNat s.hidden (fun _ => r.c.pc + o.tgt.signExtend 64 * 8)) ∧
     (let i := Instr.callt o
      ∀ at_, Issues s i r → (∀ l, r.ex.getLsbD l = true → s.calltEntry r.w o (operand s r i l 0) l = .ok (at_ l)) →
      Links s i r o.d.toNat (s.acquire r.w.core 5).hidden at_) ∧
     (∀ index l a, s.calltEntry r.w o index l = .ok a →
       index.toNat < (s.obj r.w).ftablen ∧ spaceOf a = 0 ∧ a.toNat % 8 = 0 ∧
       ∃ p, s.resolve r.w accLoad [0] 16 1 ((s.obj r.w).base + BitVec.ofNat 64 ((s.obj r.w).ftaboff + 16 * index.toNat))
           (freeAt 300 l) = .ok p ∧
         let bs := (s.readLoc r.w.ctx p 16 0).getD []
         a = leWord (bs.take 8) ∧ leNat ((bs.drop 8).take 4) = o.tgt.toNat ∧ leNat (bs.drop 12) % 2 = 1)) ∧
  (∀ (o : OpC) (s : State) (r : Run),
     (let i := Instr.exit o
      Issues s i r → (∀ e ∈ r.w.mitten, e.st ≠ .fault) → r.w.trap.inHandler = false →
      (r.w.kind = .access ∨ (r.w.kind = .compute ∧ r.w.rate ≠ 4)) →
      ∃ t w', exec i s = .next t ∧ t.wave? r.c.wid = some w' ∧ OtherWaves s t r.c.wid ∧ SameMemory s t ∧
        t = { s with
          waves := t.waves, gangs := t.gangs, parts := t.parts, ctxs := t.ctxs, cur := none, issued := t.issued
          freeCtr := t.freeCtr } ∧ SameGangs s t ∧
        w'.regs = r.w.regs ∧ w'.retired = r.w.retired + 1 ∧
        ∀ l, let a := r.w.thread l
             let b := w'.thread l
             if r.ex.getLsbD l then b.exited = true ∧ b.wait = .none ∧ b.present = true
             else if r.c.lanes.getLsbD l = true ∧ a.exited = false ∧ l < r.w.threads.length then
               b = { a with pc := nextPc i r, source := b.source, readyAt := b.readyAt, pend := b.pend }
             else b = a) ∧
     (let i := Instr.yield o
      Issues s i r → ∃ t w', exec i s = .next t ∧ GoesOn s i r r.w t w' ∧ w'.yieldAt = if s.isDet r.w then r.w.yieldAt else s.dev.clk + 1))

/-- R249, R250, R251, R252, R255: A JOIN stops its threads and marks them as arrived at its pc; ARRV marks its threads there
and lets them go on; a waiting thread all of whose members have arrived goes on, with every such thread; where every
thread of a wave is stopped and none can, those at the record of the lowest pc go on. KSET gives a convergence register
that is not in a round its expected waves; SIGN puts the executing threads into the set of a round that expects them, and
has no effect otherwise. -/
def Obligations.JoinsAndConvergence : Prop :=
  ((∀ (o : OpC) (s : State) (r : Run), let i := Instr.join o
       Issues s i r → ∃ b t, exec i s = .next t ∧ b = { s with waves := b.waves } ∧ OtherWaves s b r.c.wid ∧
         StopsAt b i r (r.w.arriveJoin r.c.pc r.ex) (.join o.d.toNat) t) ∧
     (∀ (o : OpC) (s : State) (r : Run) (w0 w1 : Word) (u : State) (j : OpC), let i := Instr.arrv o
       let pc := r.c.pc + o.tgt.signExtend 64 * 8
       Issues s i r → r.ex ≠ 0 → s.wordsAt r.w pc = .ok (w0, w1, u) → decodeWords w0 w1 = .ok (.join j) → j.h.rate = o.h.rate →
       ∃ b t w', exec i s = .next t ∧ b = { s with waves := b.waves } ∧ OtherWaves s b r.c.wid ∧
         GoesOn b i r (r.w.arriveJoin pc r.ex) t w') ∧
     (∀ (w : Wave) (pc : Word) (lanes : Lanes), ∃ js, w.arriveJoin pc lanes = { w with joins := js } ∧
       (∀ j ∈ js, j.pc = pc → ∀ l, lanes.getLsbD l = true → j.arrived.getLsbD l = true) ∧
       (∃ j ∈ js, j.pc = pc) ∧ ∀ j, j.pc ≠ pc → (j ∈ js ↔ j ∈ w.joins)) ∧
     (∀ (s : State) (wid : Nat) (pc : Word) (w : Wave) (j : Join), s.wave? wid = some w →
       w.joins.find? (fun j => j.pc == pc) = some j → w.frozen = false → s.joinable w j ≠ [] →
       ∃ t, exec (.joinRelease wid pc) s = .next t ∧ JoinReleased s wid w pc (s.joinable w j) t) ∧
     (∀ (s : State) (wid : Nat) (w : Wave) (j : Join), s.wave? wid = some w → w.lowestJoin = some j → s.joinDeadlock wid w = true →
       ∃ t, exec (.joinDeadlockRelease wid) s = .next t ∧ JoinReleased s wid w j.pc (w.joinersAt j.pc) t)) ∧
  (∀ (o : OpC) (s : State) (r : Run) (g : Workgroup), s.wg? r.w.wg = some g →
     (let i := Instr.kset o
      Issues s i r → (convOf g o.d.toNat).isOpen = false →
      ∃ b t w', exec i s = .next t ∧ GoesOn b i r r.w t w' ∧ b = { s with wgs := b.wgs } ∧
        (∀ k, k ≠ r.w.wg → b.wg? k = s.wg? k) ∧
        b.wg? r.w.wg = some (g.modConv o.d.toNat (fun c => { c with w := (operand s r i r.low 0).setWidth 32 }))) ∧
     (let i := Instr.sign o
      Issues s i r → ∃ b t w', exec i s = .next t ∧ GoesOn b i r r.w t w' ∧ b = { s with wgs := b.wgs } ∧
        (∀ k, k ≠ r.w.wg → b.wg? k = s.wg? k) ∧
        b.wg? r.w.wg = some (g.modConv o.d.toNat (fun c =>
          if (if c.w = 0 then c.isOpen = false ∨ c.wave = r.c.wid else c.w.getLsbD r.w.idx = true) then
            { c with sigs := tset 0 c.sigs r.c.wid (tget 0 c.sigs r.c.wid ||| r.ex) } else c))))

/-- R253, R254: BAR and GBAR stop their threads as arrived; a barrier that is complete performs and releases the earlier
accesses of the waves that arrived, at its scope, and lets every thread go on that has arrived at its generation, and no
other. -/
def Obligations.Barriers : Prop :=
  (∀ (o : OpC) (s : State) (r : Run) (g : Workgroup), let i := Instr.bar o
    s.wg? r.w.wg = some g → Issues s i r → (operand s r i r.low 0).toNat ≤ 1024 →
    ∃ b t, exec i s = .next t ∧ b = { s with wgs := b.wgs } ∧ StopsAt b i r r.w (.bar o.d.toNat) t ∧
      (∀ k, k ≠ r.w.wg → b.wg? k = s.wg? k) ∧
      b.wg? r.w.wg = some (g.modBar o.d.toNat (fun x => (lanesOf r.ex).foldl (fun x l =>
        x.arrive (operand s r i r.low 0).toNat r.c.wid l) x))) ∧
  (∀ (o : OpC) (s : State) (r : Run) (g : Workgroup) (a : Gang), let i := Instr.gbar o
    s.wg? r.w.wg = some g → s.gang? g.gang = some a → Issues s i r →
    ∃ b t, exec i s = .next t ∧ b = { s with gangs := b.gangs } ∧ StopsAt b i r r.w .gbar t ∧
      (∀ k, k ≠ g.gang → b.gang? k = s.gang? k) ∧
      b.gang? g.gang = some { a with gbar := tset 0 a.gbar r.c.wid (tget 0 a.gbar r.c.wid ||| r.ex) }) ∧
  (∀ (s : State) (k n : Nat) (g : Workgroup) (x : BarGen), n < 16 → s.wg? k = some g → s.barReady k n = some x →
    (x.arrivals.map Prod.fst).Nodup →
    let u := (s.modWg k (fun g => g.modBar n (fun b => { gens := b.gens.drop 1 }))).settle x.arrivals 2
    ∃ t, exec (.barrierComplete k n) s = .next t ∧ AllReleased u t x.arrivals (· == .bar n) ∧ t = { u with waves := t.waves }) ∧
  (∀ (s : State) (k : Nat) (a : Gang), s.gang? k = some a → s.gbarReady k = true → (a.gbar.map Prod.fst).Nodup →
    let u := (s.modGang k (fun a => { a with gbar := [] })).settle a.gbar 3
    ∃ t, exec (.barrierComplete k 16) s = .next t ∧ AllReleased u t a.gbar (· == .gbar) ∧ t = { u with waves := t.waves })

/-- R224, R227, R258, R259, R302, R313, R314: LAUNCH and DRAW read their record after the wave's earlier stores, which they
release, and answer its status; a record of status 0 whose counter is granted places the launch or draw that it describes.
FRAMEB opens a frame and answers 0, or answers 1 while one is open; FRAMEE closes it with its frame word and answers 0, or
answers 1 where none is open. Each takes and frees a Mitten entry, and goes on; where no thread executes it does no more
than go on. -/
def Obligations.LaunchDrawAndFrames : Prop :=
  (∀ (o : OpC) (s : State) (r : Run), Idles s (.launch o) r ∧ Idles s (.draw o) r ∧ Idles s (.frameb o) r ∧ Idles s (.framee o) r) ∧
  (∀ (o : OpC) (s : State) (r : Run) (b : List Byte) (w1 : Wave), r.ex ≠ 0 →
     (let i := Instr.launch o
      let p := operand s r i r.low 0
      let s1 := s.afterRecord r p
      Issues s i r → Reads256 s r p b → s1.wave? r.c.wid = some w1 →
      let st := (s1.launchStatus r.w.ctx b).1
      (st ≠ 0 → ∃ t, exec i s = .next t ∧ Answers s1 i r w1.passEntry o.d.toNat (fun _ => BitVec.ofNat 64 st) t) ∧
      (st = 0 → s1.ctrClosed r.w.ctx (launchActions b) = false → ∀ c, s1.ctx? r.w.ctx = some c →
        ∃ q t l, exec i s = .next t ∧ Answers q i r w1.passEntry o.d.toNat (fun _ => 0) t ∧
        q = { s1 with launches := s1.launches ++ [(s1.nextKey, l)], nextKey := s1.nextKey + 1, ctxs := q.ctxs } ∧
        q.ctx? r.w.ctx = some { c with placed := c.placed + 1 } ∧ (∀ k, k ≠ r.w.ctx → q.ctx? k = s1.ctx? k) ∧
        l.ctx = r.w.ctx ∧ l.ord = c.placed ∧ l.pc = r.c.pc ∧ l.gangs = fieldAt b 8 3 ∧ l.gsize = fieldAt b 0x0C 1 ∧
        l.delta = fieldAt b 0x0D 1 ∧ l.wgsize = fieldAt b 0x0E 2 ∧ l.nextGang = 0 ∧ l.since = s1.dev.clk)) ∧
     (let i := Instr.draw o
      let p := operand s r i r.low 0
      let s1 := s.afterRecord r p
      Issues s i r → Reads256 s r p b → s1.wave? r.c.wid = some w1 →
      let st := (s1.drawStatus r.w.ctx b).1
      (st ≠ 0 → ∃ t, exec i s = .next t ∧ Answers s1 i r w1.passEntry o.d.toNat (fun _ => BitVec.ofNat 64 st) t) ∧
      (st = 0 → s1.ctrClosed r.w.ctx (drawActions b) = false → ∀ c f, s1.ctx? r.w.ctx = some c → c.frame = some f →
        ∃ q t d, exec i s = .next t ∧ Answers q i r w1.passEntry o.d.toNat (fun _ => 0) t ∧
        q = { s1 with draws := s1.draws ++ [(s1.nextKey, d)], nextKey := s1.nextKey + 1, ctxs := q.ctxs } ∧
        q.ctx? r.w.ctx = some { c with
          placed := c.placed + 1, frame := some { f with draws := f.draws + 1 }
          spoilt := c.spoilt && s1.draws.any (fun e => e.2.ctx == r.w.ctx && !e.2.gone) } ∧
        (∀ k, k ≠ r.w.ctx → q.ctx? k = s1.ctx? k) ∧
        d.ctx = r.w.ctx ∧ d.frame = f.id ∧ d.seq = f.draws ∧ d.recAddr = p ∧ d.nobj = fieldAt b 0x10 3 ∧
        d.width = fieldAt b 0x14 2 ∧ d.height = fieldAt b 0x16 2 ∧ d.spp = fieldAt b 0x18 1 ∧ d.delta = fieldAt b 0x1F 1))) ∧
  (∀ (o : OpC) (s : State) (r : Run) (c : Ctx), r.ex ≠ 0 → s.ctx? r.w.ctx = some c →
     (let i := Instr.frameb o
      Issues s i r →
      (c.frame ≠ none → ∃ t, exec i s = .next t ∧ Answers s i r r.w.passEntry o.d.toNat (fun _ => 1) t) ∧
      (c.frame = none → ∃ b t, exec i s = .next t ∧ Answers b i r r.w.passEntry o.d.toNat (fun _ => 0) t ∧
        b = { s with ctxs := b.ctxs, nextKey := s.nextKey + 1 } ∧ (∀ k, k ≠ r.w.ctx → b.ctx? k = s.ctx? k) ∧
        b.ctx? r.w.ctx = some { c with frame := some { id := s.nextKey } })) ∧
     (let i := Instr.framee o
      let p := operand s r i r.low 0
      Issues s i r → (p = 0 ∨ (p.toNat % 8 = 0 ∧ (spaceOf p = 0 ∨ spaceOf p = 3 ∨ spaceOf p = 4))) →
      (c.frame = none → ∃ t, exec i s = .next t ∧ Answers s i r r.w.passEntry o.d.toNat (fun _ => 1) t) ∧
      (∀ f, c.frame = some f → ∃ b t, exec i s = .next t ∧ Answers b i r r.w.passEntry o.d.toNat (fun _ => 0) t ∧
        b = { s with ctxs := b.ctxs } ∧ (∀ k, k ≠ r.w.ctx → b.ctx? k = s.ctx? k) ∧
        b.ctx? r.w.ctx = some { c with frame := none, closing := c.closing ++ [{ f with word := p }] })))

/-- R32, R33, R34, R309, R311, R312: ACQ stops its threads with their workgroup's request, and goes on where it has nothing to
do; a grant gives every waiting member of the gang its full allotment, whose new registers, rows and granules are zero, and lets
its threads go on; REL stops its threads
until its gang's rendezvous, which takes back what lies beyond the prologue allotment. RGN replaces the Palm's set by the
registers that its runs name; SLEEP stops its threads for its number of nanoseconds, after which the group goes on. -/
def Obligations.AllotmentsPalmAndSleep : Prop :=
  ((∀ (o : OpC) (s : State) (r : Run), let i := Instr.acq o
       Issues s i r →
       (r.ex = 0 ∨ s.acqActs r.w = false → ∃ t w', exec i s = .next t ∧ GoesOn s i r r.w t w') ∧
       (r.ex ≠ 0 → s.acqActs r.w = true → ∀ g, s.wg? r.w.wg = some g →
         ∃ b t, exec i s = .next t ∧ StopsAt b i r r.w .acq t ∧
         b = { s with wgs := b.wgs, gangs := b.gangs, nextKey := b.nextKey } ∧ (∀ k, k ≠ r.w.wg → b.wg? k = s.wg? k) ∧
         b.wg? r.w.wg = some { g with acqAt := true })) ∧
     (∀ (s : State) (core gk : Nat) (a : Gang), (s.waves.map Prod.fst).Nodup → s.oldestRequest core = some (gk, a) →
       s.acqFits a (fun _ => false) = true →
       ∃ t, exec (.acqGrant core) s = .next t ∧ t = { s with wgs := t.wgs, gangs := t.gangs, waves := t.waves } ∧
         (∀ x ∈ s.acqMembers a, ∀ g, s.wg? x.1 = some g → ∃ g', t.wg? x.1 = some g' ∧
           g' = { g with full := true, acqAt := false, spad := g'.spad } ∧
           ∀ off, tget 0 g'.spad off = if off < 256 * (s.objOfWg g).prologue.spad then tget 0 g.spad off else 0) ∧
         ∀ k v, s.wave? k = some v → ∃ v', t.wave? k = some v' ∧
           ((∀ x ∈ s.acqMembers a, x.1 ≠ v.wg) → v' = v) ∧
           ∀ x ∈ s.acqMembers a, ∀ g, x.1 = v.wg → s.wg? v.wg = some g →
             v' = { (if v.kind = .access then v else v.cut (s.objOfWg g).prologue) with threads := v'.threads } ∧
             ∀ l, l < 32 → (v.thread l).wait = .acq → (v.thread l).stood ≠ .acq → (v.thread l).exited = false →
               (v.thread l).present = true → v'.thread l = { v.thread l with wait := .none, pc := (v.thread l).pc + 8 }) ∧
     (∀ (o : OpC) (s : State) (r : Run) (g : Workgroup), let i := Instr.rel o
       let p := (s.objOfWg g).prologue
       Issues s i r → s.wg? r.w.wg = some g → (r.w.kind = .compute ∨ r.w.kind = .coarse) → r.ex ≠ 0 →
       (g.full = false ∨ p = (s.objOfWg g).full → ∃ t w', exec i s = .next t ∧ GoesOn s i r r.w t w') ∧
       (g.full = true → p ≠ (s.objOfWg g).full → ∃ t0, StopsAt s i r r.w .rel t0 ∧ exec i s = .next (t0.tryRel g.gang))) ∧
     (∀ (s : State) (gk : Nat) (a : Gang), s.gang? gk = some a → s.relReady a = true → a.st = .admitted →
       ∀ k g, k ∈ a.members → s.wg? k = some g → g.finished = false → g.full = true →
       let p := (s.objOfWg g).prologue
       (∃ g', (s.tryRel gk).wg? k = some g' ∧ g'.full = false ∧ g'.acqAt = false ∧
         ∀ off, tget 0 g'.spad off = if off < 256 * p.spad then tget 0 g.spad off else 0) ∧
       ∀ wid v, s.wave? wid = some v → v.wg = k → v.kind ≠ .access → ∃ v', (s.tryRel gk).wave? wid = some v' ∧
         ∀ x l, l < 32 → v'.reg x l = if x < p.n then v.reg x l else 0)) ∧
  ((∀ (o : OpX) (s : State) (r : Run), let i := Instr.rgn o
       Issues s i r → ∃ b t w', exec i s = .next t ∧ b = { s with waves := b.waves } ∧ OtherWaves s b r.c.wid ∧
         GoesOn b i r { r.w with palm := (rgnRuns o.w1).flatMap (fun x => (List.range x.2).map (x.1 + ·)) } t w') ∧
     (∀ (o : OpC) (s : State) (r : Run), let i := Instr.sleep o
       Issues s i r → ∃ t, exec i s = .next t ∧
         StopsAt s i r r.w (.sleep (s.dev.ptp + (operand s r i r.low 0).toNat % 2 ^ 32)) t) ∧
     (∀ (s : State) (wid lane u : Nat) (w : Wave), s.wave? wid = some w → (w.thread lane).wait = .sleep u → w.frozen = false →
       (∀ l, (w.thread l).stood ≠ .sleep u) →
       (s.dev.ptp < u → exec (.sleepExpiry wid lane) s = .next s) ∧
       (u ≤ s.dev.ptp → ∃ t w', exec (.sleepExpiry wid lane) s = .next t ∧ t = { s with waves := t.waves } ∧
         OtherWaves s t wid ∧ t.wave? wid = some w' ∧ w' = { w with threads := w'.threads } ∧
         ∀ l, l < 32 → l < w.threads.length → w'.thread l =
           if (w.thread l).wait = .sleep u ∧ (w.thread l).pc = (w.thread lane).pc ∧ (w.thread l).exited = false then
             { w.thread l with wait := .none, pc := (w.thread l).pc + 8 } else w.thread l)))

/-- R315, R316, R317: QPUSH adds a row of its threads' words at the end of the queue, with zeros in the lanes that do not
execute; QPOP takes the head's word into vD, or drops it; QCTL gives an empty queue its depth. -/
def Obligations.Queues : Prop := ∀ (o : OpA) (s : State) (r : Run),
  (let i := Instr.qpush o
   let n := o.d.toNat % 8
   Issues s i r → (r.w.queue n).entries.length < (r.w.queue n).depth →
   ∃ t row, exec i s = .next t ∧ QueueStep s i r n (fun x => { x with entries := x.entries ++ [some row] }) t ∧
     row.length = 32 ∧ ∀ l, l < 32 → row.getD l 0 = if r.ex.getLsbD l then operand s r i l 0 else 0) ∧
  (let i := Instr.qpop o
   (o.mod.getLsbD 0 = true → Issues s i r → ∃ t w', exec i s = .next t ∧ GoesOn s i r r.w t w') ∧
   (o.mod.getLsbD 0 = false → Gives s i r o.d.toNat (fun l => operand s r i l 0))) ∧
  (let i := Instr.qctl o
   let n := o.d.toNat % 8
   let d := (operand s r i r.low 0).toNat % 128
   Issues s i r → r.ex ≠ 0 → d ≤ 64 → r.w.boundDepth n d ≤ (s.allot r.w).q → (r.w.queue n).entries = [] →
   ∃ t, exec i s = .next t ∧ QueueStep s i r n (fun x => { x with depth := d }) t)

/-- R284, R287, R289, R290, R291, R292, R293, R298, R299, R318, R319, R320, R321, R322: TSPAWN and TTIME create their lanes'
tasks in lane order after the wave's earlier stores, which they release; their results, like those of TDEP and TDEC, wait
in a Mitten entry: a lane whose status is not 0 gets it and creates nothing; another's
task takes the lowest free slot, with the slot's next generation, and is Ready at once where its counter is 0. TDEP sets
its lanes' counters in lane order and answers the values before; TDEC lowers them by one and answers the values after; a
counter that falls to 0 releases its tasks; below 0, cause 0x09 names the counter. TDEP.watch registers its lanes' watches
in lane order and answers the version words. A tick of the timer wheel makes the tasks whose time has come Ready; the dispatcher
gives the head task a wave of its own, with up to 31 Ready tasks of its entry; a head task that has waited 400 µs starves
its lantern until it has its wave; the oldest held instance takes a free slot; and a settle group falls by one once an instance's writes are
acknowledged. -/
def Obligations.TasksAndCounters : Prop :=
  ((∀ (o : OpX) (s : State) (r : Run), let i := Instr.tspawn o
       Issues s i r → s.tspawnFault o r = none →
       InOrder (s.deviceRelease r) i r o.a.d.toNat
         (inOrder (fun s x => ((s.spawnOne x).1, BitVec.ofNat 64 (s.spawnOne x).2)) Spawn.lane (s.spawns o r) (s.deviceRelease r))
         (exec i s)) ∧
     (∀ (o : OpA) (s : State) (r : Run), let i := Instr.ttime o
       Issues s i r → s.ttimeFault o r = none →
       InOrder (s.deviceRelease r) i r o.d.toNat
         (inOrder (fun s x => ((s.spawnOne x).1, BitVec.ofNat 64 (s.spawnOne x).2)) Spawn.lane (s.timedSpawns o r)
           (s.deviceRelease r)) (exec i s)) ∧
     (∀ (s : State) (x : Spawn), x.status ≠ 0 → s.spawnOne x = (s, x.status * 2 ^ 56)) ∧
     (∀ (s : State) (x : Spawn) (l : Lantern) (slot : Nat), x.status = 0 → s.lanterns[x.lan]? = some l → l.freeTask = some slot →
       ∃ t k, s.spawnOne x = (t, taskId x.lan slot (tget 0 l.gens slot)) ∧
         t = { s with lanterns := t.lanterns, nextKey := s.nextKey + 1 } ∧
         t.lanterns[x.lan]? = some { l with
           tasks := l.tasks ++ [k], gens := tset 0 l.gens slot ((tget 0 l.gens slot + 1) % 16384) } ∧
         (∀ n, n ≠ x.lan → t.lanterns[n]? = s.lanterns[n]?) ∧
         k = { x.task with
           slot, gen := tget 0 l.gens slot, order := s.nextKey, since := s.dev.clk
           st := match x.task.st with | .pending c => if s.counter c = 0 then .ready else .pending c | st => st }) ∧
     (∀ (l : Lantern) (slot : Nat), l.freeTask = some slot →
       slot < Config.taskSlots ∧ (∀ k ∈ l.tasks, k.st ≠ .held → k.slot ≠ slot) ∧
       ∀ n, n < slot → ∃ k ∈ l.tasks, k.st ≠ .held ∧ k.slot = n)) ∧
  ((∀ (o : OpA) (s : State) (r : Run), let i := Instr.tdep o
       Issues s i r → s.ungranted r ((s.counterOps i r).map (fun x => (x.1, x.2.1))) = 0 →
       InOrder s i r o.d.toNat
         (inOrder (fun s (x : Nat × Nat × Nat) => (s.putCounter x.2.1 (BitVec.ofNat 16 x.2.2), (s.counter x.2.1).setWidth 64)) Prod.fst
           (s.counterOps i r) s) (exec i s)) ∧
     (∀ (o : OpA) (s : State) (r : Run), let i := Instr.tdec o
       let l := (s.counterOps i r).map (fun x => (x.1, x.2.1))
       Issues s i r → s.ungranted r l = 0 →
       let s1 := s.deviceRelease r
       ((s1.decAll o.d.toNat l).2.2 = none →
         InOrder s1 i r o.d.toNat
           (inOrder (fun s (x : Nat × Nat) => (s.putCounter x.2 (s.counter x.2 - 1), (s.counter x.2 - 1).setWidth 64)) Prod.fst l s1)
           (exec i s)) ∧
       (∀ k c w1, (s1.decAll o.d.toNat l).2.2 = some (k, c) → s1.wave? r.c.wid = some w1 → Catches w1 →
         ∃ b w0 t x, exec i s = .next t ∧ b = { (s1.decAll o.d.toNat l).1 with waves := b.waves } ∧ OtherWaves s1 b r.c.wid ∧
           b.wave? r.c.wid = some w0.passEntry ∧ WritesOnly { r with w := w1 } w0 [o.d.toNat] ∧
           Trapped b r.c.wid w0.passEntry r.c.lanes (fun _ => r.c.pc) x t ∧ x.tcause = 0x09 ∧ x.mask = 1#32 <<< k ∧
           x.pc = r.c.pc ∧ x.info = BitVec.ofNat 64 c)) ∧
     (∀ (s : State) (c : Nat) (v : BitVec 16), c / 4096 % 16 < s.lanterns.length →
       (s.putCounter c v).counter c = v ∧
       (∀ d, d % 65536 ≠ c % 65536 → (s.putCounter c v).counter d = s.counter d) ∧
       (v = 0 → (s.putCounter c v).bound c = []) ∧ (v ≠ 0 → (s.putCounter c v).bound c = s.bound c) ∧
       ∃ ls n, s.putCounter c v = { s with lanterns := ls, nextKey := n }) ∧
     (∀ (o : OpA) (s : State) (r : Run), let i := Instr.tdepWatch o
       let ops := s.watchOps o r
       Issues s i r → (s.watchLocs o r).1 = [] → (s.watchLocs o r).2.1 = [] →
       s.ungranted r (ops.map (fun x => (x.1, x.2.1))) = 0 →
       InOrder (s.touch r.w.ctx (ops.map (·.2.2.1))) i r o.d.toNat
         (inOrder (fun s (x : Nat × Nat × Word × Word) =>
             s.watchOne r.w.ctx x.2.1 ((aget? (s.watchLocs o r).2.2 x.1).getD (.mem 0)) x.2.2.2) Prod.fst ops
           (s.touch r.w.ctx (ops.map (·.2.2.1)))) (exec i s)) ∧
     (∀ (s : State) (ctx ctr pa : Nat) (settle : Word), ctr / 4096 % 16 < s.lanterns.length → settle = 0 →
       let v := s.version (.mem pa)
       let t := (s.watchOne ctx ctr (.mem pa) settle).1
       let n : Watch := { id := s.nextKey, ctx, tile := pa / 4096, ctr, settle }
       (s.watchOne ctx ctr (.mem pa) settle).2 = v ∧
       (v.getLsbD 62 = true → t = { s with nextKey := s.nextKey + 1 }) ∧
       (v.getLsbD 62 = false → v.getLsbD 63 = false → n ∈ t.watchesOn (pa / 4096)) ∧
       (v.getLsbD 62 = false → v.getLsbD 63 = true → s.bound ctr = [] → t = { s with nextKey := s.nextKey + 1 }))) ∧
  (∀ (s : State) (n : Nat) (l : Lantern), s.lanterns[n]? = some l →
     (s.dev.wheelAt ≠ s.dev.clk → exec (.timerWheelTick n) s = .next s) ∧
     (s.dev.wheelAt = s.dev.clk → (l.tasks.map (·.order)).Nodup → (∀ k ∈ l.tasks, k.order < s.nextKey) →
       ∃ (t : State) (l' : Lantern), exec (.timerWheelTick n) s = .next t ∧ t = { s with lanterns := t.lanterns, nextKey := t.nextKey } ∧
         t.lanterns[n]? = some l' ∧ (∀ m, m ≠ n → t.lanterns[m]? = s.lanterns[m]?) ∧
         l' = { l with tasks := l'.tasks } ∧ l'.tasks.length = l.tasks.length ∧
         ∀ (j : Nat) (k : Task), l.tasks[j]? = some k →
           ((∃ u, k.st = .timed u ∧ u ≤ s.dev.ptp) ∧ s.taskRuns k = true →
             ∃ x, s.nextKey ≤ x ∧ l'.tasks[j]? = some { k with st := .ready, order := x, since := s.dev.clk }) ∧
           (¬((∃ u, k.st = .timed u ∧ u ≤ s.dev.ptp) ∧ s.taskRuns k = true) → l'.tasks[j]? = some k)) ∧
     (∀ h core quad slot, s.headTask l = some h → s.placeFor n h.obj = some (core, quad) → s.freeSlot h.ctx = some slot →
       let wid := widOf h.ctx slot
       let ks := l.gather h
       s.wave? wid = none → s.slotsLeft h.ctx ≠ 0 →
       ∃ t w tasks, exec (.taskDispatch n) s = .next t ∧ t = { s with
           waves := t.waves, wgs := t.wgs, gangs := t.gangs, launches := t.launches, lanterns := t.lanterns, nextKey := t.nextKey } ∧
         OtherWaves s t wid ∧ t.wave? wid = some w ∧ w.kind = .task ∧ w.ctx = h.ctx ∧ w.slot = slot ∧ w.core = core ∧ w.quad = quad ∧
         w.trapbase = h.obj.trapStart ∧ w.threads.length = 32 ∧
         (∀ j k, ks[j]? = some k → (w.thread j).present = true ∧ (w.thread j).exited = false ∧
           (w.thread j).pc = h.obj.at ((h.obj.entry.getD 0 none).getD 0) ∧
           w.reg 0 j = k.arg ∧ w.reg 1 j = BitVec.ofNat 64 (taskId n k.slot k.gen) ∧ w.reg 2 j = k.ver) ∧
         (∀ j, ks.length ≤ j → (w.thread j).present = false) ∧
         (∀ m, m ≠ n → t.lanterns[m]? = s.lanterns[m]?) ∧
         t.lanterns[n]? = some { l with
           starving := l.starving.filter (fun o => !ks.any (fun y => y.order == o)), tasks := tasks } ∧
         tasks = l.tasks.map (fun k => match ks.findIdx? (fun x => x.order == k.order) with
           | some j => { k with st := .running wid j }
           | none => k)) ∧
     (∀ h, s.headTask l = some h → h ∈ l.tasks ∧ h.st = .ready ∧ h.prio < 24 ∧
       (∀ k ∈ l.tasks, k.st = .ready → s.taskRuns k = true → h.prio ≤ k.prio ∧ (k.prio = h.prio → h.order ≤ k.order)) ∧
       (l.gather h).length ≤ 32 ∧
       ∀ k ∈ l.gather h, k ∈ l.tasks ∧ k.st = .ready ∧ k.ctx = h.ctx ∧ k.entry = h.entry ∧ k.prio = h.prio) ∧
     (∀ h, s.headTask l = some h → ∃ t, exec (.taskHeadStarvation n) s = .next t ∧
       t = { s with lanterns := t.lanterns } ∧ (∀ m, m ≠ n → t.lanterns[m]? = s.lanterns[m]?) ∧
       t.lanterns[n]? = some { l with
         starving := if s.starved l = false ∧ h.since + Config.ticks400us ≤ s.dev.clk then some h.order else l.starving }) ∧
     (∀ k slot, (sortTasks (s.heldOn l)).head? = some k → l.freeTask = some slot →
       ∃ t, exec (.heldInstanceAdmit n) s = .next t ∧ t = { s with lanterns := t.lanterns, nextKey := s.nextKey + 1 } ∧
         (∀ m, m ≠ n → t.lanterns[m]? = s.lanterns[m]?) ∧
         t.lanterns[n]? = some { l with
           tasks := l.tasks.filter (fun x => x.order != k.order) ++
             [{ k with st := .ready, order := s.nextKey, since := s.dev.clk, slot, gen := tget 0 l.gens slot }]
           gens := tset 0 l.gens slot ((tget 0 l.gens slot + 1) % 16384) }) ∧
     (∀ inst x pa, s.settling.find? (fun x => x.id == inst) = some x → s.settled x = true → x.word ≠ 0 →
       s.agentLoc x.ctx accAtomic [0, 4] 8 8 x.word = .ok (.mem pa) → Plain s pa 8 →
       ∃ t, exec (.settleDecrement inst) s = .next t ∧ MemoryTo s t pa (toBytes 8 ((leNat (s.readPa pa 8) + 2 ^ 64 - 1) % 2 ^ 64)) ∧
         t = { s with mem := t.mem, bad := t.bad, keyed := t.keyed, settling := s.settling.filter (fun y => y.id != inst) }))

/-- R272, R323, R324, R325: HREAD holds in a Mitten entry the held value that its handle names, or 0, and changes of the
records only when they were read, where they lie, and whether what came back from the spill area is still known; HREL releases the records that its handles name; a main record whose count is 0 is released,
the vertex records of one cluster together. -/
def Obligations.HeldRecords : Prop :=
  (∀ (o : OpA) (s : State) (r : Run), let i := Instr.hread o
    let reg := (groupAt o.sb 1).headD 0
    Issues s i r → r.ex ≠ 0 → (∀ l k c, r.ex.getLsbD l = true → s.handleRec r.w (operand s r i l 0) = some (k, c) → c.poisonOf reg = none) →
    ∃ b t, exec i s = .next t ∧ b = { s with recs := b.recs } ∧
      Held b i r r.w [o.d.toNat] (fun l v fl => v = [s.hreadVal r.w l reg (operand s r i l 0)] ∧ fl = 0) t ∧
      ∀ k c, aget? s.recs k = some c → ∃ c', aget? b.recs k = some c' ∧
        c' = { c with lastRead := c'.lastRead, spilled := c'.spilled, spoiled := c'.spoiled }) ∧
  (∀ (s : State) (w : Wave) (t reg : Nat) (h : Word),
    (s.handleRec w h = none → s.hreadVal w t reg h = 0) ∧
    ∀ k c, s.handleRec w h = some (k, c) →
      ((∀ e ∈ (s.obj w).hold, ¬(e.reg = reg ∧ e.vis = true ∧ e.rate = c.rate)) → s.hreadVal w t reg h = 0) ∧
      ((∃ e ∈ (s.obj w).hold, e.reg = reg ∧ e.vis = true ∧ e.rate = c.rate) → c.spoiled = false → reg ∈ c.regs →
        (c.spilled = none ∨ ∀ x, s.ctx? c.ctx = some x → x.spoilt = false) →
        s.hreadVal w t reg h = tget 0 c.vals reg)) ∧
  (∀ (o : OpA) (s : State) (r : Run), let i := Instr.hrel o
    let named := fun k => ∃ l, r.ex.getLsbD l = true ∧ (s.handleRec r.w (operand s r i l 0)).map Prod.fst = some k
    Issues s i r → ∃ b t w', exec i s = .next t ∧ GoesOn b i r r.w t w' ∧ b = { s with recs := b.recs, ctxs := b.ctxs } ∧
      (∀ k, named k → aget? b.recs k = none) ∧ ∀ k, ¬named k → aget? b.recs k = aget? s.recs k) ∧
  (∀ (s : State) (k : Nat) (r : HeldRec), (s.recs.map Prod.fst).Nodup → aget? s.recs k = some r → s.recFree r = true →
    ∃ t, exec (.heldRecordRelease k) s = .next t ∧ t = { s with recs := t.recs, ctxs := t.ctxs } ∧
      ∀ j x, aget? s.recs j = some x → aget? t.recs j =
        if j = k ∨ (r.rate = 4 ∧ x.rate = 4 ∧ x.isRay = r.isRay ∧ x.draw = r.draw ∧ x.el.obj = r.el.obj ∧ x.el.cls = r.el.cls) then
          none else some x)

/-- R270, R326, R327, R331, R333, R334: INTERP weighs its triangle's held values by the thread's evaluation point, or takes
the provoking vertex's where the weights vanish; ECULL marks its threads' elements as culled. BOXT gives the word of its
node's four boxes, TRIT the hit of its triangle, or infinity and 0; TEX loads its descriptor and its texels, and rounds
each channel's weighted sum once; the results of these three wait in a Mitten entry. -/
def Obligations.ElementsAndTextures : Prop :=
  (∀ (o : OpA) (s : State) (r : Run),
     (let i := Instr.interp o
      let reg := (groupAt o.sa 1).headD 0
      s.interpPoison r reg = [] → Computes s i r o.d.toNat o.ty.width o.ty.nsub (fun l j =>
        match s.triOf r.w l with
        | none => (0, 0)
        | some (d, tri, px, py) =>
          let e := (r.w.thread l).el
          let val := fun v => sub (s.vertexVal r.w.draw d e.obj e.cls v reg).1 j o.ty.width
          if ((tri.weights px py).foldl Q.add (Q.ofInt 0)).isZero then
            (((fmtOfTy o.ty).write rne ((fmtOfTy o.ty).value (val tri.provoking))).1, 0)
          else interpVal (fmtOfTy o.ty) (rndOf o.mod) (tri.weights px py) (tri.v.map val))) ∧
     (let i := Instr.ecull o
      Issues s i r → ∃ b t w0 w', exec i s = .next t ∧ b = { s with waves := b.waves } ∧ OtherWaves s b r.c.wid ∧
        GoesOn b i r w0 t w' ∧ w0 = { r.w with threads := w0.threads } ∧
        ∀ l, l < r.w.threads.length → w0.thread l = { r.w.thread l with
          culled := (r.w.thread l).culled || r.ex.getLsbD l })) ∧
  ((∀ (o : OpA) (s : State) (r : Run), let i := Instr.boxt o
       ReadsFloats s i r 128 24 [o.d.toNat] (fun l v => [boxResult (rayOf (s.groupVals r.w i l (groupAt o.sa 4))) v])) ∧
     (∀ (o : OpX) (s : State) (r : Run), let i := Instr.trit o
       let d := o.a.d.toNat
       ReadsFloats s i r 16 9 [d, d + 1] (fun l v =>
         match trit (field o.w1 63 62) (rayOf (s.groupVals r.w i l (groupAt o.a.sa 4))) v with
         | some h => [BitVec.ofNat 64 (packSubs 32 [h.t, h.u]), BitVec.ofNat 64 (packSubs 32 [h.v, 1])]
         | none => [0x7F800000, 0])) ∧
     (∀ (o : OpX) (s : State) (r : Run), let i := Instr.tex o
       let a := s.addrs i r (fun v => v.getD 2 0)
       let s1 := s.touch r.w.ctx (a.map Prod.snd)
       ∀ descs locs, Issues s i r → r.ex ≠ 0 → Reaches s i r accLoad [0, 1, 2, 4] 32 32 (fun v => v.getD 2 0) descs →
       let bytes := fun (u : State) (l : Nat) (ea : Word) (loc : Loc) (n : Nat) =>
         u.pieceBytes i r { lane := l, ea, loc, size := n }
       let lanes := descs.map (fun l => texLane o (s.srcVals r.w i l.1) l.1 (bytes s1 l.1 ((aget? a l.1).getD 0) l.2 32))
       let loads := lanes.flatMap TexLane.loads
       let s2 := s1.touch r.w.ctx (loads.map (·.2.1))
       s1.resolveAll r.w accLoad [0, 4] 4 4 (loads.map (fun x => (x.1, x.2.1))) = ([], locs) →
       let read := fun (l : Nat) => ((loads.zip locs).filter (fun x => x.1.1 == l)).map (fun x =>
         (x.1.2.2.2, x.1.2.2.1.channels (bytes s2 l x.1.2.1 x.2.2 x.1.2.2.1.texel)))
       let res := fun (x : TexLane) => if x.desc.isNone then (texZero o.a.ty o.a.d.toNat, x.flags)
         else let y := texResult o.a.ty o.a.d.toNat (read x.lane)
           (y.1, x.flags ||| y.2)
       (∀ x ∈ lanes, r.w.trapping (res x).2 = 0) →
       ∃ b t, exec i s = .next t ∧ ReadsOnly s b ∧
         Held b i r r.w (groupAt (.reg o.a.d) (if o.a.ty == .f16x4 then 1 else 2)) (fun l v fl =>
           ∃ x ∈ lanes, x.lane = l ∧ v = (res x).1.map Prod.snd ∧ fl = (res x).2) t))

/-- R328: RSPAWN numbers its threads' rays on from the draw's count after the wave's earlier stores, which it releases, and
holds the numbers in a Mitten entry; rays of a lantern start in their order, up to 32 as one wave. -/
def Obligations.Rays : Prop :=
  (∀ (o : OpA) (s : State) (r : Run) (d : DrawUnit) (w1 : Wave), let i := Instr.rspawn o
    let s1 := s.deviceRelease r
    let num := fun l => d.rayCount + ((lanesOf r.ex).filter (fun k => decide (k < l))).length
    Issues s i r → r.ex ≠ 0 → s.draw? r.w.draw = some d → s1.wave? r.c.wid = some w1 → (d.obj.entry.getD 7 none).isSome = true →
    d.rayCount + (lanesOf r.ex).length ≤ 2 ^ 31 →
    ∃ b t, exec i s = .next t ∧ Tagged b i r w1 o.d.toNat (fun l v => v = BitVec.ofNat 64 (num l)) t ∧
      b = { s1 with draws := b.draws } ∧ (∀ k, k ≠ r.w.draw → b.draw? k = s1.draw? k) ∧
      b.draw? r.w.draw = (s1.draw? r.w.draw).map (fun d => { d with
        rayCount := d.rayCount + (lanesOf r.ex).length
        rays := d.rays ++ (lanesOf r.ex).map (fun l =>
          { lantern := r.w.core / 24, num := num l, eptr := operand s r i l 0 }) })) ∧
  (∀ (s b : State) (u lan g : Nat) (d : DrawUnit), s.runningDraw? u = some d → d.gone = false →
    let l := (d.rays.filter (fun x => x.lantern == lan)).take 32
    let start := l.map (fun x => ({ el := { ray := x.num }, elem := x.num, eptr := x.eptr } : Started))
    l ≠ [] → s.startGroup u d lan 7 start = some (b, g) →
    OneWave s u d lan 7 start b ∧
    ∃ t, exec (.rayStart u lan) s = .next t ∧ t = { b with draws := t.draws } ∧ (∀ k, k ≠ u → t.draw? k = s.draw? k) ∧
      t.draw? u = some { d with rays := d.rays.filter (fun x => !l.contains x) })

/-- R279, R281, R282, R335, R336: A fragment's turn begins once every fragment before it at its pixel has ended its turn;
PIXLK takes the lock, PIXUL gives it back, ends the turn and releases, and PXOUT puts its threads' samples into the wave's
FIFO and ends the turn of those without the lock. When a PXOUT is sent, its lanes perform their depth tests and blends in
lane order. -/
def Obligations.Pixels : Prop :=
  (∀ (s : State) (wid lane : Nat) (w : Wave) (d : DrawUnit) (f : Frag), s.wave? wid = some w → s.draw? w.draw = some d →
    s.fragOf w wid lane = some f → lane < 32 → f.turn = 0 →
    (s.turnCame w.draw d f = false → exec (.fragmentTurnBegin wid lane) s = .next s) ∧
    (s.turnCame w.draw d f = true → ∃ t, exec (.fragmentTurnBegin wid lane) s = .next t ∧
      FragsTo s w wid (1#32 <<< lane) (fun g => { g with turn := 1 }) t)) ∧
  (∀ (o : OpA) (s : State) (r : Run), let i := Instr.pixlk o
    let q := r.without (s.turnless r)
    Issues s i r → (∀ l, r.ex.getLsbD l = true → ∃ f, s.fragOf r.w r.c.wid l = some f ∧ f.lock = false ∧ f.turn ≠ 2) →
    ∃ b t w', exec i s = .next t ∧ GoesOn b i q r.w t w' ∧ FragsTo s r.w r.c.wid q.ex (fun f => { f with lock := true }) b) ∧
  (∀ (o : OpA) (s : State) (r : Run) (w1 : Wave), let i := Instr.pixul o
    let s1 := (s.drainWave r.c.wid).releaseAs r.w 3
    Issues s i r → (∀ l, r.ex.getLsbD l = true → ∃ f, s.fragOf r.w r.c.wid l = some f ∧ f.lock = true) →
    s1.wave? r.c.wid = some w1 →
    ∃ b t w', exec i s = .next t ∧ GoesOn b i r w1 t w' ∧
      FragsTo s1 r.w r.c.wid r.ex (fun f => { f with lock := false, turn := 2 }) b) ∧
  (∀ (o : OpA) (s : State) (r : Run) (d : DrawUnit) (cs ds : List (Nat × Loc)), let i := Instr.pxout o
    let q := r.without (s.turnless r)
    let fs := (lanesOf q.ex).filterMap (fun l => (s.fragOf r.w r.c.wid l).map (fun f => (l, f)))
    let n := colourBytes d.cfmt
    let colours := fs.map (fun x => (x.1, d.colourAt x.2))
    let depths := if d.depth = 0 then [] else fs.map (fun x => (x.1, d.depthAt x.2))
    Issues s i r → s.draw? r.w.draw = some d → (∀ l, r.ex.getLsbD l = true → ∃ f, s.fragOf r.w r.c.wid l = some f ∧ f.turn ≠ 2) →
    s.resolveAll r.w accStore [0, 4] n n colours = ([], cs) → s.resolveAll r.w accStore [0, 4] 4 4 depths = ([], ds) →
    ∃ b b' t w' e, exec i s = .next t ∧ GoesOn b' i q (r.w.withEntry e) t w' ∧ OfIssue e i q r.w ∧ e.inFifo = true ∧
      FragsTo (s.touch r.w.ctx ((colours ++ depths).map Prod.snd)) r.w r.c.wid q.ex
        (fun f => if f.lock then f else { f with turn := 2 }) b ∧
      b' = { b with waves := b'.waves } ∧ OtherWaves b b' r.c.wid ∧ e.loc = cs ++ depthKeys ds ∧
      ∀ x ∈ fs, aget? e.vals x.1 = some (s.groupVals r.w i x.1 (groupAt o.sa 2) ++ [x.2.z.setWidth 64])) ∧
  (∀ (s p : State) (wid : Nat) (w : Wave) (e : Entry) (o : OpA) (d : DrawUnit), s.wave? wid = some w → w.frozen = false →
    w.mitten.find? Entry.inFifo = some e → e.ins = .pxout o → s.sendable w e = true → s.draw? w.draw = some d →
    (lanesOf e.exec).foldl (fun (a : Option State) l => a.bind (fun a => match aget? e.loc l with
      | none => some a
      | some x => match a.blendSample w d e l x with
        | .ok b => some (b.push w.core 3)
        | .error _ => none)) (some s) = some p →
    let t := s.drainOne wid
    t = { p with waves := t.waves, tagrecs := t.tagrecs } ∧ OtherWaves p t wid ∧
      t.wave? wid = some { w with mitten := w.mitten.map (fun x => if x.seq = e.seq then { x with st := .sent, cls := .t } else x) }) ∧
  (∀ (s : State) (w : Wave) (d : DrawUnit) (e : Entry) (l pc pz : Nat), Plain s pc (colourBytes d.cfmt) →
    let v := (aget? e.vals l).getD []
    let ch := fun (g k : Nat) => fmtF32.value (sub (v.getD g 0) k 32)
    let z := (v.getD 2 0).toNat
    let bytes := blendBytes d.cfmt d.blend [ch 0 0, ch 0 1, ch 1 0, ch 1 1] (readColour d.cfmt (s.readPa pc (colourBytes d.cfmt)))
    let memoryOnly := fun (a b : State) => b = { a with mem := b.mem, bad := b.bad, keyed := b.keyed, hidden := b.hidden, btags := b.btags }
    (aget? e.loc (l + 32) = none → ∃ t, s.blendSample w d e l (.mem pc) = .ok t ∧ memoryOnly s t ∧ MemoryTo s t pc bytes) ∧
    (aget? e.loc (l + 32) = some (.mem pz) → Plain s pz 4 →
      (depthPasses d.depth (fmtF32.value z) (fmtF32.value (leNat (s.readPa pz 4))) = false →
        s.blendSample w d e l (.mem pc) = .ok s) ∧
      (depthPasses d.depth (fmtF32.value z) (fmtF32.value (leNat (s.readPa pz 4))) = true →
        ∃ u t, s.blendSample w d e l (.mem pc) = .ok t ∧ memoryOnly s u ∧ MemoryTo s u pc bytes ∧ memoryOnly u t ∧
          MemoryTo u t pz (toBytes 4 z))))

/-- R260, R261, R262, R263: The elements of a draw start in their order, each with its held records, once what comes before
them is done and they have room: the frame element, at its frame's first draw of the code object, the objects, the clusters
of an object as one wave of up to 32, and a cluster's vertices together. -/
def Obligations.DrawElements : Prop := ∀ (s : State) (u : Nat) (d : DrawUnit), s.runningDraw? u = some d → d.gone = false →
  (∀ s1 s2 g, s.framePhase d = 0 → s.firstOfFrame d = true →
    let lan := s.objLantern d.ctx 0
    let start : List Started := [{ el := {}, elem := 0, eptr := d.recAddr }]
    (s.startGroup u d lan 1 start).isSome = true → s.reserveLines d lan 1 (d.obj.linesOf 1) = (s1, true) →
    s1.startGroup u d lan 1 start = some (s2, g) →
    OneWave s1 u d lan 1 start s2 ∧
    ∃ t, exec (.frameElementStart u) s = .next t ∧
      t = { s2.newRecs u d 1 lan {} 0 with ctxs := t.ctxs } ∧ (∀ k, k ≠ d.ctx → t.ctx? k = s2.ctx? k) ∧
      ∀ c f, s2.ctx? d.ctx = some c → c.frame = some f → f.id = d.frame →
        ∃ c' f', t.ctx? d.ctx = some c' ∧ c'.frame = some f' ∧
          f' = { f with elements := f.elements ++ [(d.obj.base, d.firstPhase 1)] }) ∧
  (∀ s1 s2 g clist n, s.framePhase d = 2 → d.objs.length < d.nobj →
    let k := d.objs.length
    let lan := s.objLantern d.ctx k
    let at_ := addrAdd d.objlist (BitVec.ofNat 64 (32 * k))
    let start : List Started := [{ el := { obj := k }, elem := k, eptr := at_ }]
    d.lanternMade lan = true → s.earlierMade u d.ctx lan = true → (s.startGroup u d lan 2 start).isSome = true →
    s.reserveLines d lan 2 (d.obj.linesOf 2) = (s1, true) → s1.startGroup u d lan 2 start = some (s2, g) →
    (s2.newRecs u d 2 lan { obj := k } k).readObject d at_ = .ok (clist, n) →
    OneWave s1 u d lan 2 start s2 ∧
    ∃ t, exec (.objectCreate u) s = .next t ∧ t = { s2.newRecs u d 2 lan { obj := k } k with draws := t.draws } ∧
      (∀ j, j ≠ u → t.draw? j = s2.draw? j) ∧
      t.draw? u = (s2.draw? u).map (fun d => { d with
        objs := d.objs ++ [{ idx := k, lantern := lan, addr := at_, phase := d.firstPhase 2, clist, ncls := n }] })) ∧
  (∀ o s2 g, d.obj? o.idx = some o → o.phase = 2 → o.culled = false → o.clusters.length < o.ncls →
    (s.groupPlace o.lantern d.obj 1).isSome = true →
    let p := s.addClusters u d o 32 o.clusters.length
    let start := p.2.map (fun c => ({ el := { obj := o.idx, cls := c.idx }, elem := c.idx, eptr := c.addr } : Started))
    p.2 ≠ [] → p.1.startGroup u d o.lantern 3 start = some (s2, g) →
    OneWave p.1 u d o.lantern 3 start s2 ∧
    ∃ t, exec (.clusterCreate u o.idx) s = .next t ∧ t = { s2 with draws := t.draws } ∧
      (∀ j, j ≠ u → t.draw? j = s2.draw? j) ∧
      ∀ d2 o2, s2.draw? u = some d2 → d2.obj? o.idx = some o2 → (t.draw? u).bind (fun e => e.obj? o.idx) =
        some { o2 with clusters := o2.clusters ++ p.2.map (fun c => { c with wg := g }) }) ∧
  (∀ i c s2 g, d.find i c.idx = some c → c.phase = 2 → c.culled = false →
    let start := (List.range c.vcount).map (fun v =>
      ({ el := { obj := i, cls := c.idx, vtx := v }, elem := v, eptr := addrAdd c.vptr (BitVec.ofNat 64 (v * c.vstride)) } : Started))
    s.startGroup u d c.lantern 4 start = some (s2, g) →
    (0 < c.vcount → c.vcount ≤ 32 → OneWave s u d c.lantern 4 start s2) ∧
    ∃ t, exec (.vertexCreate u i c.idx) s = .next t ∧ t = { s2 with draws := t.draws } ∧
      (∀ j, j ≠ u → t.draw? j = s2.draw? j) ∧
      (t.draw? u).bind (fun e => e.find i c.idx) =
        some { c with phase := 3, vtxLeft := if (d.obj.entry.getD 4 none).isSome then c.vcount else 0 })

/-- R264, R268, R277, R278: Set-up of a cluster keeps its triangles, coarse elements and fragments; then its sample threads
start, each wave from one block; where no line can be had, cause 0x0B is raised in the control wave. -/
def Obligations.SetUpAndExhaustion : Prop :=
  (∀ (s : State) (u i : Nat) (d : DrawUnit) (c : Cluster), s.runningDraw? u = some d → d.gone = false → d.find i c.idx = some c →
    (∀ ix, c.phase = 3 → c.vtxLeft = 0 → s.allBefore u d i c.idx (fun _ _ c => c.setUp) = true → s.readIndices d c = .ok ix →
      let tris := s.setTriangles u d i c ix
      ∃ t c' d', exec (.triangleSetup u i c.idx) s = .next t ∧ t = { s with draws := t.draws } ∧
        (∀ j, j ≠ u → t.draw? j = s.draw? j) ∧ t.draw? u = some d' ∧ d'.find i c.idx = some c' ∧
        c' = { c with phase := 4, tris, coarse := c'.coarse } ∧
        c'.coarse = (if (d.obj.entry.getD 5 none).isSome then
          tris.flatMap (fun x => x.coarseOf d.coarse (x.samples d.width d.height d.spp)) else []) ∧
        d'.frags = d.frags ++ (if (d.obj.entry.getD 6 none).isSome then
          tris.flatMap (fun x => x.frags u d i c.idx (x.samples d.width d.height d.spp)) else [])) ∧
    (∀ f l s2, c.phase = 4 →
      s.allBefore u d i c.idx (fun e k c => c.setUp && (e.fragsOf k c.idx).all (·.started)) = true →
      d.nextFrags i c = f :: l → s.startFrags u d i c (f :: l) = some s2 →
      exec (.triangleSetup u i c.idx) s = .next s2 ∧
      ∃ b g, s.startGroup u d (s.blockLantern d.ctx (blockOf f.px f.py)) 6 ((f :: l).map (fun g => ({
          el := { obj := i, cls := c.idx, vtx := c.provoking g.tri, tri := g.tri, cx := g.px / 2 ^ d.coarse
                  cy := g.py / 2 ^ d.coarse, px := g.px, py := g.py, smp := g.smp }
          elem := (g.py * d.width + g.px) * 2 ^ d.spp + g.smp } : Started))) = some (b, g) ∧
        s2 = { b with draws := s2.draws } ∧ (∀ j, j ≠ u → s2.draw? j = b.draw? j))) ∧
  (∀ (s : State) (ctx wid : Nat) (f : Nat × Nat × Nat) (c : Ctx) (w : Wave), s.ctx? ctx = some c → c.holdFault = some f →
    s.controlWave ctx = some (wid, w) → s.wave? wid = some w → w.frozen = false → Catches w →
    ∃ b t0 t x, exec (.holdStorageExhausted ctx) s = .next t ∧ b = { s with ctxs := b.ctxs } ∧
      b.ctx? ctx = some { c with holdFault := none, holdStalled := true } ∧ (∀ k, k ≠ ctx → b.ctx? k = s.ctx? k) ∧
      Trapped b wid w 0 (fun l => (w.thread l).pc) x t0 ∧ t = { t0 with freeCtr := t.freeCtr } ∧ x.tcause = 0x0B ∧
      x.info = holdInfo f) ∧
  (∀ (s : State) (ctx : Nat), (s.ctx? ctx).bind (fun c => c.holdFault) = none → exec (.holdStorageExhausted ctx) s = .next s)

/-- R229, R283, R314: Once all of a launch, a draw or a closed frame is done, what its cores have written is released, its
records go, and its completion actions are performed: the word is stored, then the counter falls by one. -/
def Obligations.Completions : Prop :=
  (∀ (s : State) (u : Nat) (l : Launch), s.reap.launch? u = some l → s.reap.launchDone u l = true →
    let b := { s.reap with launches := adel s.reap.launches u }.releaseCores l.cores
    Completable b l.ctx l.compl → ∃ t, exec (.launchCompletion u) s = .next t ∧ Completed b l.ctx l.compl t) ∧
  (∀ (s : State) (u : Nat) (d : DrawUnit), s.reap.draw? u = some d → s.reap.drawDone u d = true →
    let p := fun (_ : Nat) (r : HeldRec) => r.draw == u && r.rate != 1 && !(r.isRay && r.frameScope)
    let b := ((s.reap.releaseCores d.cores).dropRecs d.ctx p).modDraw u (fun d => { d with gone := true, objs := [], frags := [] })
    Completable b d.ctx d.compl → ∃ t, exec (.drawCompletion u) s = .next t ∧ Completed b d.ctx d.compl t) ∧
  (∀ (s : State) (ctx : Nat) (f : Frame), s.frameDue ctx = some f →
    ∃ b t, exec (.frameCompletion ctx) s = .next t ∧ b = { s with recs := b.recs, draws := b.draws, ctxs := b.ctxs } ∧
      b.recs = s.recs.filter (fun e => e.2.frame != f.id) ∧
      b.draws = s.draws.filter (fun e => !(e.2.ctx == ctx && e.2.frame == f.id)) ∧
      (∀ c, s.ctx? ctx = some c → ∃ c', b.ctx? ctx = some c' ∧ c'.closing = c.closing.filter (fun x => x.id != f.id)) ∧
      (f.word = 0 → t = b) ∧
      ∀ pa, f.word ≠ 0 → b.agentLoc ctx accStore [0, 3, 4] 8 8 f.word = .ok (.mem pa) → Plain b pa 8 →
        t = { b with mem := t.mem, bad := t.bad, keyed := t.keyed, btags := t.btags } ∧ MemoryTo b t pa (toBytes 8 f.draws)) ∧
  (∀ (s : State) (ctx : Nat) (p : Nat → HeldRec → Bool),
    (s.dropRecs ctx p).recs = s.recs.filter (fun e => !p e.1 e.2) ∧
    s.dropRecs ctx p = { s with recs := (s.dropRecs ctx p).recs, ctxs := (s.dropRecs ctx p).ctxs }) ∧
  (∀ (s : State) (cores : List Nat), let b := s.releaseCores cores
    b = { s with hidden := b.hidden, ctxs := b.ctxs } ∧
    b.hidden = s.hidden.filter (fun h => cores.all (fun c => !h.seenBy c)) ∧
    ∀ ctx j, s.journal? ctx = some j → b.journal? ctx = some { j with
      recs := j.recs.map (fun r => if cores.contains r.core then { r with rel := true } else r) })

/-- R273, R363, R364, R370, R372, R377: SYSR gives each executing thread the value of its register, sys.fflags with the flags
that have landed; sys.ptroot is closed to
waves without privilege, cause 0x02. Each SYSW writes its register and nothing else; a register of the wave takes the
highest executing thread's value, one of the context the lowest's where it obeys the register's rule; a register that the
wave may not write is cause 0x02. -/
def Obligations.SystemRegisters : Prop :=
  (∀ (o : OpI) (s : State) (r : Run), let i := Instr.sysr o
     ((o.imm.toNat = 0x058 → s.isPriv r.w = true) → Gives s i r o.d.toNat (fun l => s.sysReg
       (if o.imm.toNat = 0x018 then r.w.landFlags (fun x => decide (x.1 ≤ s.dev.clk)) else r.w) l o.imm.toNat)) ∧
     (Issues s i r → o.imm.toNat = 0x058 → s.isPriv r.w = false → r.ex ≠ 0 → Catches r.w → TrapsAt s i r 0x02 r.ex) ∧
     (∀ (w : Wave) (l : Nat), s.sysReg w l 0x000 = BitVec.ofNat 64 l ∧ s.sysReg w l 0x002 = BitVec.ofNat 64 w.idx ∧
       s.sysReg w l 0x006 = (w.thread l).elem ∧ s.sysReg w l 0x007 = (w.thread l).eptr ∧
       s.sysReg w l 0x011 = BitVec.ofNat 64 s.dev.ptp ∧ s.sysReg w l 0x018 = w.fflags ∧ s.sysReg w l 0x019 = (w.thread l).lsp ∧
       s.sysReg w l 0x040 = w.trapbase ∧ s.sysReg w l 0x080 = w.trap.tcause ∧ s.sysReg w l 0x081 = w.trap.tmask ∧
       s.sysReg w l 0x082 = w.trap.tpc ∧ s.sysReg w l 0x083 = w.trap.taddr ∧ s.sysReg w l 0x084 = w.trap.tinfo ∧
       s.sysReg w l 0x085 = w.trap.tfrom ∧ s.sysReg w l 0x086 = w.trap.tword0 ∧ s.sysReg w l 0x087 = w.trap.tword1 ∧
       s.sysReg w l 0x088 = (w.thread l).tepc ∧ s.sysReg w l 0x089 = (w.thread l).tcond ∧
       s.sysReg w l 0x08A = (if w.trap.inHandler then 1 else 0) ∧
       s.sysReg w l 0x010 = BitVec.ofNat 64 (if (s.obj w).det then w.retired else s.dev.clk) ∧
       ∀ c, s.ctx? w.ctx = some c → s.sysReg w l 0x048 = c.holdquota ∧ s.sysReg w l 0x049 = c.spillbase ∧
         s.sysReg w l 0x04A = c.spillsize ∧ s.sysReg w l 0x051 = c.ctxctl ∧ s.sysReg w l 0x058 = c.ptroot ∧
         s.sysReg w l 0x090 = c.fqbase ∧ s.sysReg w l 0x091 = c.fqctl ∧ s.sysReg w l 0x092 = c.fqhead ∧
         s.sysReg w l 0x093 = c.fqtail ∧ s.sysReg w l 0x094 = c.fqlost)) ∧
  (∀ (o : OpI) (s : State) (r : Run) (n : Nat), o.imm.toNat = n → r.ex ≠ 0 →
     let last := ((lanesOf r.ex).getLast?).getD 0
     (let i := Instr.sysw o
      let v := operand s r i r.low 0
      let x := fun l => operand s r i l 0
      Issues s i r →
      (n = 0x019 → SetsThreads s i r (fun l th => { th with lsp := x l })) ∧
      (n = 0x088 → SetsThreads s i r (fun l th => { th with tepc := x l })) ∧
      (n = 0x089 → SetsThreads s i r (fun l th => { th with tcond := x l &&& 0xF })) ∧
      (n = 0x08B → SetsThreads s i r (fun l th => { th with tscratch0 := x l })) ∧
      (n = 0x08C → SetsThreads s i r (fun l th => { th with tscratch1 := x l })) ∧
      (n = 0x08D → SetsThreads s i r (fun l th => { th with tscratch2 := x l })) ∧
      (n = 0x08E → SetsThreads s i r (fun l th => { th with tscratch3 := x l })) ∧
      (n = 0x093 → SetsCtx s i r (fun c => { c with fqtail := v })) ∧
      (n = 0x051 → s.isPriv r.w = true → v.toNat ≤ 1 → SetsCtx s i r (fun c => { c with ctxctl := v })) ∧
      (s.mayWrite r.w n = false → Catches r.w → TrapsAt s i r 0x02 r.ex)) ∧
     (let i := Instr.syswHoldquota o
      let v := operand s r i r.low 0
      Issues s i r → n = 0x048 → s.isPriv r.w = true → v.toNat + s.linesReserved r.w.ctx ≤ 2 ^ 16 →
      SetsCtx s i r (fun c => { c with holdquota := v })) ∧
     (let i := Instr.syswSpillbase o
      let v := operand s r i r.low 0
      Issues s i r → n = 0x049 → s.isControl r.w = true → s.spillEnd r.w.ctx = 0 → spaceOf v = 0 → v.toNat % 64 = 0 →
      SetsCtx s i r (fun c => { c with spillbase := v })) ∧
     (let i := Instr.syswSpillsize o
      let v := operand s r i r.low 0
      Issues s i r → n = 0x04A → s.isControl r.w = true → v.toNat < 2 ^ 40 → v.toNat % 64 = 0 → s.spillEnd r.w.ctx ≤ v.toNat →
      SetsCtx s i r (fun c => { c with
        spillsize := v, holdStalled := c.holdStalled && decide (v.toNat ≤ c.spillsize.toNat) })) ∧
     (let i := Instr.syswFqbase o
      let v := operand s r i r.low 0
      Issues s i r → n = 0x090 → s.isControl r.w = true → s.queueEmpty r.w.ctx = true → spaceOf v = 0 → v.toNat % 4096 = 0 →
      SetsCtx s i r (fun c => { c with fqbase := v })) ∧
     (let i := Instr.syswFqctl o
      let v := operand s r i r.low 0
      Issues s i r → n = 0x091 → s.isControl r.w = true → s.queueEmpty r.w.ctx = true → v &&& 0xFFFFFFFF7000FFF0 = 0 →
      v.toNat % 16 ≤ 12 → SetsCtx s i r (fun c => { c with fqctl := v })) ∧
     (let i := Instr.syswTrapbase o
      Issues s i r → n = 0x040 → s.isPriv r.w = true → SetsWave s i r { r.w with trapbase := operand s r i last 0 }) ∧
     (let i := Instr.syswPtroot o
      let v := operand s r i r.low 0
      Issues s i r → n = 0x058 → s.isPriv r.w = true → v.toNat % 4096 = 0 → v.toNat < 2 ^ 52 →
      SetsCtx s i r (fun c => { c with ptroot := v })) ∧
     (let i := Instr.syswFflags o
      Issues s i r → n = 0x018 → ∃ p : Nat × Lanes × FFlags → Bool,
        (∀ x, x.1 < s.dev.clk → p x = true) ∧ (∀ x, s.dev.clk < x.1 → p x = false) ∧
        SetsWave s i r { r.w.landFlags p with fflags := operand s r i last 0 &&& fflagsMask }) ∧
     (∀ i ∈ [Instr.syswHoldquota o, .syswSpillbase o, .syswSpillsize o, .syswFqbase o, .syswFqctl o, .syswTrapbase o, .syswPtroot o],
       Issues s i r → s.mayWrite r.w n = false → Catches r.w → TrapsAt s i r 0x02 r.ex))

/-- R245, R352, R364, R365: A TLBI releases its wave's stores, performs the earlier accesses of the contexts that it names and
drops their translations,
with the instruction-cache lines filled through them; tlbi.asid and tlbi.all make written roots take effect; prio.xchg and
prio.set give levels and answer their status; a core takes new levels when it switches. -/
def Obligations.TranslationAndPriorities : Prop :=
  (∀ (o : OpA) (s : State) (r : Run), r.ex ≠ 0 →
    (let i := Instr.tlbiVa o
     let a := operand s r i r.low 0
     let k := (operand s r i r.low 1).toNat
     let s0 := s.deviceRelease r
     let s1 := (s0.waves.filter (fun e => e.1 == r.c.wid || (e.2.ctx == k && !e.2.frozen))).foldl (fun s e => s.drainWave e.1) s0
     ∀ w1, Issues s i r → k < 64 → (spaceOf a = 0 ∨ spaceOf a = 4 ∨ spaceOf a = 5) → s.asidOutside r.w k = false →
     s1.wave? r.c.wid = some w1 →
     ∃ b t w', exec i s = .next t ∧ GoesOn b i r w1 t w' ∧ b = { s1 with tlb := b.tlb, icache := b.icache } ∧
       (∀ x, x ∈ b.tlb ↔ x ∈ s1.tlb ∧ ¬(x.asid = k ∧ x.va ≤ vaOf a ∧ vaOf a < x.va + x.size)) ∧
       ∀ l ∈ b.icache, l ∈ s1.icache ∧
         ∀ x ∈ s1.tlb, x.asid = k → x.va ≤ vaOf a → vaOf a < x.va + x.size → l.asid = k → ¬(x.va ≤ l.va ∧ l.va < x.va + x.size)) ∧
    (let i := Instr.tlbiAsid o
     let k := (operand s r i r.low 0).toNat
     let s0 := s.deviceRelease r
     let s1 := (s0.waves.filter (fun e => e.1 == r.c.wid || (e.2.ctx == k && !e.2.frozen))).foldl (fun s e => s.drainWave e.1) s0
     ∀ w1, Issues s i r → k < 64 → s.asidOutside r.w k = false → s1.wave? r.c.wid = some w1 →
     ∃ b t w', exec i s = .next t ∧ GoesOn b i r w1 t w' ∧ b = { s1 with tlb := b.tlb, icache := b.icache, ctxs := b.ctxs } ∧
       (∀ x, x ∈ b.tlb ↔ x ∈ s1.tlb ∧ x.asid ≠ k) ∧ (∀ j, j ≠ k → b.ctx? j = s1.ctx? j) ∧
       b.ctx? k = (s1.ctx? k).map (fun c => { c with walkroot := c.ptroot })) ∧
    (let i := Instr.tlbiAll o
     let cs := s.tlbiCtxs r none
     let s0 := s.deviceRelease r
     let s1 := (s0.waves.filter (fun e => e.1 == r.c.wid || (cs.contains e.2.ctx && !e.2.frozen))).foldl
       (fun s e => s.drainWave e.1) s0
     ∀ w1, Issues s i r → s1.wave? r.c.wid = some w1 →
     ∃ b t w', exec i s = .next t ∧ GoesOn b i r w1 t w' ∧ b = { s1 with tlb := b.tlb, icache := b.icache, ctxs := b.ctxs } ∧
       (∀ x, x ∈ b.tlb ↔ x ∈ s1.tlb ∧ tlbiHits i s r x = false) ∧
       ∀ k c, s1.ctx? k = some c → b.ctx? k = some (if k ∈ cs then { c with walkroot := c.ptroot } else c))) ∧
  (∀ (o : OpA) (s : State) (r : Run), r.ex ≠ 0 →
    let level := fun (k : Nat) => ((s.ctx? k).map (·.level)).getD 0
    (let i := Instr.prioXchg o
     let x := (operand s r i r.low 0).toNat % 64
     let y := (operand s r i r.low 1).toNat % 64
     let st := s.prioStatus r.w [x, y]
     Issues s i r →
     (st ≠ 0 → ∃ t, exec i s = .next t ∧ Tagged s i r r.w o.d.toNat (fun _ v => v = BitVec.ofNat 64 st) t) ∧
     (st = 0 → ∃ b t, exec i s = .next t ∧ Tagged b i r r.w o.d.toNat (fun _ v => v = 0) t ∧
       b = { s with ctxs := b.ctxs, oldLevels := b.oldLevels } ∧
       ∀ k c, s.ctx? k = some c → b.ctx? k = some { c with
         level := if k = x then level y else if k = y then level x else c.level })) ∧
    (let i := Instr.prioSet o
     let x := (operand s r i r.low 0).toNat % 64
     let n := (operand s r i r.low 1).toNat % 256
     let st := if s.prioStatus r.w [x] ≠ 0 then s.prioStatus r.w [x] else if n < 4 ∨ 23 < n then 3 else 0
     Issues s i r →
     (st ≠ 0 → ∃ t, exec i s = .next t ∧ Tagged s i r r.w o.d.toNat (fun _ v => v = BitVec.ofNat 64 st) t) ∧
     (st = 0 → ∃ b t, exec i s = .next t ∧ Tagged b i r r.w o.d.toNat (fun _ v => v = 0) t ∧
       b = { s with ctxs := b.ctxs, oldLevels := b.oldLevels } ∧
       ∀ k c, s.ctx? k = some c → b.ctx? k = some { c with level := if k = x then n else c.level }))) ∧
  (∀ (s : State) (w : Wave) (l : List Nat),
    ((∃ k ∈ l, s.ctx? k = none) → s.prioStatus w l = 1) ∧
    ((∀ k ∈ l, s.ctx? k ≠ none) → (∃ k ∈ l, k = 0 ∨ (w.ctx ≠ 0 ∧ s.partOfCtx k ≠ s.partOfCtx w.ctx)) → s.prioStatus w l = 2) ∧
    ((∀ k ∈ l, s.ctx? k ≠ none) → (∀ k ∈ l, k ≠ 0 ∧ (w.ctx = 0 ∨ s.partOfCtx k = s.partOfCtx w.ctx)) → s.prioStatus w l = 0)) ∧
  (∀ (s : State) (core : Nat), ∃ t, exec (.prioCoreSwitch core) s = .next t ∧ t = { s with oldLevels := t.oldLevels } ∧
    ∀ k, tget 0 t.oldLevels k = if k / 64 = core then 0 else tget 0 s.oldLevels k)

/-- R34, R232, R233, R234, R235, R236, R237, R238, R241, R246, R247, R399: Aging lowers a waiting launch's level number by
one, a launch that has waited 400 µs becomes blocking, an overdue group takes its place; the first candidate that fits is
admitted, each member on its core with its prologue allotment; a gang that is done retires with its allotments wiped. A
victim of ACQ is frozen into its context's pre-emption area and will return to its queue; a failing core on which nothing
runs is replaced by the lowest spare of its lantern, or its place is lost; a forecast is written, power control commits to
a clock for the window that begins 4 µs later, and the clock keeps what it has committed to: 1.2 GHz under DET. -/
def Obligations.WorkAdmission : Prop :=
  ((∀ (s : State) (u : Nat) (l : Launch), s.launch? u = some l →
       (s.agingDue l = false → exec (.launchAging u) s = .next s) ∧
       (s.agingDue l = true → ∃ t, exec (.launchAging u) s = .next t ∧ t = { s with launches := t.launches } ∧
         t.launch? u = some { l with aged := l.aged + 1 } ∧ ∀ k, k ≠ u → t.launch? k = s.launch? k) ∧
       (s.blockingDue l = false → exec (.launchBlocking u) s = .next s) ∧
       (s.blockingDue l = true → ∃ t, exec (.launchBlocking u) s = .next t ∧ t = { s with launches := t.launches } ∧
         t.launch? u = some { l with blockingAt := some s.dev.clk } ∧ ∀ k, k ≠ u → t.launch? k = s.launch? k)) ∧
     (∀ (s : State) (wid lane : Nat) (w : Wave), s.wave? wid = some w →
       (s.overdueDue w lane = false → exec (.overdueGroup wid lane) s = .next s) ∧
       (s.overdueDue w lane = true → ∃ t, exec (.overdueGroup wid lane) s = .next t ∧
         t = { s with waves := t.waves } ∧ OtherWaves s t wid ∧
         t.wave? wid = some { w with overdue := tset 0 w.overdue lane (tget 0 w.readySince lane + 64) })) ∧
     (∀ (s : State) (part u : Nat) (l : Launch) (pre post : List (Nat × Launch)) (cores : List Nat),
       s.candidates part = pre ++ (u, l) :: post → (∀ e ∈ pre, s.tryLaunch part e.1 e.2 = none) → s.launch? u = some l →
       l.returned = [] → s.detMay u l l.nextGang = true → l.newWaves ≤ s.slotsLeft l.ctx →
       (s.openLanterns part).findSome? (fun lan => s.placeOn lan (newMembers l)) = some cores →
       (∀ e ∈ s.gangs, e.1 < s.nextKey) → (∀ e ∈ s.wgs, e.1 < s.nextKey) →
       ∃ t a l', exec (.gangAdmission part) s = .next t ∧ t.gang? s.nextKey = some a ∧ a.ctx = l.ctx ∧ a.launch = u ∧
         a.idx = l.nextGang ∧ a.st = .admitted ∧ a.members = (List.range l.gsize).map (fun m => s.nextKey + 1 + m) ∧
         (∀ m, m < l.gsize → ∃ g, t.wg? (s.nextKey + 1 + m) = some g ∧ g.core = cores.getD m 0 ∧ g.gang = s.nextKey ∧
           g.member = m ∧ g.size = l.wgsize ∧ g.nwave = (l.wgsize + 31) / 32 ∧ g.stage = l.stages.getD m 0 ∧
           g.full = decide (l.obj.prologue = l.obj.full)) ∧
         t.launch? u = some l' ∧ l'.nextGang = l.nextGang + 1 ∧ l'.since = s.dev.clk ∧ l'.waitSince = s.dev.clk ∧ l'.aged = 0 ∧
         l'.blockingAt = none ∧ SameMemory s t) ∧
     (∀ (s : State) (gk : Nat) (a : Gang), s.gang? gk = some a →
       (s.retireDue a = false → exec (.gangRetire gk) s = .next s) ∧
       (s.retireDue a = true → (∀ f ∈ s.freezes, f.2.gang ≠ some gk) → ∃ t, exec (.gangRetire gk) s = .next t ∧
         (∀ k v, t.wave? k = some v → v.wg ∈ a.members → v.regs = [] ∧ v.tags = [] ∧ v.poison = [] ∧ v.acc = [] ∧ v.palm = []) ∧
         (∀ k g, t.wg? k = some g → k ∈ a.members → g.spad = [] ∧ g.bars = [] ∧ g.convs = [] ∧ g.finished = true) ∧
         ∀ b, t.gang? gk = some b → b.st = .retired))) ∧
  ((∀ (s : State) (core gk : Nat) (a : Gang) (c : Ctx), s.acqVictim core = some (gk, a) → s.ctx? a.ctx = some c →
       s.freezeOf a.ctx (some gk) = none →
       exec (.acqPreemption core) s = .next { s with
         freezes := s.freezes ++ [(s.nextKey,
           { ctx := a.ctx, gang := some gk, area := c.parea, deadline := s.dev.ptp + 1000 * c.deadlineUs, requeue := true })]
         nextKey := s.nextKey + 1 }) ∧
     (∀ (s : State) (core : Nat) (l : Lantern), s.lanterns[core / 24]? = some l → s.gangsOn core = [] →
       (s.activeCore core = true ∨ core % 24 ∈ l.failing) →
       ∃ t l', exec (.coreSparing core) s = .next t ∧ t.lanterns[core / 24]? = some l' ∧
         (∀ n, n ≠ core / 24 → t.lanterns[n]? = s.lanterns[n]?) ∧ core % 24 ∉ l'.failing ∧ l'.spares = l.spares.drop 1 ∧
         (∀ p, p ≠ core % 24 → aget? l'.ring p = aget? l.ring p) ∧ aget? l'.ring (core % 24) = l.spares.head? ∧
         t = { s with lanterns := t.lanterns, dev := { s.dev with telemetry := t.dev.telemetry }, out := t.out } ∧
         (l.spares ≠ [] → t.dev = s.dev ∧ t.out = s.out)) ∧
     (∀ (s : State) (n : Nat) (p : Partition), s.parts[n]? = some p →
       ∃ t, exec (.forecastUpdate n) s = .next t ∧ t = { s with parts := t.parts, dev := t.dev, freeCtr := t.freeCtr } ∧
         (∀ m, m ≠ n → t.parts[m]? = s.parts[m]?) ∧
         t.parts[n]? = some { p with
           forecast := s.forecastOf n p.used, used := 0
           floors := p.floors.filter (fun x => decide (s.dev.clk < x.1 + Config.ticks1us)) ++
             [(s.dev.clk + 4 * Config.ticks1us, s.commitment (s.forecastOf n p.used))] } ∧
         t.dev = { s.dev with clockMHz := t.dev.clockMHz, throttled := false } ∧ (s.detRuns = true → t.dev.clockMHz = 1200) ∧
         (s.detRuns = false → s.dev.clockMHz ≤ t.dev.clockMHz ∧
           ∀ x ∈ s.parts, ∀ f ∈ x.floors, f.1 ≤ s.dev.clk → s.dev.clk < f.1 + Config.ticks1us → f.2 ≤ t.dev.clockMHz)))

/-- R380, R381, R382, R395, R396, R397, R418, R419: FRZ and THAW answer their status; FRZ stops its whole issue group while
the freeze runs, and gives a status to its executing threads; a freeze stops the unit's gangs, its save stands whole in the save area with STATUS 1, a unit that is late is destroyed, and a restore lets the unit go on. -/
def Obligations.Freezes : Prop :=
  (∀ (o : OpA) (s : State) (r : Run), let i := Instr.frz o
    let st := s.frzStatus r.w (operand s r i r.low 0) (operand s r i r.low 1) (operand s r i r.low 2)
    Issues s i r → r.ex ≠ 0 →
    (st.1 ≠ 0x100 → ∃ t, exec i s = .next t ∧ Answers s i r r.w o.d.toNat (fun _ => BitVec.ofNat 64 st.1) t) ∧
    (st.1 = 0x100 → ∀ c, let k := unitCtx (operand s r i r.low 0)
      s.ctx? k = some c → s.freezeOf k st.2 = none → ∃ b t, exec i s = .next t ∧
        StopsEach b i { r with ex := r.c.lanes } r.w
          (fun l => .freeze s.nextKey (if r.ex.getLsbD l then o.d.toNat else 256)) t ∧
        b = { s with freezes := s.freezes ++ [(s.nextKey, { ctx := k, gang := st.2, area := (operand s r i r.low 1).toNat
                                                            deadline := s.dev.ptp + 1000 * c.deadlineUs })]
                     nextKey := s.nextKey + 1, ctxs := b.ctxs } ∧
        (∀ j, j ≠ k → b.ctx? j = s.ctx? j) ∧
        b.ctx? k = some (if st.2 = none then { c with st := .freezing } else c))) ∧
  (∀ (s : State) (w : Wave) (a b c : Word), let k := unitCtx a
    (unitReserved a = true ∨ s.ctx? k = none → (s.frzStatus w a b c).1 = 2) ∧
    (unitReserved a = false → s.ctx? k ≠ none → unitGang a = false →
      (s.unitOutside w k = true → (s.frzStatus w a b c).1 = 3) ∧
      (s.unitOutside w k = false → k = w.ctx → (s.frzStatus w a b c).1 = 4) ∧
      (s.unitOutside w k = false → k ≠ w.ctx → s.areaBad w b = true → (s.frzStatus w a b c).1 = 5) ∧
      (s.unitOutside w k = false → k ≠ w.ctx → s.areaBad w b = false → s.freezeOf k none = none →
        (s.frzStatus w a b c).1 = 0x100))) ∧
  (∀ (o : OpA) (s : State) (r : Run), let i := Instr.thaw o
    let a := operand s r i r.low 0
    let pa := operand s r i r.low 1
    let p := s.thawUnit (unitCtx a) (unitGang a) pa.toNat (s.unitOutside r.w (unitCtx a)) (s.areaBad r.w pa)
    Issues s i r → r.ex ≠ 0 →
    (unitReserved a = true → ∃ t, exec i s = .next t ∧ Answers s i r r.w o.d.toNat (fun _ => 2) t) ∧
    (unitReserved a = false → ∀ w1, p.1.wave? r.c.wid = some w1 →
      ∃ t, exec i s = .next t ∧ Answers p.1 i r w1 o.d.toNat (fun _ => BitVec.ofNat 64 p.2) t)) ∧
  (∀ (s : State) (k pa : Nat) (gang out bad : Bool),
    (s.ctx? k = none → s.thawUnit k gang pa out bad = (s, 2)) ∧
    (s.ctx? k ≠ none → out = true → s.thawUnit k gang pa out bad = (s, 3)) ∧
    (s.ctx? k ≠ none → out = false → bad = true → s.thawUnit k gang pa out bad = (s, 5)) ∧
    (s.ctx? k ≠ none → s.freezeOf k none = none → s.thawUnit k false pa false false = (s, 2))) ∧
  (∀ (s : State) (k : Nat) (f : Freeze), aget? s.freezes k = some f → f.phase = 0 →
    ∃ t f', exec (.freezeStop k) s = .next t ∧ aget? t.freezes k = some f' ∧
      (∀ e ∈ s.unitRunning f, s.turnEnded e.1 e.2 = true → e.1 ∈ f'.gangs ∧
        ∃ a, t.gang? e.1 = some a ∧ a.st = .frozen) ∧
      (s.unitRunning f = [] → f'.phase = 1 ∧ f'.frozenAt = s.dev.ptp)) ∧
  (∀ (s : State) (k : Nat) (f : Freeze), aget? s.freezes k = some f →
    (f.phase ≠ 1 ∨ s.saveReady f = false → exec (.saveComplete k) s = .next s) ∧
    (f.phase = 1 → s.saveReady f = true → f.requeue = false → ∃ t f', exec (.saveComplete k) s = .next t ∧
      t.mem = (s.writePa f.area (s.saveBytes f 1)).mem ∧ aget? t.freezes k = some f' ∧ f'.phase = 2 ∧ f'.answer = [] ∧
      (∀ g a, g ∈ f.gangs → s.gang? g = some a → ∃ a', t.gang? g = some a' ∧ a'.st = .saved) ∧
      ∀ c, f.gang = none → s.ctx? f.ctx = some c → ∃ c', t.ctx? f.ctx = some c' ∧ c'.st = .frozen f.area)) ∧
  (∀ (s : State) (k : Nat) (f : Freeze), aget? s.freezes k = some f →
    (1 < f.phase ∨ s.dev.ptp < f.deadline → exec (.freezeDeadline k) s = .next s) ∧
    (f.phase ≤ 1 → f.deadline ≤ s.dev.ptp → s.ctx? f.ctx ≠ none → ∃ t, exec (.freezeDeadline k) s = .next t ∧
      t.ctx? f.ctx = none ∧ (∀ e ∈ t.waves, e.2.ctx ≠ f.ctx) ∧ (∀ e ∈ t.gangs, e.2.ctx ≠ f.ctx) ∧
      (∀ e ∈ t.launches, e.2.ctx ≠ f.ctx) ∧ (∀ e ∈ t.tlb, e.asid ≠ f.ctx) ∧ ∀ e ∈ t.freezes, e.2.ctx ≠ f.ctx)) ∧
  (∀ (s : State) (k : Nat) (f : Freeze), aget? s.freezes k = some f →
    (f.phase ≠ 3 → exec (.restore k) s = .next s) ∧
    (f.phase = 3 → f.gang = none → (∀ g a, s.gang? g = some a → a.st ≠ .saved) →
      ∃ t, exec (.restore k) s = .next t ∧ aget? t.freezes k = none ∧
        ∀ c, s.ctx? f.ctx = some c → ∃ c', t.ctx? f.ctx = some c' ∧ c'.st = .running) ∧
    (∀ g t, f.phase = 3 → f.gang = some g → f.gangs = [g] → (∀ c, s.ctx? f.ctx = some c → c.st = .running) →
      (∃ a, s.gang? g = some a ∧ a.st = .saved ∧ s.isTaskGang a = false) → s.placeSaved g = some t →
      (s.gangs.map Prod.fst).Nodup → exec (.restore k) s = .next t ∧ ∃ a, t.gang? g = some a ∧ a.st = .frozen))

/-- R401, R402, R403, R420: JRNL writes the next record of its context's journal into the shadow, answers its INDEX and sends
it to the partner; a context without a journal, or whose partner is lost, is cause 0x15. -/
def Obligations.JournalWrites : Prop := ∀ (o : OpA) (s : State) (r : Run), r.ex ≠ 0 →
  (let i := Instr.jrnl o
   let a := operand s r i r.low 0
   let b := operand s r i r.low 1
   let p := operand s r i r.low 2
   let len := b.toNat / 256 % 256
   let n := (len + 7) / 8
   let s1 := s.touch r.w.ctx ((List.range n).map (fun k => addrAdd p (BitVec.ofNat 64 (8 * k))))
   ∀ (j : Journal) (locs : Nat → Loc), Issues s i r → s.journal? r.w.ctx = some j → j.lost = false → len ≤ 40 → kindReserved (b.toNat % 256) = false →
   (∀ k, k < n → s.resolve r.w accLoad [0, 1, 2, 4] 8 8 (addrAdd p (BitVec.ofNat 64 (8 * k))) (freeAt 300 r.low) = .ok (locs k) ∧
     s.badLoc (locs k) 8 = false) →
   s.partOfNode j.partner = none →
   let payload := ((List.range n).flatMap (fun k =>
     (s.loadBytes r.w r.low (locs k) 8 (s.viewOf r.w i (addrAdd p (BitVec.ofNat 64 (8 * k))))).getD [])).take len
   ∃ (u t : State) (e : Entry) (x : JRec), exec i s = .next t ∧
     Answers u i r (r.w.withEntry e) o.d.toNat (fun _ => BitVec.ofNat 64 j.next) { t with out := s.out, ctxs := u.ctxs } ∧
     u = { s1 with waves := u.waves, mem := u.mem, bad := u.bad, keyed := u.keyed, hidden := u.hidden, ctxs := u.ctxs } ∧ OtherWaves s u r.c.wid ∧
     u.mem = (s.writePa (j.shadow + j.offset j.next) x.bytes).mem ∧
     OfIssue e i r r.w ∧ e.st = .sent ∧ e.record = some j.next ∧
     x.idx = j.next ∧ x.seq = a.toNat % 2 ^ 32 ∧ x.step = a.toNat / 2 ^ 32 ∧ x.kind = b.toNat % 256 ∧ x.core = r.w.core ∧
     x.bytes = recordBytes j.next (a.toNat % 2 ^ 32) (a.toNat / 2 ^ 32) (b.toNat % 256) r.w.ctx payload ∧
     u.journal? r.w.ctx = some { j with next := j.next + 1, recs := j.recs ++ [x] } ∧
     (∀ k, k ≠ r.w.ctx → t.ctx? k = s.ctx? k) ∧
     t.out = s.out ++ [.journal j.partner (j.pbase + j.offset j.next) x.bytes]) ∧
  (let i := Instr.jrnl o; Issues s i r →
    (s.journal? r.w.ctx = none ∨ ∃ j, s.journal? r.w.ctx = some j ∧ j.lost = true) → Catches r.w → TrapsAt s i r 0x15 r.ex)

/-- R407, R422, R423: An EMIT that nothing holds stores its word after the wave's earlier stores, and goes on; one whose
sequence has a record that the partner has not acknowledged waits; one whose partner is lost is cause 0x15, deferred; JPART answers its status, or takes the new partner and
sends the live records again. -/
def Obligations.EmitAndPartner : Prop := ∀ (o : OpA) (s : State) (r : Run), r.ex ≠ 0 →
  (let i := Instr.emit o
   let a := operand s r i r.low 1
   let irq := o.mod.getLsbD 0
   ∀ loc, Issues s i r → s.resolveAll r.w accStore [0, 3, 4] 8 8 [(r.low, a)] = ([], [(r.low, loc)]) →
   (irq = true → ∃ c, s.ctx? r.w.ctx = some c ∧ (operand s r i r.low 0).toNat / 2 ^ 32 % 4096 ∈ c.nodes) →
   (∀ e ∈ r.w.mitten, ∀ q, e.ins ≠ .emit q) →
   (∀ j, s.journal? r.w.ctx = some j → j.lost = false →
     j.allows r.w.core ((operand s r i r.low 0).toNat % 2 ^ 32) j.next true = false →
     ∃ (b t : State) (e : Entry), exec i s = .next t ∧ StopsAt b i r (r.w.withEntry e) .emit t ∧ b = { s with waves := b.waves, tlb := b.tlb } ∧
       OtherWaves s b r.c.wid ∧ OfIssue e i r r.w ∧ e.st = .issued ∧ e.record = some j.next) ∧
   (∀ pa, s.journal? r.w.ctx = none → (∀ n, (s.touch r.w.ctx [a]).resolve r.w accStore [0, 3, 4] 8 8 a n = .ok (.mem pa)) →
     Plain s pa 8 → irq = false → r.w.frozen = false → (∀ e ∈ r.w.mitten, e.inFifo = false) →
     ∃ (t : State) (v : Wave), exec i s = .next t ∧ MemoryTo s t pa (toBytes 8 (operand s r i r.low 2).toNat) ∧
       t.wave? r.c.wid = some v ∧ OtherWaves s t r.c.wid ∧ t = { s with
         mem := t.mem, bad := t.bad, keyed := t.keyed, hidden := t.hidden, btags := t.btags, waves := t.waves, gangs := t.gangs
         tlb := t.tlb, ctxs := t.ctxs, tagrecs := t.tagrecs, parts := t.parts, cur := none, issued := t.issued, freeCtr := t.freeCtr } ∧
       (∃ e ∈ v.mitten, e.seq = r.w.seqNext ∧ e.ins = i ∧ e.st = .sent) ∧
       v.regs = r.w.regs ∧ v.tags = r.w.tags ∧ v.fflags = r.w.fflags ∧
       ∀ l, r.ex.getLsbD l = true → (v.thread l).pc = nextPc i r ∧ (v.thread l).wait = .none)) ∧
  (let i := Instr.emit o; Issues s i r → (∃ j, s.journal? r.w.ctx = some j ∧ j.lost = true) → Catches r.w →
    TrapsAt s i r 0x115 r.ex) ∧
  (let i := Instr.jpart o
   let st := s.jpartStatus r.w (o.mod.getLsbD 0) (operand s r i r.low 0).toNat (operand s r i r.low 1).toNat
   Issues s i r →
   (∀ n, st.1 = some n → ∃ t, exec i s = .next t ∧ Answers s i r r.w o.d.toNat (fun _ => BitVec.ofNat 64 n) t) ∧
   (∀ j, st.1 = none → s.journal? r.w.ctx = some j → (∃ x ∈ j.recs, x.live = true ∧ x.idx < j.next) →
     s.partOfNode st.2.1 = none → (∀ w ∈ s.waves, w.2.ctx = r.w.ctx → w.1 = r.c.wid) → (∀ e ∈ r.w.mitten, ∀ q, e.ins ≠ .emit q) →
     (∀ l, ∀ d u sb, (r.w.thread l).wait ≠ .jpart d u sb) →
     ∃ (t : State) (j' : Journal) (v : Wave), exec i s = .next t ∧ t.journal? r.w.ctx = some j' ∧ j'.partner = st.2.1 ∧ j'.pbase = st.2.2 ∧ j'.lost = false ∧
       j'.next = j.next ∧ (j'.recs.map (·.idx) = (j.recs.filter (·.live)).map (·.idx)) ∧
       (∀ x ∈ j'.recs, x.acked = false ∧ x.sent = true) ∧ t.wave? r.c.wid = some v ∧
       (∀ l, r.ex.getLsbD l = true → (v.thread l).wait = .jpart o.d.toNat j.next (o.mod.getLsbD 0)) ∧
       t.out = s.out ++ (j.recs.filter (·.live)).map (fun x => .journal st.2.1 (st.2.2 + j.offset x.idx) x.bytes))) ∧
  (∀ (w : Wave) (stby : Bool) (node pbase : Nat) (c : Ctx) (j : Journal), s.ctx? w.ctx = some c →
    (c.journal = none → (s.jpartStatus w stby node pbase).1 = some 1) ∧
    (c.journal = some j → stby = true → j.standby = none → (s.jpartStatus w stby node pbase).1 = some 1) ∧
    (c.journal = some j → stby = false →
      (node ∉ c.nodes → (s.jpartStatus w stby node pbase).1 = some 2) ∧
      (node ∈ c.nodes → pbase % 4096 ≠ 0 → (s.jpartStatus w stby node pbase).1 = some 3) ∧
      (node ∈ c.nodes → pbase % 4096 = 0 → s.jpartStatus w stby node pbase = (none, node, pbase))))

/-- R404, R421: JTRUNC writes a TRUNC record, truncates the live records of its sequence below its base and the earlier TRUNC
records, and answers the record's INDEX; it waits while every slot of the region holds a record that is kept, and without
a journal, or with a lost partner, it is cause 0x15. -/
def Obligations.TruncRecords : Prop := ∀ (o : OpA) (s : State) (r : Run), r.ex ≠ 0 →
  (let i := Instr.jtrunc o
   let a := operand s r i r.low 0
   ∀ j, Issues s i r → s.journal? r.w.ctx = some j → j.lost = false → s.partOfNode j.partner = none →
   ∃ (u t : State) (e : Entry) (x : JRec), exec i s = .next t ∧
     Answers u i r (r.w.withEntry e) o.d.toNat (fun _ => BitVec.ofNat 64 j.next) { t with out := s.out, ctxs := u.ctxs } ∧
     u = { s with waves := u.waves, mem := u.mem, bad := u.bad, keyed := u.keyed, ctxs := u.ctxs } ∧ OtherWaves s u r.c.wid ∧
     u.mem = (s.writePa (j.shadow + j.offset j.next) x.bytes).mem ∧
     OfIssue e i r r.w ∧ e.st = .sent ∧ e.record = some j.next ∧
     x.idx = j.next ∧ x.seq = a.toNat % 2 ^ 32 ∧ x.step = a.toNat / 2 ^ 32 ∧ x.kind = 6 ∧
     x.bytes = recordBytes j.next (a.toNat % 2 ^ 32) (a.toNat / 2 ^ 32) 6 r.w.ctx (toBytes 4 (a.toNat / 2 ^ 32)) ∧
     u.journal? r.w.ctx = some (({ j with next := j.next + 1, recs := j.recs ++ [x] } : Journal).truncate j.next
       (a.toNat % 2 ^ 32) (a.toNat / 2 ^ 32)) ∧
     (∀ y ∈ (({ j with next := j.next + 1, recs := j.recs ++ [x] } : Journal).truncate j.next (a.toNat % 2 ^ 32) (a.toNat / 2 ^ 32)).recs,
       y.live = true → y.idx ≠ j.next → y.seq = a.toNat % 2 ^ 32 → a.toNat / 2 ^ 32 ≤ y.step ∧ y.kind ≠ 6) ∧
     (∀ k, k ≠ r.w.ctx → t.ctx? k = s.ctx? k) ∧
     t.out = s.out ++ [.journal j.partner (j.pbase + j.offset j.next) x.bytes]) ∧
  (let i := Instr.jtrunc o
   Issues s i r → (s.journal? r.w.ctx = none ∨ ∃ j, s.journal? r.w.ctx = some j ∧ j.lost = true) → Catches r.w →
   TrapsAt s i r 0x15 r.ex) ∧
  (let i := Instr.jtrunc o
   s.run? i = some r → s.decodeCheck r.c r.w i = none → journalWait s r = true → exec i s = .next { s with cur := none })

/-- R181, R186, R404, R405, R406, R433, R437, R444: A record that arrives is written into its window's slot, unless the slot
holds a higher INDEX, and is acknowledged; an acknowledgement of the partner marks its record; a partner that is silent is
lost. An access through an inbound window reads, writes or changes memory and answers; a posted write and an RDMA WRITE
write all their bytes in order, the immediate after them; what no window serves is refused. -/
def Obligations.FabricEvents : Prop :=
  ((∀ (s : State) (q : JournalFlit) (p k : Nat) (v : Win), s.partOfNode q.endpoint = some p → q.record.length = 64 →
       let fits := fun (v : Win) => v.ctx.isNone && v.part == p && v.nodes.contains q.source && decide (v.nbase ≤ q.naddr) &&
         decide (q.naddr + 64 ≤ v.nbase + v.len) && (q.naddr - v.nbase) % 64 == 0
       let idx := leNat (q.record.take 8)
       let slot := (q.naddr - v.nbase) / 64
       (s.windows.findIdx? fits = none → ∃ t, exec (.journalRecordArrival q) s = .next t ∧
         t = { s with ctxs := t.ctxs, out := s.out ++ [.refusal q.source] }) ∧
       (s.windows.findIdx? fits = some k → s.windows[k]? = some v → s.served q.naddr ≠ none →
         (idx + 1 < tget 0 v.high slot → ∃ t, exec (.journalRecordArrival q) s = .next t ∧
           t = { s with ctxs := t.ctxs, out := s.out ++ [.journalAck q.source idx] }) ∧
         (tget 0 v.high slot ≤ idx + 1 → q.naddr % 65536 + 64 ≤ 65536 → ∃ t, exec (.journalRecordArrival q) s = .next t ∧
           MemoryTo s t q.naddr q.record ∧ t = { s with
             mem := t.mem, bad := t.bad, keyed := t.keyed, windows := t.windows, ctxs := t.ctxs, out := s.out ++ [.journalAck q.source idx] } ∧
           t.windows[k]? = some { v with high := tset 0 v.high slot (idx + 1) }))) ∧
     (∀ (s : State) (ctx index node : Nat) (j : Journal), s.journal? ctx = some j →
       (j.lost = true ∨ j.partner ≠ node ∨ (∀ x ∈ j.recs, ¬(x.idx = index ∧ x.sent = true)) →
         exec (.journalAck ctx index node) s = .next (s.hear node)) ∧
       (j.lost = false → j.partner = node → (∃ x ∈ j.recs, x.idx = index ∧ x.sent = true) →
         (∀ e ∈ s.waves, e.2.ctx ≠ ctx) → ∃ t j', exec (.journalAck ctx index node) s = .next t ∧
           t = { s with ctxs := t.ctxs, freeCtr := t.freeCtr } ∧ t.journal? ctx = some j' ∧
           (∀ x ∈ j'.recs, x.idx = index → x.acked = true) ∧
           ∀ x ∈ j.recs, x.idx ≠ index → (x.live = true ∨ x.acked = false) → x ∈ j'.recs)) ∧
     (∀ (s : State) (ctx : Nat) (j : Journal), s.journal? ctx = some j →
       (s.silent j = false → exec (.partnerLost ctx) s = .next s) ∧
       (s.silent j = true → (∀ e ∈ s.waves, e.2.ctx ≠ ctx) → ∃ t, exec (.partnerLost ctx) s = .next t ∧
         t = { s with ctxs := t.ctxs, freeCtr := t.freeCtr } ∧ t.journal? ctx = some { j with lost := true }))) ∧
  ((∀ (s : State) (q : FabricReq) (p pa : Nat), s.portBusy false q.source = false → s.partOfNode q.endpoint = some p →
       let s1 := s.hear q.source
       let need := kindNeeds q.kind
       let n := q.size
       let old := leNat (s.readPa pa n)
       let m := 2 ^ (8 * n)
       (s1.inbound p q.source q.naddr n need.1 need.2 = none →
         exec (.remoteAccess q) s = .next { s1 with out := s.out ++ [.refusal q.source] }) ∧
       (s1.inbound p q.source q.naddr n need.1 need.2 = some pa → accessSize n q.naddr = true →
         kindFits q.kind n q.data.length = true → s1.badPa pa n = false → s1.inSaveArea pa = false →
         s1.inboundSpill p q.source q.naddr n need.1 need.2 = false →
         (q.kind = .read → exec (.remoteAccess q) s = .next { s1.useFree with out := s.out ++ [.read q.source (s.readPa pa n)] }) ∧
         (pa % 65536 + n ≤ 65536 →
           (q.kind = .write → ∃ t, exec (.remoteAccess q) s = .next t ∧ MemoryTo s1 t pa q.data ∧
             t = { s1 with mem := t.mem, bad := t.bad, keyed := t.keyed, hidden := t.hidden, freezes := t.freezes, freeCtr := t.freeCtr }) ∧
           (∀ op, q.kind = .atomic op → ∃ t, exec (.remoteAccess q) s = .next t ∧
             MemoryTo s1 t pa (toBytes n (atomFn op.toNat n old (leNat q.data % m))) ∧
             t = { s1 with mem := t.mem, bad := t.bad, keyed := t.keyed, hidden := t.hidden, freezes := t.freezes, freeCtr := t.freeCtr
                           out := s.out ++ [.read q.source (s.readPa pa n)] }) ∧
           (∀ c, q.kind = .compareSwap c → ∃ t, exec (.remoteAccess q) s = .next t ∧
             MemoryTo s1 t pa (toBytes n (if old = c.toNat % m then leNat q.data % m else old)) ∧
             t = { s1 with mem := t.mem, bad := t.bad, keyed := t.keyed, hidden := t.hidden, freezes := t.freezes, freeCtr := t.freeCtr
                           out := s.out ++ [.read q.source (s.readPa pa n)] })))) ∧
     (∀ (s : State) (q : FabricReq) (p : Nat), s.portBusy false q.source = false → s.partOfNode q.endpoint = some p →
       let s1 := s.hear q.source
       (192 < q.data.length ∨ s1.windowFor p q.source q.naddr q.data.length false true = none →
         exec (.postedWrite q) s = .next { s1 with out := s.out ++ [.refusal q.source] }) ∧
       (∀ v c t, q.data.length ≤ 192 → s1.windowFor p q.source q.naddr q.data.length false true = some v → v.ctx = some c →
         s1.inboundWrite c (v.vbase + (q.naddr - v.nbase)) q.data = some t → exec (.postedWrite q) s = .next t)) ∧
     (∀ (s : State) (q : RdmaReq) (imm : BitVec 32), s.portBusy true q.node = false →
       (s.rkeyWindow q = none → exec (.rdmaWrite q) s = .next (s.nak q.node) ∧
         exec (.rdmaWriteImmediate q imm) s = .next (s.nak q.node)) ∧
       (∀ v c, s.rkeyWindow q = some (v, c) →
         (∀ t, s.inboundWrite c (v.vbase + q.offset) q.data = some t → exec (.rdmaWrite q) s = .next t) ∧
         (∀ d t u, v.doorbell = some d → s.inboundWrite c (v.vbase + q.offset) q.data = some t →
           t.inboundWrite c (vaOf d) (toBytes 8 imm.toNat) = some u → exec (.rdmaWriteImmediate q imm) s = .next u))) ∧
     (∀ (s t : State) (ctx va : Nat) (bs : List Byte), s.inboundWrite ctx va bs = some t →
       t = { s with mem := t.mem, bad := t.bad, keyed := t.keyed, hidden := t.hidden, freezes := t.freezes, ctxs := t.ctxs } ∧
       ((∀ k, k < bs.length → s.inSpill ctx (va + k) = false) → t.ctxs = s.ctxs) ∧
       ((∃ k, k < bs.length ∧ s.inSpill ctx (va + k) = true) → t.ctx? ctx = (s.ctx? ctx).map (fun c => { c with spoilt := true })) ∧
       ∃ pas : List Nat, s.inboundBytes ctx va bs.length = some pas ∧ pas.length = bs.length ∧
         (∀ k, k < bs.length → ∃ m, s.walk ctx (va + k) = .ok m ∧ m.w = true ∧ pas[k]? = some m.pa) ∧
         (∀ a, (∀ x ∈ pas, a ≠ s.place? x) → Memory.read t.mem a = Memory.read s.mem a) ∧
         ((pas.map s.place?).Nodup → ∀ (k x : Nat) (b : Byte), pas[k]? = some x → bs[k]? = some b → Memory.read t.mem (s.place? x) = b)))

/-- R35, R38, R345, R364, R400, R436, R444, R445: CREATE, START, DESTROY, LEVEL, JOURNAL, WINDOW and REGION answer their
statuses in order, and change the machine as they say where they answer 0x00. -/
def Obligations.ContextRequests : Prop := ∀ (s : State) (q : MgmtReq) (p : Nat), Served s q p →
  let b := s.heard q
  (∀ a : CreateArgs,
    (b.ctx? a.ctx ≠ none → Responds b q 1 (exec (.create q a) s)) ∧
    (b.ctx? a.ctx = none → b.createBad p a = true → Responds b q 2 (exec (.create q a) s)) ∧
    (∀ o, b.ctx? a.ctx = none → b.createBad p a = false →
      let root := if a.root = 0 then ((aget? b.pending a.ctx).map (·.root)).getD 0 else a.root
      let c : Ctx := { part := p, priv := a.priv, level := a.level, grant := a.grant, nodes := a.nodes, parea := a.parea
                       ptroot := root, walkroot := root }
      let b1 := { b with
        ctxs := aset b.ctxs a.ctx c, pending := adel b.pending a.ctx, ended := b.ended.filter (fun e => e.2 != a.ctx) }
      b1.objStatus a.ctx a.code = (0, o) → o.isDraw = false → 1 ≤ a.threads → a.threads ≤ 1024 → spaceOf a.entry = 0 →
      a.entry.toNat % 8 = 0 → a.code.toNat + 0x100 ≤ a.entry.toNat → (a.entry - a.code).toNat - 0x100 < o.textsize →
      fitsEmpty o ((a.threads + 31) / 32) = true →
      ∃ (t : State) (l : Launch), Responds t q 0 (exec (.create q a) s) ∧
        t.ctx? a.ctx = some { c with control := some b.nextKey } ∧ (∀ k, k ≠ a.ctx → t.ctx? k = b.ctx? k) ∧
        (b.nextKey, l) ∈ t.launches ∧ l.ctx = a.ctx ∧ l.control = true ∧ l.gangs = 1 ∧ l.gsize = 1 ∧ l.wgsize = a.threads ∧
        l.obj.entry.getD 0 none = some ((a.entry - a.code).toNat - 0x100) ∧ aget? t.pending a.ctx = none)) ∧
  (∀ a : StartArgs,
    (b.inPart p a.ctx = false → Responds b q 2 (exec (.start q a) s)) ∧
    (∀ c, b.inPart p a.ctx = true → b.ctx? a.ctx = some c →
      (c.control ≠ none → Responds b q 1 (exec (.start q a) s)) ∧
      (c.control = none → b.startControl a.ctx a.code a.entry a.threads = none → Responds b q 2 (exec (.start q a) s)) ∧
      (∀ t, c.control = none → b.startControl a.ctx a.code a.entry a.threads = some t →
        Responds t q 0 (exec (.start q a) s) ∧ t.ctx? a.ctx = some { c with control := some b.nextKey } ∧
        ∃ l, (b.nextKey, l) ∈ t.launches ∧ l.ctx = a.ctx ∧ l.control = true ∧ l.wgsize = a.threads))) ∧
  (∀ k,
    (b.inPart p k = false → b.pendingIn p k = false → Responds b q 2 (exec (.destroy q k) s)) ∧
    (b.inPart p k = false → b.pendingIn p k = true →
      Responds { b with pending := adel b.pending k, windows := b.windows.filter (fun v => v.ctx != some k) } q 0
        (exec (.destroy q k) s)) ∧
    (b.inPart p k = true → ∃ t, Responds t q 0 (exec (.destroy q k) s) ∧ t.ctx? k = none ∧ (∀ e ∈ t.waves, e.2.ctx ≠ k) ∧
      (∀ e ∈ t.launches, e.2.ctx ≠ k) ∧ (∀ e ∈ t.draws, e.2.ctx ≠ k) ∧ (∀ e ∈ t.recs, e.2.ctx ≠ k) ∧
      (∀ e ∈ t.tlb, e.asid ≠ k) ∧ (∀ v ∈ t.windows, v.ctx ≠ some k) ∧ (∀ l ∈ t.lanterns, ∀ x ∈ l.tasks, x.ctx ≠ k) ∧
      ((∀ e ∈ b.freezes, e.2.ctx ≠ k) → t.mem = b.mem ∧ t.out = b.out) ∧
      (q.source, k) ∈ t.ended ∧ ∀ j, j ≠ k → t.ctx? j = b.ctx? j)) ∧
  (∀ k n,
    (b.inPart p k = false ∨ n < 4 ∨ 23 < n → Responds b q 2 (exec (.level q k n) s)) ∧
    (b.inPart p k = true → 4 ≤ n → n ≤ 23 → ∃ t, Responds t q 0 (exec (.level q k n) s) ∧
      t.ctx? k = (b.ctx? k).map (fun c => { c with level := n }) ∧ (∀ j, j ≠ k → t.ctx? j = b.ctx? j) ∧
      t = { b with ctxs := t.ctxs, oldLevels := t.oldLevels })) ∧
  (∀ a : JournalArgs,
    let bad := a.log2slots < 3 ∨ 20 < a.log2slots ∨ a.pbase % 4096 ≠ 0 ∨ 2 ^ 48 ≤ a.pbase ∨ a.shadow % 4096 ≠ 0 ∨
      b.partHas p a.shadow (64 * 2 ^ a.log2slots) = false
    let live := ∃ j, b.journal? a.ctx = some j ∧ ∃ x ∈ j.recs, x.live = true
    (b.inPart p a.ctx = false → Responds b q 2 (exec (.journal q a) s)) ∧
    (b.inPart p a.ctx = true → live → Responds b q 1 (exec (.journal q a) s)) ∧
    (b.inPart p a.ctx = true → ¬live → bad → Responds b q 2 (exec (.journal q a) s)) ∧
    (b.inPart p a.ctx = true → ¬live → ¬bad → (∀ e ∈ b.waves, e.2.ctx ≠ a.ctx) → ∃ t, Responds t q 0 (exec (.journal q a) s) ∧
      t = { b with ctxs := t.ctxs, freeCtr := t.freeCtr } ∧ (∀ j, j ≠ a.ctx → t.ctx? j = b.ctx? j) ∧
      ∃ j, t.journal? a.ctx = some j ∧ j.partner = a.partner ∧ j.pbase = a.pbase ∧ j.log2 = a.log2slots ∧ j.shadow = a.shadow ∧
        j.standby = a.standby ∧ j.next = 0 ∧ j.head = 0 ∧ j.lost = false ∧ j.recs = [])) ∧
  (∀ a : WindowArgs,
    let mine := fun (v : Win) => v.part == p && v.ctx == some a.ctx && v.nbase == a.nbase
    (a.close = true → b.windows.any mine = false → Responds b q 2 (exec (.window q a) s)) ∧
    (a.close = true → b.windows.any mine = true →
      Responds { b with windows := b.windows.filter (fun v => !mine v) } q 0 (exec (.window q a) s)) ∧
    (a.close = false → b.windowBad p a = true → Responds b q 2 (exec (.window q a) s)) ∧
    (a.close = false → b.windowBad p a = false →
      Responds { b with windows := b.windows ++ [{
        part := p, ctx := some a.ctx, nbase := a.nbase, len := a.len, vbase := a.vbase, nodes := a.nodes, reads := a.reads
        writes := a.writes, atomics := a.atomics, rkey := a.rkey, doorbell := a.doorbell }] } q 0 (exec (.window q a) s))) ∧
  (∀ pbase log2slots node,
    let len := 64 * 2 ^ log2slots
    let others := b.windows.filter (fun v => !(v.part == p && v.ctx.isNone && v.nbase == pbase && v.len == len))
    (log2slots < 3 ∨ 20 < log2slots ∨ pbase % 4096 ≠ 0 ∨ b.partHas p pbase len = false ∨ 4096 ≤ node →
      Responds b q 2 (exec (.region q pbase log2slots node) s)) ∧
    (3 ≤ log2slots → log2slots ≤ 20 → pbase % 4096 = 0 → b.partHas p pbase len = true → node < 4096 →
      (∀ v ∈ others, v.part = p → overlaps v.nbase v.len pbase len = false) →
      (∀ r ∈ ({ b with windows := b.windows.filter (fun v => v.ctx.isSome) }).liveRanges, overlaps r.1 r.2 pbase len = false) →
      Responds { b with windows := others ++ [{
        part := p, ctx := none, nbase := pbase, len, vbase := pbase, nodes := [node], reads := false, writes := false
        atomics := false, rkey := none, doorbell := none }] } q 0 (exec (.region q pbase log2slots node) s)))

/-- R352, R358, R397, R399, R413, R418, R419, R436, R445: ALLOC, FREE and RETIRE answer their statuses and change frames and
tables; FREEZE and THAW act as FRZ and THAW on the context; SPARE marks a core as failing, or replaces it at once where no gang
holds it. -/
def Obligations.FrameRequests : Prop := ∀ (s : State) (q : MgmtReq) (p : Nat), Served s q p →
  let b := s.heard q
  (∀ a : AllocArgs, let r := b.allocPages p a
    (64 ≤ a.ctx ∨ a.ctx = 0 ∨ pagesOk a.va a.size = false ∨ (a.w = true ∧ a.r = false) ∨ (a.r = false ∧ a.x = false) →
      Responds b q 2 (exec (.alloc q a) s)) ∧
    (r.2 ≠ 0 → Responds b q r.2 (exec (.alloc q a) s)) ∧
    (r.2 = 0 → Responds r.1 q 0 (exec (.alloc q a) s) ∧
      r.1 = { b with
        mem := r.1.mem, bad := r.1.bad, keyed := r.1.keyed, wiped := r.1.wiped, hidden := r.1.hidden, btags := r.1.btags
        descs := r.1.descs, vers := r.1.vers, pending := r.1.pending } ∧
      (b.ctx? a.ctx = none → aget? b.pending a.ctx = none → ∃ x, aget? r.1.pending a.ctx = some x ∧ x.part = p ∧
        ∃ f, b.freeFrame p b.liveRanges = some f ∧ x.root = BitVec.ofNat 64 (65536 * f)) ∧
      (b.ctx? a.ctx ≠ none ∨ aget? b.pending a.ctx ≠ none → r.1.pending = b.pending))) ∧
  (∀ (x y : Building) (named : Option Nat) (f : Nat), takeFrame x p named = (y, f) → x.2.2 = 0 → y.2.2 = 0 →
    x.1.taken x.2.1 f = false ∧
    (∀ k, k < 65536 → Memory.read y.1.mem (65536 * f + k) = 0 ∧ tget 0 y.1.btags ((65536 * f + k) / 64) = 0)) ∧
  (∀ k va size, let freed := fun (t : Tlb) => freed k va size t
    let busy := s.waitingAccesses.any (fun x => match x.2 with
      | .mem pa => (s.tlb.filter freed).any (fun t => t.asid == x.1 && decide (t.pa ≤ pa) && decide (pa < t.pa + t.size))
      | _ => false)
    let leaves := fun (root : Nat) => (pagesOf va size).filterMap (fun page => leafOf b page 5 0 root)
    (busy = true → exec (.free q k va size) s = .next s) ∧
    (busy = false → b.rootFor p k = none → Responds b q 2 (exec (.free q k va size) s)) ∧
    (∀ root, busy = false → b.rootFor p k = some root → pagesOk va size = false ∨ leaves root = [] →
      Responds b q 2 (exec (.free q k va size) s)) ∧
    (∀ root, busy = false → b.rootFor p k = some root → pagesOk va size = true → leaves root ≠ [] →
      (∀ l ∈ leaves root, (leaves root).count l * 65536 = 2 ^ levelShift l.2) →
      (∀ e ∈ b.waves, e.2.ctx = k → e.2.frozen = true) →
      ∃ t, Responds t q 0 (exec (.free q k va size) s) ∧ t = { b with
        mem := t.mem, bad := t.bad, keyed := t.keyed, tlb := t.tlb, icache := t.icache } ∧
        (∀ l ∈ leaves root, t.readPa l.1 8 = List.replicate 8 0) ∧ t.tlb = b.tlb.filter (fun e => !freed e))) ∧
  (∀ (stack channel : Nat) (dest : List Nat), let ch := 32 * stack + channel
    let moves := b.toMove ch
    let entries := moves.filter (fun f => tget 0 b.redirect f == 0)
    let free := 65536 - (b.redirect.filter (fun e => b.partHas p (65536 * e.1) 65536)).length
    (s.channelBusy ch = true → exec (.retire q stack channel dest) s = .next s) ∧
    (s.channelBusy ch = false →
      (32 ≤ channel ∨ ch ∈ b.retired → Responds b q 2 (exec (.retire q stack channel dest) s)) ∧
      (∀ x, b.parts[p]? = some x → stack / 3 ∈ x.dies → channel < 32 → ch ∉ b.retired →
        (free < entries.length → Responds b q 7 (exec (.retire q stack channel dest) s)) ∧
        (entries.length ≤ free → dest.length < moves.length ∨ ¬dest.Nodup → Responds b q 2 (exec (.retire q stack channel dest) s)) ∧
        (entries.length ≤ free → moves.length ≤ dest.length → dest.Nodup →
          (∀ f ∈ dest, b.partHas p (65536 * f) 65536 = true ∧ b.taken b.liveRanges f = false ∧
            ∀ c, channelOf (65536 * f) = some c → c / 32 ≠ stack) →
          ∃ t, Responds t q 0 (exec (.retire q stack channel dest) s) ∧ t.retired = b.retired ++ [ch] ∧
            t = { b with
              mem := t.mem, bad := t.bad, keyed := t.keyed, wiped := t.wiped, hidden := t.hidden, redirect := t.redirect
              retired := t.retired } ∧
            ((b.toMove ch).Nodup → ∀ k f d : Nat, moves[k]? = some f → dest[k]? = some d → tget 0 t.redirect f = d + 1))))) ∧
  (∀ (u : State) (f dst a : Nat), let src := (u.served (65536 * f)).getD (65536 * f) / 65536
    Memory.wf u.mem = true → a / 65536 = f → u.served a ≠ none → u.served (65536 * f) ≠ none → dst ≠ src → dst ≠ f → (∀ e ∈ u.dev.cxlDown, e.2 = 0) →
    Memory.read (u.redirectFrame f dst).mem ((u.redirectFrame f dst).place? a) = Memory.read u.mem (u.place? a)) ∧
  (∀ k area us,
    (b.endedBy q k = true → Responds b q 0x10 (exec (.freeze q k area us) s)) ∧
    (b.endedBy q k = false → b.inPart p k = false → Responds b q 2 (exec (.freeze q k area us) s)) ∧
    (b.endedBy q k = false → b.inPart p k = true →
      (b.areaOutside p area = true → Responds b q 5 (exec (.freeze q k area us) s)) ∧
      (b.areaOutside p area = false → us < 10 ∨ 10000 < us → Responds b q 2 (exec (.freeze q k area us) s)) ∧
      (b.areaOutside p area = false → 10 ≤ us → us ≤ 10000 →
        (∀ j f, b.freezeOf k none = some (j, f) → f.phase = 2 →
          Responds b q (if f.area = area then 0 else 6) (exec (.freeze q k area us) s)) ∧
        (∀ c, b.freezeOf k none = none → b.ctx? k = some c → (∀ e ∈ b.freezes, e.1 ≠ b.nextKey) →
          ∃ t, exec (.freeze q k area us) s = .next t ∧ t = { b with ctxs := t.ctxs, freezes := t.freezes, nextKey := b.nextKey + 1 } ∧
            t.freezes = b.freezes ++ [(b.nextKey, {
              ctx := k, gang := none, area, deadline := b.dev.ptp + 1000 * us, answer := [(q.source, q.sideband)] })] ∧
            t.ctx? k = some { c with st := .freezing, deadlineUs := us } ∧ ∀ j, j ≠ k → t.ctx? j = b.ctx? j)))) ∧
  (∀ k area, let r := b.thawUnit k false area false (b.areaOutside p area)
    (b.endedBy q k = true → Responds b q 0x10 (exec (.thawTransaction q k area) s)) ∧
    (b.endedBy q k = false → b.inPart p k = false → Responds b q 2 (exec (.thawTransaction q k area) s)) ∧
    (b.endedBy q k = false → b.inPart p k = true → Responds r.1 q r.2 (exec (.thawTransaction q k area) s))) ∧
  (∀ core,
    (core / 24 ∉ b.partLanterns p ∨ b.activeCore core = false → Responds b q 2 (exec (.spare q core) s)) ∧
    (core / 24 ∈ b.partLanterns p → b.activeCore core = true → ∃ t, Responds t q 0 (exec (.spare q core) s) ∧
      exec (.coreSparing core) b = .next t ∧ (b.gangsOn core ≠ [] → t.activeCore core = false) ∧
      (b.gangsOn core = [] → ∃ l, t.lanterns[core / 24]? = some l ∧
        aget? l.ring (core % 24) = (b.lanterns[core / 24]?).bind (fun x => x.spares.head?))))

/-- R353, R355, R356, R359, R361, R362, R435, R436, R441, R443: What the boot ROM answers; who may ask; DIVISION and LIFECYCLE
wipe device memory and renew its keys; FIRMWARE stages an image that verifies; TELEMETRY answers its block. -/
def Obligations.PartRequests : Prop := ∀ (s : State) (q : MgmtReq),
  (∀ i ∈ [Instr.telemetry q, .division q ⟨[4], [1], [2], []⟩, .destroy q 1, .level q 1 4, .freeze q 1 0 10,
      .thawTransaction q 1 0, .spare q 0, .region q 0 3 1],
    (s.dev.booted = false → s.dev.lcstate ≠ 4 → (q.sideband = true → Responds s q 0x0F (exec i s)) ∧
      (q.sideband = false → exec i s = .next s)) ∧
    (∀ p x, s.dev.booted = true → s.dev.lcstate ≠ 4 → s.partOfNode q.endpoint = some p → s.parts[p]? = some x →
      x.mgmt ≠ q.source → Responds (s.heard q) q 4 (exec i s))) ∧
  (∀ p, Served s q p → let b := s.heard q
    (∀ a : DivisionArgs,
      ((∃ e ∈ b.ctxs, e.1 ≠ 0) → Responds b q 1 (exec (.division q a) s)) ∧
      ((∀ e ∈ b.ctxs, e.1 = 0) → divisionOk a = false → Responds b q 2 (exec (.division q a) s)) ∧
      ((∀ e ∈ b.ctxs, e.1 = 0) → divisionOk a = true → ∃ t, Responds t q 0 (exec (.division q a) s) ∧
        t.parts.map (·.dies) = (List.range a.dies.length).map (fun i => (List.range (a.dies.getD i 0)).map ((a.dies.take i).sum + ·)) ∧
        t.parts.map (·.node) = a.nodes ∧ t.parts.map (·.mgmt) = a.mgmt ∧ t.windows = [] ∧ t.pending = [] ∧ t.tlb = [] ∧
        (∀ x ∈ t.parts, ∀ y ∈ b.parts, y.keygen < x.keygen) ∧
        (b.dev.image = none → ∀ e ∈ t.mem, 4 * Config.dieBytes ≤ e.1))) ∧
    (∀ image,
      (b.imageVerified image = true → Responds { b with dev := { b.dev with image := some image } } q 0 (exec (.firmware q image) s)) ∧
      (b.imageVerified image = false → Responds b q 6 (exec (.firmware q image) s))) ∧
    (∀ n, s.dev.lcstate ≠ 0 ∨ q.sideband = false →
      (mayMove s.dev.lcstate n = false → Responds b q 3 (exec (.lifecycle q n) s)) ∧
      (mayMove s.dev.lcstate n = true → ∃ t, Responds t q 0 (exec (.lifecycle q n) s) ∧ t.dev.lcstate = n ∧ t.dev.booted = false ∧
        (∀ k, (∃ e ∈ b.ctxs, e.1 = k) → t.ctx? k = none) ∧ t.windows = [] ∧ t.pending = [] ∧
        ∀ e ∈ t.mem, 4 * Config.dieBytes ≤ e.1)) ∧
    (s.dev.lcstate ≠ 4 ∨ q.sideband = false → ∃ t, Responds t q 0 (exec (.telemetry q) s) ∧
      t = { b with out := b.out ++ [.telemetry q.source b.telemetryBlock], freeCtr := t.freeCtr })) ∧
  (∀ image, s.dev.booted = false → q.sideband = true → s.dev.lcstate ≠ 4 →
    (s.imageVerified image = true → Responds { s with dev := { s.dev with image := some image } } q 0 (exec (.firmware q image) s)) ∧
    (s.imageVerified image = false → Responds s q 6 (exec (.firmware q image) s))) ∧
  (∀ n, s.dev.lcstate = 0 → q.sideband = true →
    (n = 1 → ∃ t, Responds t q 0 (exec (.lifecycle q n) s) ∧ t.dev.lcstate = 1) ∧
    (n ≠ 1 → Responds s q 3 (exec (.lifecycle q n) s))) ∧
  (s.dev.lcstate = 4 → q.sideband = true → ∃ t, Responds t q 0 (exec (.telemetry q) s) ∧
    t = { s with out := s.out ++ [.telemetry q.source s.telemetryBlock], freeCtr := t.freeCtr }) ∧
  (∀ a b, mayMove a b = true ↔ (a, b) ∈ [(0, 1), (1, 2), (1, 4), (2, 3), (2, 4), (3, 2), (3, 4)])

/-- R7, R355, R356, R362, R411, R412, R414, R438, R439, R442: CLOCK_STOP stops every clock, but in DEPLOYED and RETIRED it is
only reported; over-temperature stops them; a failed lane is replaced by the spare, a second one halves the port; a CXL
port without its link refuses accesses; power control lowers the clock, not below the commitments of open windows, or
withholds slots at 1.2 GHz under DET; a row repair is only counted; a forward offset above 1 ms steps sys.ptp, any other is slewed; a reset wipes the chip, renews the keys and boots
an image that verifies. -/
def Obligations.PartEvents : Prop := ∀ s : State,
  (let reported := fun (code : Nat) (t : State) => t.dev.telemetry = tset 0 s.dev.telemetry code (tget 0 s.dev.telemetry code + 1) ∧
      Out.event code ∈ t.out ∧ (∀ x ∈ s.parts, ∃ v, Out.irq x.mgmt v ∈ t.out)
   (s.dev.lcstate = 2 ∨ s.dev.lcstate = 4 → ∃ t, exec .clockStop s = .next t ∧ reported evStopIgnored t ∧
     t = { s with out := t.out, dev := { s.dev with telemetry := t.dev.telemetry } }) ∧
   (s.dev.lcstate ≠ 2 → s.dev.lcstate ≠ 4 → exec .clockStop s = .next { s with dev := { s.dev with selfRefresh := true, stopped := true } }) ∧
   (∀ die, (4 ≤ die → exec (.overtemperatureStop die) s = .next s) ∧
     (die < 4 → ∃ t, exec (.overtemperatureStop die) s = .next t ∧ reported evOvertemperature t ∧
       t = { s with out := t.out, dev := { s.dev with telemetry := t.dev.telemetry, stopped := true, overheated := true } })) ∧
   (∀ eth port lane (x : Port), (if eth then s.dev.ethernet else s.dev.fabric)[port]? = some x →
     let width := if eth then 9 else 5
     (width ≤ lane ∨ lane ∈ x.badLanes → exec (.laneFailure eth port lane) s = .next s) ∧
     (lane < width → lane ∉ x.badLanes → ∃ t, exec (.laneFailure eth port lane) s = .next t ∧
       reported (if x.badLanes = [] then evLaneSpared else evHalfWidth) t ∧
       (if eth then t.dev.ethernet else t.dev.fabric)[port]? = some (if x.badLanes = [] then { x with badLanes := [lane], retraining := true }
         else { x with badLanes := x.badLanes ++ [lane], half := true }) ∧
       (∀ k, k ≠ port → (if eth then t.dev.ethernet else t.dev.fabric)[k]? = (if eth then s.dev.ethernet else s.dev.fabric)[k]?) ∧
       t = { s with out := t.out, dev := { s.dev with telemetry := t.dev.telemetry, ethernet := t.dev.ethernet, fabric := t.dev.fabric } }) ∧
     ∃ t, exec (.laneRetrainComplete eth port) s = .next t ∧
       (if eth then t.dev.ethernet else t.dev.fabric)[port]? = some { x with retraining := false } ∧
       t = { s with dev := { s.dev with ethernet := t.dev.ethernet, fabric := t.dev.fabric } }) ∧
   (∀ port, port < 4 → ∃ t, exec (.cxlLinkFailure port) s = .next t ∧ reported evCxlDown t ∧
     let r := Config.cxlRange port
     t = { s with out := t.out, dev := { s.dev with telemetry := t.dev.telemetry, cxlDown := t.dev.cxlDown } } ∧
     (∀ x ∈ s.dev.cxlDown, x ∈ t.dev.cxlDown) ∧
     ∀ pa, Config.cxlBase + r.1 % Config.cxlBytes ≤ pa → pa < Config.cxlBase + r.1 % Config.cxlBytes + r.2 →
       pa < Config.cxlBase + Config.cxlBytes → t.served pa = none) ∧
   (s.detRuns = true → ∃ t, exec .powerLimitExceeded s = .next t ∧ reported evThermal t ∧
     t = { s with out := t.out, dev := { s.dev with telemetry := t.dev.telemetry, throttled := true, clockMHz := 1200 } })) ∧
  (s.detRuns = false → ∃ t, exec .powerLimitExceeded s = .next t ∧ min 600 s.dev.clockMHz ≤ t.dev.clockMHz ∧
    let held := fun (f : Nat × Nat) => (∃ x ∈ s.parts, f ∈ x.floors) ∧ f.1 ≤ s.dev.clk ∧ s.dev.clk < f.1 + Config.ticks1us
    (∀ f, held f → f.2 ≤ t.dev.clockMHz) ∧ (t.dev.clockMHz ≤ s.dev.clockMHz ∨ ∃ f, held f ∧ f.2 = t.dev.clockMHz) ∧
    t = { s with dev := { s.dev with clockMHz := t.dev.clockMHz }, freeCtr := t.freeCtr }) ∧
  (∀ stack channel row, stack < 12 → channel < 32 → exec (.hbmRowRepair stack channel row) s =
    .next { s with dev := { s.dev with telemetry := tset 0 s.dev.telemetry evRowRepaired (tget 0 s.dev.telemetry evRowRepaired + 1) } }) ∧
  (∀ n : Int, (1000000 < n → exec (.ptpOffsetCorrection n) s =
      .next { s with dev := { s.dev with ptp := s.dev.ptp + n.toNat, slew := 0, ptpLocked := true } }) ∧
    (n ≤ 1000000 → exec (.ptpOffsetCorrection n) s = .next { s with dev := { s.dev with slew := n, ptpLocked := true } })) ∧
  ∃ t, exec .reset s = .next t ∧ t.dev.lcstate = s.dev.lcstate ∧ t.dev.clk = 0 ∧ t.dev.stopped = false ∧ t.windows = [] ∧
    t.redirect = s.redirect ∧ t.retired = s.retired ∧ t.recs = [] ∧ t.draws = [] ∧ t.tlb = [] ∧
    (∀ x ∈ t.parts, ∀ y ∈ s.parts, y.keygen < x.keygen) ∧
    (s.dev.lcstate = 0 ∨ s.dev.lcstate = 4 ∨ s.dev.image = none ∨ (∃ f, s.dev.image = some f ∧ s.imageVerified f = false) →
      t.ctxs = [] ∧ t.waves = [] ∧ t.dev.booted = false) ∧
    (∀ f, s.dev.lcstate ≠ 0 → s.dev.lcstate ≠ 4 → s.dev.image = some f → s.imageVerified f = true →
      t.dev.booted = true ∧ t.dev.m0 = measure (sha384 f.bytes) ∧ (∀ k, k ≠ 0 → t.ctx? k = none) ∧
      ∃ c, t.ctx? 0 = some c ∧ c.priv = true)
end

