-- ==== Sys2Proof/Laws/Data.lean ====
section
/-!
SUPPORT. What the sparse tables, the keyed lists, memory and the lanes of a mask give back after an update.
-/

namespace Sys2Proof.Machine

/-! ### Tables -/

section
variable {α : Type} (d : α)

theorem tget_tput_same (t : Table α) (x : Nat) (v : α) : tget d (tput t x v) x = v := by
  induction t with
  | nil => simp [tput, tget]
  | cons e t ih =>
    obtain ⟨k, u⟩ := e
    unfold tput
    split
    · simp [tget]
    · split
      · simp [tget]
      · rename_i h; simp [tget, h, ih]

theorem tget_tput_other (t : Table α) (x y : Nat) (v : α) (h : y ≠ x) : tget d (tput t x v) y = tget d t y := by
  induction t with
  | nil => simp [tput, tget, h]
  | cons e t ih =>
    obtain ⟨k, u⟩ := e
    unfold tput
    split
    · simp [tget, h]
    · split
      · rename_i hk; subst hk; simp [tget, h]
      · simp [tget, ih]

theorem tget_filter_same (t : Table α) (x : Nat) : tget d (t.filter (fun e => e.1 != x)) x = d := by
  induction t with
  | nil => simp [tget]
  | cons e t ih =>
    obtain ⟨k, u⟩ := e
    by_cases h : k = x
    · simp [List.filter, h, ih]
    · simp [h, tget, ih, Ne.symm h]

theorem tget_filter_other (t : Table α) (x y : Nat) (h : y ≠ x) :
    tget d (t.filter (fun e => e.1 != x)) y = tget d t y := by
  induction t with
  | nil => simp [tget]
  | cons e t ih =>
    obtain ⟨k, u⟩ := e
    by_cases hk : k = x
    · subst hk; simp [tget, h, ih]
    · simp [hk, tget, ih]

variable [DecidableEq α]

/-- A key that has been set reads as its new value. -/
@[simp] theorem tget_tset_same (t : Table α) (x : Nat) (v : α) : tget d (tset d t x v) x = v := by
  unfold tset
  split
  · rename_i h; rw [tget_filter_same, h]
  · exact tget_tput_same d t x v

/-- Every other key reads as before. -/
theorem tget_tset_other (t : Table α) (x y : Nat) (v : α) (h : y ≠ x) : tget d (tset d t x v) y = tget d t y := by
  unfold tset
  split
  · exact tget_filter_other d t x y h
  · exact tget_tput_other d t x y v h

theorem tget_tset (t : Table α) (x y : Nat) (v : α) :
    tget d (tset d t x v) y = if y = x then v else tget d t y := by
  split
  · rename_i h; subst h; exact tget_tset_same d t _ v
  · rename_i h; exact tget_tset_other d t x y v h

theorem twfFrom_le {lo lo' : Nat} (t : Table α) (hl : lo' ≤ lo) (h : twfFrom d lo t = true) : twfFrom d lo' t = true := by
  cases t with
  | nil => rfl
  | cons e t =>
    obtain ⟨k, u⟩ := e
    simp only [twfFrom, Bool.and_eq_true, decide_eq_true_eq] at h ⊢
    exact ⟨⟨by omega, h.1.2⟩, h.2⟩

theorem twfFrom_filter (p : Nat × α → Bool) (t : Table α) (lo : Nat) (h : twfFrom d lo t = true) :
    twfFrom d lo (t.filter p) = true := by
  induction t generalizing lo with
  | nil => rfl
  | cons e t ih =>
    obtain ⟨k, u⟩ := e
    simp only [twfFrom, Bool.and_eq_true, decide_eq_true_eq] at h
    by_cases hp : p (k, u) = true
    · simp only [List.filter, hp, twfFrom, Bool.and_eq_true, decide_eq_true_eq]
      exact ⟨h.1, ih _ h.2⟩
    · simp only [List.filter, hp]
      exact twfFrom_le d _ (by omega) (ih _ h.2)

theorem twfFrom_tput (t : Table α) (x : Nat) (v : α) (lo : Nat) (hx : lo ≤ x) (hv : v ≠ d) (h : twfFrom d lo t = true) :
    twfFrom d lo (tput t x v) = true := by
  induction t generalizing lo with
  | nil => simp [tput, twfFrom, hx, hv]
  | cons e t ih =>
    obtain ⟨k, u⟩ := e
    simp only [twfFrom, Bool.and_eq_true, decide_eq_true_eq] at h
    unfold tput
    split
    · rename_i hk
      simp only [twfFrom, Bool.and_eq_true, decide_eq_true_eq]
      exact ⟨⟨hx, hv⟩, ⟨by omega, h.1.2⟩, h.2⟩
    · split
      · rename_i hk
        simp only [twfFrom, Bool.and_eq_true, decide_eq_true_eq]
        exact ⟨⟨hx, hv⟩, hk ▸ h.2⟩
      · simp only [twfFrom, Bool.and_eq_true, decide_eq_true_eq]
        exact ⟨h.1, ih _ (by omega) h.2⟩

/-- Setting a key keeps the canonical form. -/
theorem twf_tset (t : Table α) (x : Nat) (v : α) (h : twf d t = true) : twf d (tset d t x v) = true := by
  unfold tset
  split
  · exact twfFrom_filter d _ t 0 h
  · rename_i hv; exact twfFrom_tput d t x v 0 (Nat.zero_le x) hv h

/-- Dropping entries keeps the canonical form. -/
theorem twf_filter (p : Nat × α → Bool) (t : Table α) (h : twf d t = true) : twf d (t.filter p) = true :=
  twfFrom_filter d p t 0 h

end

/-! ### Units by key -/

section
variable {α : Type}

/-- The changed entry of a key. -/
@[simp] theorem aget?_amod_same (l : List (Nat × α)) (k : Nat) (f : α → α) :
    aget? (amod l k f) k = (aget? l k).map f := by
  unfold aget? amod
  induction l with
  | nil => rfl
  | cons e l ih =>
    by_cases h : e.1 = k
    · simp [h]
    · simpa [h] using ih

/-- Every other entry is as before. -/
theorem aget?_amod_other (l : List (Nat × α)) (k j : Nat) (f : α → α) (h : j ≠ k) :
    aget? (amod l k f) j = aget? l j := by
  unfold aget? amod
  induction l with
  | nil => rfl
  | cons e l ih =>
    by_cases hk : e.1 = k
    · have hj : ¬e.1 = j := fun hh => h (hh.symm.trans hk)
      have hj' : ¬k = j := fun hh => h hh.symm
      simpa [hk, hj, hj'] using ih
    · by_cases hj : e.1 = j
      · simp [hj, h]
      · simpa [hk, hj] using ih

theorem aget?_amod (l : List (Nat × α)) (k j : Nat) (f : α → α) :
    aget? (amod l k f) j = if j = k then (aget? l k).map f else aget? l j := by
  split
  · rename_i h; subst h; exact aget?_amod_same l _ f
  · rename_i h; exact aget?_amod_other l k j f h

theorem amod_amod (l : List (Nat × α)) (k : Nat) (f g : α → α) : amod (amod l k f) k g = amod l k (fun a => g (f a)) := by
  unfold amod
  simp only [List.map_map]
  refine List.map_congr_left (fun e _ => ?_)
  by_cases h : e.1 = k <;> simp [h]

@[simp] theorem aget?_aset_same (l : List (Nat × α)) (k : Nat) (v : α) : aget? (aset l k v) k = some v := by
  induction l with
  | nil => simp [aset, aget?]
  | cons e l ih =>
    obtain ⟨j, u⟩ := e
    unfold aset
    split
    · simp [aget?]
    · rename_i h
      have h' : ¬j = k := fun hh => h hh.symm
      unfold aget? at ih ⊢
      simpa [h'] using ih

theorem aget?_aset_other (l : List (Nat × α)) (k j : Nat) (v : α) (h : j ≠ k) : aget? (aset l k v) j = aget? l j := by
  induction l with
  | nil => simp [aset, aget?, Ne.symm h]
  | cons e l ih =>
    obtain ⟨i, u⟩ := e
    unfold aset
    split
    · rename_i hk; subst hk; simp [aget?, Ne.symm h]
    · unfold aget? at ih ⊢
      by_cases hi : i = j
      · simp [hi]
      · simpa [hi] using ih

theorem aget?_adel_same (l : List (Nat × α)) (k : Nat) : aget? (adel l k) k = none := by
  unfold aget? adel
  simp [List.find?_eq_none]

theorem aget?_adel_other (l : List (Nat × α)) (k j : Nat) (h : j ≠ k) : aget? (adel l k) j = aget? l j := by
  unfold aget? adel
  induction l with
  | nil => rfl
  | cons e l ih =>
    by_cases hk : e.1 = k
    · have hj : ¬e.1 = j := fun hh => h (hh.symm.trans hk)
      have hj' : ¬k = j := fun hh => h hh.symm
      simpa [hk, hj'] using ih
    · by_cases hj : e.1 = j
      · simp [hj, h]
      · simpa [hk, hj] using ih

@[simp] theorem length_lmod (l : List α) (i : Nat) (f : α → α) : (lmod l i f).length = l.length := by
  simp [lmod]

theorem getElem?_lmod (l : List α) (i j : Nat) (f : α → α) :
    (lmod l i f)[j]? = if j = i then (l[j]?).map f else l[j]? := by
  unfold lmod
  rw [List.getElem?_mapIdx]
  split
  · rename_i h; simp
  · simp

end

/-! ### Memory -/

/-- A byte that has been written reads as written. -/
@[simp] theorem Memory.read_write_same (m : List Host.Cell) (a : Nat) (b : Byte) :
    Memory.read (Memory.write m a b) a = b := tget_tset_same _ m a b

/-- A write leaves every other byte alone. -/
theorem Memory.read_write_other (m : List Host.Cell) (a x : Nat) (b : Byte) (h : x ≠ a) :
    Memory.read (Memory.write m a b) x = Memory.read m x := tget_tset_other _ m a x b h

/-- A write keeps the canonical form. -/
theorem Memory.wf_write (m : List Host.Cell) (a : Nat) (b : Byte) (h : Memory.wf m = true) :
    Memory.wf (Memory.write m a b) = true := twf_tset _ m a b h

/-- A write of bytes leaves every byte outside its range alone. -/
theorem tget_writeTable_outside (m : Table Byte) (a : Nat) (bs : List Byte) (x : Nat)
    (h : x < a ∨ a + bs.length ≤ x) : tget 0 (writeTable m a bs) x = tget 0 m x := by
  induction bs generalizing m a with
  | nil => rfl
  | cons b bs ih =>
    simp only [List.length_cons] at h
    unfold writeTable
    rw [ih _ _ (by omega), tget_tset_other _ _ _ _ _ (by omega)]

/-- A byte of the written range reads as written. -/
theorem tget_writeTable_inside (m : Table Byte) (a : Nat) (bs : List Byte) (i : Nat) (h : i < bs.length) :
    tget 0 (writeTable m a bs) (a + i) = bs[i] := by
  induction bs generalizing m a i with
  | nil => exact absurd h (by simp)
  | cons b bs ih =>
    unfold writeTable
    cases i with
    | zero =>
      rw [tget_writeTable_outside _ _ _ _ (by omega)]
      simp
    | succ i =>
      have := ih (tset 0 m a b) (a + 1) i (by simpa using h)
      rw [show a + (i + 1) = a + 1 + i by omega, this]
      rfl

theorem twf_writeTable (m : Table Byte) (a : Nat) (bs : List Byte) (h : twf 0 m = true) :
    twf 0 (writeTable m a bs) = true := by
  induction bs generalizing m a with
  | nil => exact h
  | cons b bs ih => exact ih _ _ (twf_tset 0 m a b h)

/-! ### Bytes and numbers -/

@[simp] theorem length_toBytes (n v : Nat) : (toBytes n v).length = n := by
  induction n generalizing v with
  | zero => rfl
  | succ n ih => simp [toBytes, ih]

/-- The number of the n bytes of a number is the number modulo 256^n. -/
theorem leNat_toBytes (n v : Nat) : leNat (toBytes n v) = v % 256 ^ n := by
  induction n generalizing v with
  | zero => simp [toBytes, leNat, Nat.mod_one]
  | succ n ih =>
    simp only [toBytes, leNat, ih, BitVec.toNat_ofNat]
    rw [show 256 ^ (n + 1) = 256 * 256 ^ n by rw [Nat.pow_succ, Nat.mul_comm], Nat.mod_mul]

/-! ### Lanes -/

@[simp] theorem mem_lanesOf (m : Lanes) (t : Nat) : t ∈ lanesOf m ↔ m.getLsbD t = true := by
  unfold lanesOf
  simp only [List.mem_filter, List.mem_range]
  refine ⟨fun h => h.2, fun h => ⟨?_, h⟩⟩
  exact BitVec.lt_of_getLsbD h

theorem nodup_lanesOf (m : Lanes) : (lanesOf m).Nodup := List.Pairwise.filter _ List.nodup_range

/-- The lanes of a mask of lanes below 32 are those lanes. -/
theorem getLsbD_maskOf (l : List Nat) (t : Nat) : (maskOf l).getLsbD t = (decide (t < 32) && l.contains t) := by
  induction l with
  | nil => simp [maskOf]
  | cons a l ih =>
    simp only [maskOf, BitVec.getLsbD_or, ih, List.contains_cons]
    by_cases ht : t < 32
    · by_cases hta : t = a
      · subst hta; simp [ht]
      · by_cases hlt : t < a
        · simp [ht, hlt, hta]
        · have : t - a ≠ 0 := by omega
          simp [ht, hlt, hta, this]
    · simp [ht]

@[simp] theorem maskOf_lanesOf (m : Lanes) : maskOf (lanesOf m) = m := by
  apply BitVec.eq_of_getLsbD_eq
  intro i hi
  rw [getLsbD_maskOf]
  simp only [hi, decide_true, Bool.true_and]
  rw [Bool.eq_iff_iff, List.contains_iff_mem, mem_lanesOf]

@[simp] theorem lanesOf_zero : lanesOf 0 = [] := by decide

end Sys2Proof.Machine
end

