-- ==== Sys2Proof/Laws/State.lean ====
section
/-!
SUPPORT. What every field of a state, a wave or a thread is after each of the plain updates.
-/

namespace Sys2Proof.Machine

/-! ### State -/

@[simp] theorem State.modWave_mem (s : State) (k : Nat) (f : Wave → Wave) : (s.modWave k f).mem = s.mem := rfl
@[simp] theorem State.modWave_btags (s : State) (k : Nat) (f : Wave → Wave) : (s.modWave k f).btags = s.btags := rfl
@[simp] theorem State.modWave_descs (s : State) (k : Nat) (f : Wave → Wave) : (s.modWave k f).descs = s.descs := rfl
@[simp] theorem State.modWave_vers (s : State) (k : Nat) (f : Wave → Wave) : (s.modWave k f).vers = s.vers := rfl
@[simp] theorem State.modWave_bad (s : State) (k : Nat) (f : Wave → Wave) : (s.modWave k f).bad = s.bad := rfl
@[simp] theorem State.modWave_keyed (s : State) (k : Nat) (f : Wave → Wave) : (s.modWave k f).keyed = s.keyed := rfl
@[simp] theorem State.modWave_wiped (s : State) (k : Nat) (f : Wave → Wave) : (s.modWave k f).wiped = s.wiped := rfl
@[simp] theorem State.modWave_hidden (s : State) (k : Nat) (f : Wave → Wave) : (s.modWave k f).hidden = s.hidden := rfl
@[simp] theorem State.modWave_pins (s : State) (k : Nat) (f : Wave → Wave) : (s.modWave k f).pins = s.pins := rfl
@[simp] theorem State.modWave_tlb (s : State) (k : Nat) (f : Wave → Wave) : (s.modWave k f).tlb = s.tlb := rfl
@[simp] theorem State.modWave_icache (s : State) (k : Nat) (f : Wave → Wave) : (s.modWave k f).icache = s.icache := rfl
@[simp] theorem State.modWave_tagrecs (s : State) (k : Nat) (f : Wave → Wave) : (s.modWave k f).tagrecs = s.tagrecs := rfl
@[simp] theorem State.modWave_redirect (s : State) (k : Nat) (f : Wave → Wave) : (s.modWave k f).redirect = s.redirect := rfl
@[simp] theorem State.modWave_retired (s : State) (k : Nat) (f : Wave → Wave) : (s.modWave k f).retired = s.retired := rfl
@[simp] theorem State.modWave_waves (s : State) (k : Nat) (f : Wave → Wave) : (s.modWave k f).waves = amod s.waves k f := rfl
@[simp] theorem State.modWave_wgs (s : State) (k : Nat) (f : Wave → Wave) : (s.modWave k f).wgs = s.wgs := rfl
@[simp] theorem State.modWave_gangs (s : State) (k : Nat) (f : Wave → Wave) : (s.modWave k f).gangs = s.gangs := rfl
@[simp] theorem State.modWave_launches (s : State) (k : Nat) (f : Wave → Wave) : (s.modWave k f).launches = s.launches := rfl
@[simp] theorem State.modWave_draws (s : State) (k : Nat) (f : Wave → Wave) : (s.modWave k f).draws = s.draws := rfl
@[simp] theorem State.modWave_recs (s : State) (k : Nat) (f : Wave → Wave) : (s.modWave k f).recs = s.recs := rfl
@[simp] theorem State.modWave_lanterns (s : State) (k : Nat) (f : Wave → Wave) : (s.modWave k f).lanterns = s.lanterns := rfl
@[simp] theorem State.modWave_settling (s : State) (k : Nat) (f : Wave → Wave) : (s.modWave k f).settling = s.settling := rfl
@[simp] theorem State.modWave_ctxs (s : State) (k : Nat) (f : Wave → Wave) : (s.modWave k f).ctxs = s.ctxs := rfl
@[simp] theorem State.modWave_pending (s : State) (k : Nat) (f : Wave → Wave) : (s.modWave k f).pending = s.pending := rfl
@[simp] theorem State.modWave_ended (s : State) (k : Nat) (f : Wave → Wave) : (s.modWave k f).ended = s.ended := rfl
@[simp] theorem State.modWave_windows (s : State) (k : Nat) (f : Wave → Wave) : (s.modWave k f).windows = s.windows := rfl
@[simp] theorem State.modWave_freezes (s : State) (k : Nat) (f : Wave → Wave) : (s.modWave k f).freezes = s.freezes := rfl
@[simp] theorem State.modWave_saves (s : State) (k : Nat) (f : Wave → Wave) : (s.modWave k f).saves = s.saves := rfl
@[simp] theorem State.modWave_parts (s : State) (k : Nat) (f : Wave → Wave) : (s.modWave k f).parts = s.parts := rfl
@[simp] theorem State.modWave_oldLevels (s : State) (k : Nat) (f : Wave → Wave) : (s.modWave k f).oldLevels = s.oldLevels := rfl
@[simp] theorem State.modWave_dev (s : State) (k : Nat) (f : Wave → Wave) : (s.modWave k f).dev = s.dev := rfl
@[simp] theorem State.modWave_out (s : State) (k : Nat) (f : Wave → Wave) : (s.modWave k f).out = s.out := rfl
@[simp] theorem State.modWave_issued (s : State) (k : Nat) (f : Wave → Wave) : (s.modWave k f).issued = s.issued := rfl
@[simp] theorem State.modWave_nextKey (s : State) (k : Nat) (f : Wave → Wave) : (s.modWave k f).nextKey = s.nextKey := rfl
@[simp] theorem State.modWave_agenda (s : State) (k : Nat) (f : Wave → Wave) : (s.modWave k f).agenda = s.agenda := rfl
@[simp] theorem State.modWave_freeCtr (s : State) (k : Nat) (f : Wave → Wave) : (s.modWave k f).freeCtr = s.freeCtr := rfl
@[simp] theorem State.modWave_cur (s : State) (k : Nat) (f : Wave → Wave) : (s.modWave k f).cur = s.cur := rfl

@[simp] theorem State.setWave_mem (s : State) (k : Nat) (w : Wave) : (s.setWave k w).mem = s.mem := rfl
@[simp] theorem State.setWave_btags (s : State) (k : Nat) (w : Wave) : (s.setWave k w).btags = s.btags := rfl
@[simp] theorem State.setWave_descs (s : State) (k : Nat) (w : Wave) : (s.setWave k w).descs = s.descs := rfl
@[simp] theorem State.setWave_vers (s : State) (k : Nat) (w : Wave) : (s.setWave k w).vers = s.vers := rfl
@[simp] theorem State.setWave_bad (s : State) (k : Nat) (w : Wave) : (s.setWave k w).bad = s.bad := rfl
@[simp] theorem State.setWave_keyed (s : State) (k : Nat) (w : Wave) : (s.setWave k w).keyed = s.keyed := rfl
@[simp] theorem State.setWave_wiped (s : State) (k : Nat) (w : Wave) : (s.setWave k w).wiped = s.wiped := rfl
@[simp] theorem State.setWave_hidden (s : State) (k : Nat) (w : Wave) : (s.setWave k w).hidden = s.hidden := rfl
@[simp] theorem State.setWave_pins (s : State) (k : Nat) (w : Wave) : (s.setWave k w).pins = s.pins := rfl
@[simp] theorem State.setWave_tlb (s : State) (k : Nat) (w : Wave) : (s.setWave k w).tlb = s.tlb := rfl
@[simp] theorem State.setWave_icache (s : State) (k : Nat) (w : Wave) : (s.setWave k w).icache = s.icache := rfl
@[simp] theorem State.setWave_tagrecs (s : State) (k : Nat) (w : Wave) : (s.setWave k w).tagrecs = s.tagrecs := rfl
@[simp] theorem State.setWave_redirect (s : State) (k : Nat) (w : Wave) : (s.setWave k w).redirect = s.redirect := rfl
@[simp] theorem State.setWave_retired (s : State) (k : Nat) (w : Wave) : (s.setWave k w).retired = s.retired := rfl
@[simp] theorem State.setWave_waves (s : State) (k : Nat) (w : Wave) : (s.setWave k w).waves = aset s.waves k w := rfl
@[simp] theorem State.setWave_wgs (s : State) (k : Nat) (w : Wave) : (s.setWave k w).wgs = s.wgs := rfl
@[simp] theorem State.setWave_gangs (s : State) (k : Nat) (w : Wave) : (s.setWave k w).gangs = s.gangs := rfl
@[simp] theorem State.setWave_launches (s : State) (k : Nat) (w : Wave) : (s.setWave k w).launches = s.launches := rfl
@[simp] theorem State.setWave_draws (s : State) (k : Nat) (w : Wave) : (s.setWave k w).draws = s.draws := rfl
@[simp] theorem State.setWave_recs (s : State) (k : Nat) (w : Wave) : (s.setWave k w).recs = s.recs := rfl
@[simp] theorem State.setWave_lanterns (s : State) (k : Nat) (w : Wave) : (s.setWave k w).lanterns = s.lanterns := rfl
@[simp] theorem State.setWave_settling (s : State) (k : Nat) (w : Wave) : (s.setWave k w).settling = s.settling := rfl
@[simp] theorem State.setWave_ctxs (s : State) (k : Nat) (w : Wave) : (s.setWave k w).ctxs = s.ctxs := rfl
@[simp] theorem State.setWave_pending (s : State) (k : Nat) (w : Wave) : (s.setWave k w).pending = s.pending := rfl
@[simp] theorem State.setWave_ended (s : State) (k : Nat) (w : Wave) : (s.setWave k w).ended = s.ended := rfl
@[simp] theorem State.setWave_windows (s : State) (k : Nat) (w : Wave) : (s.setWave k w).windows = s.windows := rfl
@[simp] theorem State.setWave_freezes (s : State) (k : Nat) (w : Wave) : (s.setWave k w).freezes = s.freezes := rfl
@[simp] theorem State.setWave_saves (s : State) (k : Nat) (w : Wave) : (s.setWave k w).saves = s.saves := rfl
@[simp] theorem State.setWave_parts (s : State) (k : Nat) (w : Wave) : (s.setWave k w).parts = s.parts := rfl
@[simp] theorem State.setWave_oldLevels (s : State) (k : Nat) (w : Wave) : (s.setWave k w).oldLevels = s.oldLevels := rfl
@[simp] theorem State.setWave_dev (s : State) (k : Nat) (w : Wave) : (s.setWave k w).dev = s.dev := rfl
@[simp] theorem State.setWave_out (s : State) (k : Nat) (w : Wave) : (s.setWave k w).out = s.out := rfl
@[simp] theorem State.setWave_issued (s : State) (k : Nat) (w : Wave) : (s.setWave k w).issued = s.issued := rfl
@[simp] theorem State.setWave_nextKey (s : State) (k : Nat) (w : Wave) : (s.setWave k w).nextKey = s.nextKey := rfl
@[simp] theorem State.setWave_agenda (s : State) (k : Nat) (w : Wave) : (s.setWave k w).agenda = s.agenda := rfl
@[simp] theorem State.setWave_freeCtr (s : State) (k : Nat) (w : Wave) : (s.setWave k w).freeCtr = s.freeCtr := rfl
@[simp] theorem State.setWave_cur (s : State) (k : Nat) (w : Wave) : (s.setWave k w).cur = s.cur := rfl

@[simp] theorem State.modWg_mem (s : State) (k : Nat) (f : Workgroup → Workgroup) : (s.modWg k f).mem = s.mem := rfl
@[simp] theorem State.modWg_btags (s : State) (k : Nat) (f : Workgroup → Workgroup) : (s.modWg k f).btags = s.btags := rfl
@[simp] theorem State.modWg_descs (s : State) (k : Nat) (f : Workgroup → Workgroup) : (s.modWg k f).descs = s.descs := rfl
@[simp] theorem State.modWg_vers (s : State) (k : Nat) (f : Workgroup → Workgroup) : (s.modWg k f).vers = s.vers := rfl
@[simp] theorem State.modWg_bad (s : State) (k : Nat) (f : Workgroup → Workgroup) : (s.modWg k f).bad = s.bad := rfl
@[simp] theorem State.modWg_keyed (s : State) (k : Nat) (f : Workgroup → Workgroup) : (s.modWg k f).keyed = s.keyed := rfl
@[simp] theorem State.modWg_wiped (s : State) (k : Nat) (f : Workgroup → Workgroup) : (s.modWg k f).wiped = s.wiped := rfl
@[simp] theorem State.modWg_hidden (s : State) (k : Nat) (f : Workgroup → Workgroup) : (s.modWg k f).hidden = s.hidden := rfl
@[simp] theorem State.modWg_pins (s : State) (k : Nat) (f : Workgroup → Workgroup) : (s.modWg k f).pins = s.pins := rfl
@[simp] theorem State.modWg_tlb (s : State) (k : Nat) (f : Workgroup → Workgroup) : (s.modWg k f).tlb = s.tlb := rfl
@[simp] theorem State.modWg_icache (s : State) (k : Nat) (f : Workgroup → Workgroup) : (s.modWg k f).icache = s.icache := rfl
@[simp] theorem State.modWg_tagrecs (s : State) (k : Nat) (f : Workgroup → Workgroup) : (s.modWg k f).tagrecs = s.tagrecs := rfl
@[simp] theorem State.modWg_redirect (s : State) (k : Nat) (f : Workgroup → Workgroup) : (s.modWg k f).redirect = s.redirect := rfl
@[simp] theorem State.modWg_retired (s : State) (k : Nat) (f : Workgroup → Workgroup) : (s.modWg k f).retired = s.retired := rfl
@[simp] theorem State.modWg_waves (s : State) (k : Nat) (f : Workgroup → Workgroup) : (s.modWg k f).waves = s.waves := rfl
@[simp] theorem State.modWg_wgs (s : State) (k : Nat) (f : Workgroup → Workgroup) : (s.modWg k f).wgs = amod s.wgs k f := rfl
@[simp] theorem State.modWg_gangs (s : State) (k : Nat) (f : Workgroup → Workgroup) : (s.modWg k f).gangs = s.gangs := rfl
@[simp] theorem State.modWg_launches (s : State) (k : Nat) (f : Workgroup → Workgroup) : (s.modWg k f).launches = s.launches := rfl
@[simp] theorem State.modWg_draws (s : State) (k : Nat) (f : Workgroup → Workgroup) : (s.modWg k f).draws = s.draws := rfl
@[simp] theorem State.modWg_recs (s : State) (k : Nat) (f : Workgroup → Workgroup) : (s.modWg k f).recs = s.recs := rfl
@[simp] theorem State.modWg_lanterns (s : State) (k : Nat) (f : Workgroup → Workgroup) : (s.modWg k f).lanterns = s.lanterns := rfl
@[simp] theorem State.modWg_settling (s : State) (k : Nat) (f : Workgroup → Workgroup) : (s.modWg k f).settling = s.settling := rfl
@[simp] theorem State.modWg_ctxs (s : State) (k : Nat) (f : Workgroup → Workgroup) : (s.modWg k f).ctxs = s.ctxs := rfl
@[simp] theorem State.modWg_pending (s : State) (k : Nat) (f : Workgroup → Workgroup) : (s.modWg k f).pending = s.pending := rfl
@[simp] theorem State.modWg_ended (s : State) (k : Nat) (f : Workgroup → Workgroup) : (s.modWg k f).ended = s.ended := rfl
@[simp] theorem State.modWg_windows (s : State) (k : Nat) (f : Workgroup → Workgroup) : (s.modWg k f).windows = s.windows := rfl
@[simp] theorem State.modWg_freezes (s : State) (k : Nat) (f : Workgroup → Workgroup) : (s.modWg k f).freezes = s.freezes := rfl
@[simp] theorem State.modWg_saves (s : State) (k : Nat) (f : Workgroup → Workgroup) : (s.modWg k f).saves = s.saves := rfl
@[simp] theorem State.modWg_parts (s : State) (k : Nat) (f : Workgroup → Workgroup) : (s.modWg k f).parts = s.parts := rfl
@[simp] theorem State.modWg_oldLevels (s : State) (k : Nat) (f : Workgroup → Workgroup) : (s.modWg k f).oldLevels = s.oldLevels := rfl
@[simp] theorem State.modWg_dev (s : State) (k : Nat) (f : Workgroup → Workgroup) : (s.modWg k f).dev = s.dev := rfl
@[simp] theorem State.modWg_out (s : State) (k : Nat) (f : Workgroup → Workgroup) : (s.modWg k f).out = s.out := rfl
@[simp] theorem State.modWg_issued (s : State) (k : Nat) (f : Workgroup → Workgroup) : (s.modWg k f).issued = s.issued := rfl
@[simp] theorem State.modWg_nextKey (s : State) (k : Nat) (f : Workgroup → Workgroup) : (s.modWg k f).nextKey = s.nextKey := rfl
@[simp] theorem State.modWg_agenda (s : State) (k : Nat) (f : Workgroup → Workgroup) : (s.modWg k f).agenda = s.agenda := rfl
@[simp] theorem State.modWg_freeCtr (s : State) (k : Nat) (f : Workgroup → Workgroup) : (s.modWg k f).freeCtr = s.freeCtr := rfl
@[simp] theorem State.modWg_cur (s : State) (k : Nat) (f : Workgroup → Workgroup) : (s.modWg k f).cur = s.cur := rfl

@[simp] theorem State.modGang_mem (s : State) (k : Nat) (f : Gang → Gang) : (s.modGang k f).mem = s.mem := rfl
@[simp] theorem State.modGang_btags (s : State) (k : Nat) (f : Gang → Gang) : (s.modGang k f).btags = s.btags := rfl
@[simp] theorem State.modGang_descs (s : State) (k : Nat) (f : Gang → Gang) : (s.modGang k f).descs = s.descs := rfl
@[simp] theorem State.modGang_vers (s : State) (k : Nat) (f : Gang → Gang) : (s.modGang k f).vers = s.vers := rfl
@[simp] theorem State.modGang_bad (s : State) (k : Nat) (f : Gang → Gang) : (s.modGang k f).bad = s.bad := rfl
@[simp] theorem State.modGang_keyed (s : State) (k : Nat) (f : Gang → Gang) : (s.modGang k f).keyed = s.keyed := rfl
@[simp] theorem State.modGang_wiped (s : State) (k : Nat) (f : Gang → Gang) : (s.modGang k f).wiped = s.wiped := rfl
@[simp] theorem State.modGang_hidden (s : State) (k : Nat) (f : Gang → Gang) : (s.modGang k f).hidden = s.hidden := rfl
@[simp] theorem State.modGang_pins (s : State) (k : Nat) (f : Gang → Gang) : (s.modGang k f).pins = s.pins := rfl
@[simp] theorem State.modGang_tlb (s : State) (k : Nat) (f : Gang → Gang) : (s.modGang k f).tlb = s.tlb := rfl
@[simp] theorem State.modGang_icache (s : State) (k : Nat) (f : Gang → Gang) : (s.modGang k f).icache = s.icache := rfl
@[simp] theorem State.modGang_tagrecs (s : State) (k : Nat) (f : Gang → Gang) : (s.modGang k f).tagrecs = s.tagrecs := rfl
@[simp] theorem State.modGang_redirect (s : State) (k : Nat) (f : Gang → Gang) : (s.modGang k f).redirect = s.redirect := rfl
@[simp] theorem State.modGang_retired (s : State) (k : Nat) (f : Gang → Gang) : (s.modGang k f).retired = s.retired := rfl
@[simp] theorem State.modGang_waves (s : State) (k : Nat) (f : Gang → Gang) : (s.modGang k f).waves = s.waves := rfl
@[simp] theorem State.modGang_wgs (s : State) (k : Nat) (f : Gang → Gang) : (s.modGang k f).wgs = s.wgs := rfl
@[simp] theorem State.modGang_gangs (s : State) (k : Nat) (f : Gang → Gang) : (s.modGang k f).gangs = amod s.gangs k f := rfl
@[simp] theorem State.modGang_launches (s : State) (k : Nat) (f : Gang → Gang) : (s.modGang k f).launches = s.launches := rfl
@[simp] theorem State.modGang_draws (s : State) (k : Nat) (f : Gang → Gang) : (s.modGang k f).draws = s.draws := rfl
@[simp] theorem State.modGang_recs (s : State) (k : Nat) (f : Gang → Gang) : (s.modGang k f).recs = s.recs := rfl
@[simp] theorem State.modGang_lanterns (s : State) (k : Nat) (f : Gang → Gang) : (s.modGang k f).lanterns = s.lanterns := rfl
@[simp] theorem State.modGang_settling (s : State) (k : Nat) (f : Gang → Gang) : (s.modGang k f).settling = s.settling := rfl
@[simp] theorem State.modGang_ctxs (s : State) (k : Nat) (f : Gang → Gang) : (s.modGang k f).ctxs = s.ctxs := rfl
@[simp] theorem State.modGang_pending (s : State) (k : Nat) (f : Gang → Gang) : (s.modGang k f).pending = s.pending := rfl
@[simp] theorem State.modGang_ended (s : State) (k : Nat) (f : Gang → Gang) : (s.modGang k f).ended = s.ended := rfl
@[simp] theorem State.modGang_windows (s : State) (k : Nat) (f : Gang → Gang) : (s.modGang k f).windows = s.windows := rfl
@[simp] theorem State.modGang_freezes (s : State) (k : Nat) (f : Gang → Gang) : (s.modGang k f).freezes = s.freezes := rfl
@[simp] theorem State.modGang_saves (s : State) (k : Nat) (f : Gang → Gang) : (s.modGang k f).saves = s.saves := rfl
@[simp] theorem State.modGang_parts (s : State) (k : Nat) (f : Gang → Gang) : (s.modGang k f).parts = s.parts := rfl
@[simp] theorem State.modGang_oldLevels (s : State) (k : Nat) (f : Gang → Gang) : (s.modGang k f).oldLevels = s.oldLevels := rfl
@[simp] theorem State.modGang_dev (s : State) (k : Nat) (f : Gang → Gang) : (s.modGang k f).dev = s.dev := rfl
@[simp] theorem State.modGang_out (s : State) (k : Nat) (f : Gang → Gang) : (s.modGang k f).out = s.out := rfl
@[simp] theorem State.modGang_issued (s : State) (k : Nat) (f : Gang → Gang) : (s.modGang k f).issued = s.issued := rfl
@[simp] theorem State.modGang_nextKey (s : State) (k : Nat) (f : Gang → Gang) : (s.modGang k f).nextKey = s.nextKey := rfl
@[simp] theorem State.modGang_agenda (s : State) (k : Nat) (f : Gang → Gang) : (s.modGang k f).agenda = s.agenda := rfl
@[simp] theorem State.modGang_freeCtr (s : State) (k : Nat) (f : Gang → Gang) : (s.modGang k f).freeCtr = s.freeCtr := rfl
@[simp] theorem State.modGang_cur (s : State) (k : Nat) (f : Gang → Gang) : (s.modGang k f).cur = s.cur := rfl

@[simp] theorem State.modLaunch_mem (s : State) (k : Nat) (f : Launch → Launch) : (s.modLaunch k f).mem = s.mem := rfl
@[simp] theorem State.modLaunch_btags (s : State) (k : Nat) (f : Launch → Launch) : (s.modLaunch k f).btags = s.btags := rfl
@[simp] theorem State.modLaunch_descs (s : State) (k : Nat) (f : Launch → Launch) : (s.modLaunch k f).descs = s.descs := rfl
@[simp] theorem State.modLaunch_vers (s : State) (k : Nat) (f : Launch → Launch) : (s.modLaunch k f).vers = s.vers := rfl
@[simp] theorem State.modLaunch_bad (s : State) (k : Nat) (f : Launch → Launch) : (s.modLaunch k f).bad = s.bad := rfl
@[simp] theorem State.modLaunch_keyed (s : State) (k : Nat) (f : Launch → Launch) : (s.modLaunch k f).keyed = s.keyed := rfl
@[simp] theorem State.modLaunch_wiped (s : State) (k : Nat) (f : Launch → Launch) : (s.modLaunch k f).wiped = s.wiped := rfl
@[simp] theorem State.modLaunch_hidden (s : State) (k : Nat) (f : Launch → Launch) : (s.modLaunch k f).hidden = s.hidden := rfl
@[simp] theorem State.modLaunch_pins (s : State) (k : Nat) (f : Launch → Launch) : (s.modLaunch k f).pins = s.pins := rfl
@[simp] theorem State.modLaunch_tlb (s : State) (k : Nat) (f : Launch → Launch) : (s.modLaunch k f).tlb = s.tlb := rfl
@[simp] theorem State.modLaunch_icache (s : State) (k : Nat) (f : Launch → Launch) : (s.modLaunch k f).icache = s.icache := rfl
@[simp] theorem State.modLaunch_tagrecs (s : State) (k : Nat) (f : Launch → Launch) : (s.modLaunch k f).tagrecs = s.tagrecs := rfl
@[simp] theorem State.modLaunch_redirect (s : State) (k : Nat) (f : Launch → Launch) : (s.modLaunch k f).redirect = s.redirect := rfl
@[simp] theorem State.modLaunch_retired (s : State) (k : Nat) (f : Launch → Launch) : (s.modLaunch k f).retired = s.retired := rfl
@[simp] theorem State.modLaunch_waves (s : State) (k : Nat) (f : Launch → Launch) : (s.modLaunch k f).waves = s.waves := rfl
@[simp] theorem State.modLaunch_wgs (s : State) (k : Nat) (f : Launch → Launch) : (s.modLaunch k f).wgs = s.wgs := rfl
@[simp] theorem State.modLaunch_gangs (s : State) (k : Nat) (f : Launch → Launch) : (s.modLaunch k f).gangs = s.gangs := rfl
@[simp] theorem State.modLaunch_launches (s : State) (k : Nat) (f : Launch → Launch) : (s.modLaunch k f).launches = amod s.launches k f := rfl
@[simp] theorem State.modLaunch_draws (s : State) (k : Nat) (f : Launch → Launch) : (s.modLaunch k f).draws = s.draws := rfl
@[simp] theorem State.modLaunch_recs (s : State) (k : Nat) (f : Launch → Launch) : (s.modLaunch k f).recs = s.recs := rfl
@[simp] theorem State.modLaunch_lanterns (s : State) (k : Nat) (f : Launch → Launch) : (s.modLaunch k f).lanterns = s.lanterns := rfl
@[simp] theorem State.modLaunch_settling (s : State) (k : Nat) (f : Launch → Launch) : (s.modLaunch k f).settling = s.settling := rfl
@[simp] theorem State.modLaunch_ctxs (s : State) (k : Nat) (f : Launch → Launch) : (s.modLaunch k f).ctxs = s.ctxs := rfl
@[simp] theorem State.modLaunch_pending (s : State) (k : Nat) (f : Launch → Launch) : (s.modLaunch k f).pending = s.pending := rfl
@[simp] theorem State.modLaunch_ended (s : State) (k : Nat) (f : Launch → Launch) : (s.modLaunch k f).ended = s.ended := rfl
@[simp] theorem State.modLaunch_windows (s : State) (k : Nat) (f : Launch → Launch) : (s.modLaunch k f).windows = s.windows := rfl
@[simp] theorem State.modLaunch_freezes (s : State) (k : Nat) (f : Launch → Launch) : (s.modLaunch k f).freezes = s.freezes := rfl
@[simp] theorem State.modLaunch_saves (s : State) (k : Nat) (f : Launch → Launch) : (s.modLaunch k f).saves = s.saves := rfl
@[simp] theorem State.modLaunch_parts (s : State) (k : Nat) (f : Launch → Launch) : (s.modLaunch k f).parts = s.parts := rfl
@[simp] theorem State.modLaunch_oldLevels (s : State) (k : Nat) (f : Launch → Launch) : (s.modLaunch k f).oldLevels = s.oldLevels := rfl
@[simp] theorem State.modLaunch_dev (s : State) (k : Nat) (f : Launch → Launch) : (s.modLaunch k f).dev = s.dev := rfl
@[simp] theorem State.modLaunch_out (s : State) (k : Nat) (f : Launch → Launch) : (s.modLaunch k f).out = s.out := rfl
@[simp] theorem State.modLaunch_issued (s : State) (k : Nat) (f : Launch → Launch) : (s.modLaunch k f).issued = s.issued := rfl
@[simp] theorem State.modLaunch_nextKey (s : State) (k : Nat) (f : Launch → Launch) : (s.modLaunch k f).nextKey = s.nextKey := rfl
@[simp] theorem State.modLaunch_agenda (s : State) (k : Nat) (f : Launch → Launch) : (s.modLaunch k f).agenda = s.agenda := rfl
@[simp] theorem State.modLaunch_freeCtr (s : State) (k : Nat) (f : Launch → Launch) : (s.modLaunch k f).freeCtr = s.freeCtr := rfl
@[simp] theorem State.modLaunch_cur (s : State) (k : Nat) (f : Launch → Launch) : (s.modLaunch k f).cur = s.cur := rfl

@[simp] theorem State.modDraw_mem (s : State) (k : Nat) (f : DrawUnit → DrawUnit) : (s.modDraw k f).mem = s.mem := rfl
@[simp] theorem State.modDraw_btags (s : State) (k : Nat) (f : DrawUnit → DrawUnit) : (s.modDraw k f).btags = s.btags := rfl
@[simp] theorem State.modDraw_descs (s : State) (k : Nat) (f : DrawUnit → DrawUnit) : (s.modDraw k f).descs = s.descs := rfl
@[simp] theorem State.modDraw_vers (s : State) (k : Nat) (f : DrawUnit → DrawUnit) : (s.modDraw k f).vers = s.vers := rfl
@[simp] theorem State.modDraw_bad (s : State) (k : Nat) (f : DrawUnit → DrawUnit) : (s.modDraw k f).bad = s.bad := rfl
@[simp] theorem State.modDraw_keyed (s : State) (k : Nat) (f : DrawUnit → DrawUnit) : (s.modDraw k f).keyed = s.keyed := rfl
@[simp] theorem State.modDraw_wiped (s : State) (k : Nat) (f : DrawUnit → DrawUnit) : (s.modDraw k f).wiped = s.wiped := rfl
@[simp] theorem State.modDraw_hidden (s : State) (k : Nat) (f : DrawUnit → DrawUnit) : (s.modDraw k f).hidden = s.hidden := rfl
@[simp] theorem State.modDraw_pins (s : State) (k : Nat) (f : DrawUnit → DrawUnit) : (s.modDraw k f).pins = s.pins := rfl
@[simp] theorem State.modDraw_tlb (s : State) (k : Nat) (f : DrawUnit → DrawUnit) : (s.modDraw k f).tlb = s.tlb := rfl
@[simp] theorem State.modDraw_icache (s : State) (k : Nat) (f : DrawUnit → DrawUnit) : (s.modDraw k f).icache = s.icache := rfl
@[simp] theorem State.modDraw_tagrecs (s : State) (k : Nat) (f : DrawUnit → DrawUnit) : (s.modDraw k f).tagrecs = s.tagrecs := rfl
@[simp] theorem State.modDraw_redirect (s : State) (k : Nat) (f : DrawUnit → DrawUnit) : (s.modDraw k f).redirect = s.redirect := rfl
@[simp] theorem State.modDraw_retired (s : State) (k : Nat) (f : DrawUnit → DrawUnit) : (s.modDraw k f).retired = s.retired := rfl
@[simp] theorem State.modDraw_waves (s : State) (k : Nat) (f : DrawUnit → DrawUnit) : (s.modDraw k f).waves = s.waves := rfl
@[simp] theorem State.modDraw_wgs (s : State) (k : Nat) (f : DrawUnit → DrawUnit) : (s.modDraw k f).wgs = s.wgs := rfl
@[simp] theorem State.modDraw_gangs (s : State) (k : Nat) (f : DrawUnit → DrawUnit) : (s.modDraw k f).gangs = s.gangs := rfl
@[simp] theorem State.modDraw_launches (s : State) (k : Nat) (f : DrawUnit → DrawUnit) : (s.modDraw k f).launches = s.launches := rfl
@[simp] theorem State.modDraw_draws (s : State) (k : Nat) (f : DrawUnit → DrawUnit) : (s.modDraw k f).draws = amod s.draws k f := rfl
@[simp] theorem State.modDraw_recs (s : State) (k : Nat) (f : DrawUnit → DrawUnit) : (s.modDraw k f).recs = s.recs := rfl
@[simp] theorem State.modDraw_lanterns (s : State) (k : Nat) (f : DrawUnit → DrawUnit) : (s.modDraw k f).lanterns = s.lanterns := rfl
@[simp] theorem State.modDraw_settling (s : State) (k : Nat) (f : DrawUnit → DrawUnit) : (s.modDraw k f).settling = s.settling := rfl
@[simp] theorem State.modDraw_ctxs (s : State) (k : Nat) (f : DrawUnit → DrawUnit) : (s.modDraw k f).ctxs = s.ctxs := rfl
@[simp] theorem State.modDraw_pending (s : State) (k : Nat) (f : DrawUnit → DrawUnit) : (s.modDraw k f).pending = s.pending := rfl
@[simp] theorem State.modDraw_ended (s : State) (k : Nat) (f : DrawUnit → DrawUnit) : (s.modDraw k f).ended = s.ended := rfl
@[simp] theorem State.modDraw_windows (s : State) (k : Nat) (f : DrawUnit → DrawUnit) : (s.modDraw k f).windows = s.windows := rfl
@[simp] theorem State.modDraw_freezes (s : State) (k : Nat) (f : DrawUnit → DrawUnit) : (s.modDraw k f).freezes = s.freezes := rfl
@[simp] theorem State.modDraw_saves (s : State) (k : Nat) (f : DrawUnit → DrawUnit) : (s.modDraw k f).saves = s.saves := rfl
@[simp] theorem State.modDraw_parts (s : State) (k : Nat) (f : DrawUnit → DrawUnit) : (s.modDraw k f).parts = s.parts := rfl
@[simp] theorem State.modDraw_oldLevels (s : State) (k : Nat) (f : DrawUnit → DrawUnit) : (s.modDraw k f).oldLevels = s.oldLevels := rfl
@[simp] theorem State.modDraw_dev (s : State) (k : Nat) (f : DrawUnit → DrawUnit) : (s.modDraw k f).dev = s.dev := rfl
@[simp] theorem State.modDraw_out (s : State) (k : Nat) (f : DrawUnit → DrawUnit) : (s.modDraw k f).out = s.out := rfl
@[simp] theorem State.modDraw_issued (s : State) (k : Nat) (f : DrawUnit → DrawUnit) : (s.modDraw k f).issued = s.issued := rfl
@[simp] theorem State.modDraw_nextKey (s : State) (k : Nat) (f : DrawUnit → DrawUnit) : (s.modDraw k f).nextKey = s.nextKey := rfl
@[simp] theorem State.modDraw_agenda (s : State) (k : Nat) (f : DrawUnit → DrawUnit) : (s.modDraw k f).agenda = s.agenda := rfl
@[simp] theorem State.modDraw_freeCtr (s : State) (k : Nat) (f : DrawUnit → DrawUnit) : (s.modDraw k f).freeCtr = s.freeCtr := rfl
@[simp] theorem State.modDraw_cur (s : State) (k : Nat) (f : DrawUnit → DrawUnit) : (s.modDraw k f).cur = s.cur := rfl

@[simp] theorem State.modCtx_mem (s : State) (k : Nat) (f : Ctx → Ctx) : (s.modCtx k f).mem = s.mem := rfl
@[simp] theorem State.modCtx_btags (s : State) (k : Nat) (f : Ctx → Ctx) : (s.modCtx k f).btags = s.btags := rfl
@[simp] theorem State.modCtx_descs (s : State) (k : Nat) (f : Ctx → Ctx) : (s.modCtx k f).descs = s.descs := rfl
@[simp] theorem State.modCtx_vers (s : State) (k : Nat) (f : Ctx → Ctx) : (s.modCtx k f).vers = s.vers := rfl
@[simp] theorem State.modCtx_bad (s : State) (k : Nat) (f : Ctx → Ctx) : (s.modCtx k f).bad = s.bad := rfl
@[simp] theorem State.modCtx_keyed (s : State) (k : Nat) (f : Ctx → Ctx) : (s.modCtx k f).keyed = s.keyed := rfl
@[simp] theorem State.modCtx_wiped (s : State) (k : Nat) (f : Ctx → Ctx) : (s.modCtx k f).wiped = s.wiped := rfl
@[simp] theorem State.modCtx_hidden (s : State) (k : Nat) (f : Ctx → Ctx) : (s.modCtx k f).hidden = s.hidden := rfl
@[simp] theorem State.modCtx_pins (s : State) (k : Nat) (f : Ctx → Ctx) : (s.modCtx k f).pins = s.pins := rfl
@[simp] theorem State.modCtx_tlb (s : State) (k : Nat) (f : Ctx → Ctx) : (s.modCtx k f).tlb = s.tlb := rfl
@[simp] theorem State.modCtx_icache (s : State) (k : Nat) (f : Ctx → Ctx) : (s.modCtx k f).icache = s.icache := rfl
@[simp] theorem State.modCtx_tagrecs (s : State) (k : Nat) (f : Ctx → Ctx) : (s.modCtx k f).tagrecs = s.tagrecs := rfl
@[simp] theorem State.modCtx_redirect (s : State) (k : Nat) (f : Ctx → Ctx) : (s.modCtx k f).redirect = s.redirect := rfl
@[simp] theorem State.modCtx_retired (s : State) (k : Nat) (f : Ctx → Ctx) : (s.modCtx k f).retired = s.retired := rfl
@[simp] theorem State.modCtx_waves (s : State) (k : Nat) (f : Ctx → Ctx) : (s.modCtx k f).waves = s.waves := rfl
@[simp] theorem State.modCtx_wgs (s : State) (k : Nat) (f : Ctx → Ctx) : (s.modCtx k f).wgs = s.wgs := rfl
@[simp] theorem State.modCtx_gangs (s : State) (k : Nat) (f : Ctx → Ctx) : (s.modCtx k f).gangs = s.gangs := rfl
@[simp] theorem State.modCtx_launches (s : State) (k : Nat) (f : Ctx → Ctx) : (s.modCtx k f).launches = s.launches := rfl
@[simp] theorem State.modCtx_draws (s : State) (k : Nat) (f : Ctx → Ctx) : (s.modCtx k f).draws = s.draws := rfl
@[simp] theorem State.modCtx_recs (s : State) (k : Nat) (f : Ctx → Ctx) : (s.modCtx k f).recs = s.recs := rfl
@[simp] theorem State.modCtx_lanterns (s : State) (k : Nat) (f : Ctx → Ctx) : (s.modCtx k f).lanterns = s.lanterns := rfl
@[simp] theorem State.modCtx_settling (s : State) (k : Nat) (f : Ctx → Ctx) : (s.modCtx k f).settling = s.settling := rfl
@[simp] theorem State.modCtx_ctxs (s : State) (k : Nat) (f : Ctx → Ctx) : (s.modCtx k f).ctxs = amod s.ctxs k f := rfl
@[simp] theorem State.modCtx_pending (s : State) (k : Nat) (f : Ctx → Ctx) : (s.modCtx k f).pending = s.pending := rfl
@[simp] theorem State.modCtx_ended (s : State) (k : Nat) (f : Ctx → Ctx) : (s.modCtx k f).ended = s.ended := rfl
@[simp] theorem State.modCtx_windows (s : State) (k : Nat) (f : Ctx → Ctx) : (s.modCtx k f).windows = s.windows := rfl
@[simp] theorem State.modCtx_freezes (s : State) (k : Nat) (f : Ctx → Ctx) : (s.modCtx k f).freezes = s.freezes := rfl
@[simp] theorem State.modCtx_saves (s : State) (k : Nat) (f : Ctx → Ctx) : (s.modCtx k f).saves = s.saves := rfl
@[simp] theorem State.modCtx_parts (s : State) (k : Nat) (f : Ctx → Ctx) : (s.modCtx k f).parts = s.parts := rfl
@[simp] theorem State.modCtx_oldLevels (s : State) (k : Nat) (f : Ctx → Ctx) : (s.modCtx k f).oldLevels = s.oldLevels := rfl
@[simp] theorem State.modCtx_dev (s : State) (k : Nat) (f : Ctx → Ctx) : (s.modCtx k f).dev = s.dev := rfl
@[simp] theorem State.modCtx_out (s : State) (k : Nat) (f : Ctx → Ctx) : (s.modCtx k f).out = s.out := rfl
@[simp] theorem State.modCtx_issued (s : State) (k : Nat) (f : Ctx → Ctx) : (s.modCtx k f).issued = s.issued := rfl
@[simp] theorem State.modCtx_nextKey (s : State) (k : Nat) (f : Ctx → Ctx) : (s.modCtx k f).nextKey = s.nextKey := rfl
@[simp] theorem State.modCtx_agenda (s : State) (k : Nat) (f : Ctx → Ctx) : (s.modCtx k f).agenda = s.agenda := rfl
@[simp] theorem State.modCtx_freeCtr (s : State) (k : Nat) (f : Ctx → Ctx) : (s.modCtx k f).freeCtr = s.freeCtr := rfl
@[simp] theorem State.modCtx_cur (s : State) (k : Nat) (f : Ctx → Ctx) : (s.modCtx k f).cur = s.cur := rfl

@[simp] theorem State.modLantern_mem (s : State) (k : Nat) (f : Lantern → Lantern) : (s.modLantern k f).mem = s.mem := rfl
@[simp] theorem State.modLantern_btags (s : State) (k : Nat) (f : Lantern → Lantern) : (s.modLantern k f).btags = s.btags := rfl
@[simp] theorem State.modLantern_descs (s : State) (k : Nat) (f : Lantern → Lantern) : (s.modLantern k f).descs = s.descs := rfl
@[simp] theorem State.modLantern_vers (s : State) (k : Nat) (f : Lantern → Lantern) : (s.modLantern k f).vers = s.vers := rfl
@[simp] theorem State.modLantern_bad (s : State) (k : Nat) (f : Lantern → Lantern) : (s.modLantern k f).bad = s.bad := rfl
@[simp] theorem State.modLantern_keyed (s : State) (k : Nat) (f : Lantern → Lantern) : (s.modLantern k f).keyed = s.keyed := rfl
@[simp] theorem State.modLantern_wiped (s : State) (k : Nat) (f : Lantern → Lantern) : (s.modLantern k f).wiped = s.wiped := rfl
@[simp] theorem State.modLantern_hidden (s : State) (k : Nat) (f : Lantern → Lantern) : (s.modLantern k f).hidden = s.hidden := rfl
@[simp] theorem State.modLantern_pins (s : State) (k : Nat) (f : Lantern → Lantern) : (s.modLantern k f).pins = s.pins := rfl
@[simp] theorem State.modLantern_tlb (s : State) (k : Nat) (f : Lantern → Lantern) : (s.modLantern k f).tlb = s.tlb := rfl
@[simp] theorem State.modLantern_icache (s : State) (k : Nat) (f : Lantern → Lantern) : (s.modLantern k f).icache = s.icache := rfl
@[simp] theorem State.modLantern_tagrecs (s : State) (k : Nat) (f : Lantern → Lantern) : (s.modLantern k f).tagrecs = s.tagrecs := rfl
@[simp] theorem State.modLantern_redirect (s : State) (k : Nat) (f : Lantern → Lantern) : (s.modLantern k f).redirect = s.redirect := rfl
@[simp] theorem State.modLantern_retired (s : State) (k : Nat) (f : Lantern → Lantern) : (s.modLantern k f).retired = s.retired := rfl
@[simp] theorem State.modLantern_waves (s : State) (k : Nat) (f : Lantern → Lantern) : (s.modLantern k f).waves = s.waves := rfl
@[simp] theorem State.modLantern_wgs (s : State) (k : Nat) (f : Lantern → Lantern) : (s.modLantern k f).wgs = s.wgs := rfl
@[simp] theorem State.modLantern_gangs (s : State) (k : Nat) (f : Lantern → Lantern) : (s.modLantern k f).gangs = s.gangs := rfl
@[simp] theorem State.modLantern_launches (s : State) (k : Nat) (f : Lantern → Lantern) : (s.modLantern k f).launches = s.launches := rfl
@[simp] theorem State.modLantern_draws (s : State) (k : Nat) (f : Lantern → Lantern) : (s.modLantern k f).draws = s.draws := rfl
@[simp] theorem State.modLantern_recs (s : State) (k : Nat) (f : Lantern → Lantern) : (s.modLantern k f).recs = s.recs := rfl
@[simp] theorem State.modLantern_lanterns (s : State) (k : Nat) (f : Lantern → Lantern) : (s.modLantern k f).lanterns = lmod s.lanterns k f := rfl
@[simp] theorem State.modLantern_settling (s : State) (k : Nat) (f : Lantern → Lantern) : (s.modLantern k f).settling = s.settling := rfl
@[simp] theorem State.modLantern_ctxs (s : State) (k : Nat) (f : Lantern → Lantern) : (s.modLantern k f).ctxs = s.ctxs := rfl
@[simp] theorem State.modLantern_pending (s : State) (k : Nat) (f : Lantern → Lantern) : (s.modLantern k f).pending = s.pending := rfl
@[simp] theorem State.modLantern_ended (s : State) (k : Nat) (f : Lantern → Lantern) : (s.modLantern k f).ended = s.ended := rfl
@[simp] theorem State.modLantern_windows (s : State) (k : Nat) (f : Lantern → Lantern) : (s.modLantern k f).windows = s.windows := rfl
@[simp] theorem State.modLantern_freezes (s : State) (k : Nat) (f : Lantern → Lantern) : (s.modLantern k f).freezes = s.freezes := rfl
@[simp] theorem State.modLantern_saves (s : State) (k : Nat) (f : Lantern → Lantern) : (s.modLantern k f).saves = s.saves := rfl
@[simp] theorem State.modLantern_parts (s : State) (k : Nat) (f : Lantern → Lantern) : (s.modLantern k f).parts = s.parts := rfl
@[simp] theorem State.modLantern_oldLevels (s : State) (k : Nat) (f : Lantern → Lantern) : (s.modLantern k f).oldLevels = s.oldLevels := rfl
@[simp] theorem State.modLantern_dev (s : State) (k : Nat) (f : Lantern → Lantern) : (s.modLantern k f).dev = s.dev := rfl
@[simp] theorem State.modLantern_out (s : State) (k : Nat) (f : Lantern → Lantern) : (s.modLantern k f).out = s.out := rfl
@[simp] theorem State.modLantern_issued (s : State) (k : Nat) (f : Lantern → Lantern) : (s.modLantern k f).issued = s.issued := rfl
@[simp] theorem State.modLantern_nextKey (s : State) (k : Nat) (f : Lantern → Lantern) : (s.modLantern k f).nextKey = s.nextKey := rfl
@[simp] theorem State.modLantern_agenda (s : State) (k : Nat) (f : Lantern → Lantern) : (s.modLantern k f).agenda = s.agenda := rfl
@[simp] theorem State.modLantern_freeCtr (s : State) (k : Nat) (f : Lantern → Lantern) : (s.modLantern k f).freeCtr = s.freeCtr := rfl
@[simp] theorem State.modLantern_cur (s : State) (k : Nat) (f : Lantern → Lantern) : (s.modLantern k f).cur = s.cur := rfl

@[simp] theorem State.modPart_mem (s : State) (k : Nat) (f : Partition → Partition) : (s.modPart k f).mem = s.mem := rfl
@[simp] theorem State.modPart_btags (s : State) (k : Nat) (f : Partition → Partition) : (s.modPart k f).btags = s.btags := rfl
@[simp] theorem State.modPart_descs (s : State) (k : Nat) (f : Partition → Partition) : (s.modPart k f).descs = s.descs := rfl
@[simp] theorem State.modPart_vers (s : State) (k : Nat) (f : Partition → Partition) : (s.modPart k f).vers = s.vers := rfl
@[simp] theorem State.modPart_bad (s : State) (k : Nat) (f : Partition → Partition) : (s.modPart k f).bad = s.bad := rfl
@[simp] theorem State.modPart_keyed (s : State) (k : Nat) (f : Partition → Partition) : (s.modPart k f).keyed = s.keyed := rfl
@[simp] theorem State.modPart_wiped (s : State) (k : Nat) (f : Partition → Partition) : (s.modPart k f).wiped = s.wiped := rfl
@[simp] theorem State.modPart_hidden (s : State) (k : Nat) (f : Partition → Partition) : (s.modPart k f).hidden = s.hidden := rfl
@[simp] theorem State.modPart_pins (s : State) (k : Nat) (f : Partition → Partition) : (s.modPart k f).pins = s.pins := rfl
@[simp] theorem State.modPart_tlb (s : State) (k : Nat) (f : Partition → Partition) : (s.modPart k f).tlb = s.tlb := rfl
@[simp] theorem State.modPart_icache (s : State) (k : Nat) (f : Partition → Partition) : (s.modPart k f).icache = s.icache := rfl
@[simp] theorem State.modPart_tagrecs (s : State) (k : Nat) (f : Partition → Partition) : (s.modPart k f).tagrecs = s.tagrecs := rfl
@[simp] theorem State.modPart_redirect (s : State) (k : Nat) (f : Partition → Partition) : (s.modPart k f).redirect = s.redirect := rfl
@[simp] theorem State.modPart_retired (s : State) (k : Nat) (f : Partition → Partition) : (s.modPart k f).retired = s.retired := rfl
@[simp] theorem State.modPart_waves (s : State) (k : Nat) (f : Partition → Partition) : (s.modPart k f).waves = s.waves := rfl
@[simp] theorem State.modPart_wgs (s : State) (k : Nat) (f : Partition → Partition) : (s.modPart k f).wgs = s.wgs := rfl
@[simp] theorem State.modPart_gangs (s : State) (k : Nat) (f : Partition → Partition) : (s.modPart k f).gangs = s.gangs := rfl
@[simp] theorem State.modPart_launches (s : State) (k : Nat) (f : Partition → Partition) : (s.modPart k f).launches = s.launches := rfl
@[simp] theorem State.modPart_draws (s : State) (k : Nat) (f : Partition → Partition) : (s.modPart k f).draws = s.draws := rfl
@[simp] theorem State.modPart_recs (s : State) (k : Nat) (f : Partition → Partition) : (s.modPart k f).recs = s.recs := rfl
@[simp] theorem State.modPart_lanterns (s : State) (k : Nat) (f : Partition → Partition) : (s.modPart k f).lanterns = s.lanterns := rfl
@[simp] theorem State.modPart_settling (s : State) (k : Nat) (f : Partition → Partition) : (s.modPart k f).settling = s.settling := rfl
@[simp] theorem State.modPart_ctxs (s : State) (k : Nat) (f : Partition → Partition) : (s.modPart k f).ctxs = s.ctxs := rfl
@[simp] theorem State.modPart_pending (s : State) (k : Nat) (f : Partition → Partition) : (s.modPart k f).pending = s.pending := rfl
@[simp] theorem State.modPart_ended (s : State) (k : Nat) (f : Partition → Partition) : (s.modPart k f).ended = s.ended := rfl
@[simp] theorem State.modPart_windows (s : State) (k : Nat) (f : Partition → Partition) : (s.modPart k f).windows = s.windows := rfl
@[simp] theorem State.modPart_freezes (s : State) (k : Nat) (f : Partition → Partition) : (s.modPart k f).freezes = s.freezes := rfl
@[simp] theorem State.modPart_saves (s : State) (k : Nat) (f : Partition → Partition) : (s.modPart k f).saves = s.saves := rfl
@[simp] theorem State.modPart_parts (s : State) (k : Nat) (f : Partition → Partition) : (s.modPart k f).parts = lmod s.parts k f := rfl
@[simp] theorem State.modPart_oldLevels (s : State) (k : Nat) (f : Partition → Partition) : (s.modPart k f).oldLevels = s.oldLevels := rfl
@[simp] theorem State.modPart_dev (s : State) (k : Nat) (f : Partition → Partition) : (s.modPart k f).dev = s.dev := rfl
@[simp] theorem State.modPart_out (s : State) (k : Nat) (f : Partition → Partition) : (s.modPart k f).out = s.out := rfl
@[simp] theorem State.modPart_issued (s : State) (k : Nat) (f : Partition → Partition) : (s.modPart k f).issued = s.issued := rfl
@[simp] theorem State.modPart_nextKey (s : State) (k : Nat) (f : Partition → Partition) : (s.modPart k f).nextKey = s.nextKey := rfl
@[simp] theorem State.modPart_agenda (s : State) (k : Nat) (f : Partition → Partition) : (s.modPart k f).agenda = s.agenda := rfl
@[simp] theorem State.modPart_freeCtr (s : State) (k : Nat) (f : Partition → Partition) : (s.modPart k f).freeCtr = s.freeCtr := rfl
@[simp] theorem State.modPart_cur (s : State) (k : Nat) (f : Partition → Partition) : (s.modPart k f).cur = s.cur := rfl

@[simp] theorem State.emit_mem (s : State) (o : Out) : (s.emit o).mem = s.mem := rfl
@[simp] theorem State.emit_btags (s : State) (o : Out) : (s.emit o).btags = s.btags := rfl
@[simp] theorem State.emit_descs (s : State) (o : Out) : (s.emit o).descs = s.descs := rfl
@[simp] theorem State.emit_vers (s : State) (o : Out) : (s.emit o).vers = s.vers := rfl
@[simp] theorem State.emit_bad (s : State) (o : Out) : (s.emit o).bad = s.bad := rfl
@[simp] theorem State.emit_keyed (s : State) (o : Out) : (s.emit o).keyed = s.keyed := rfl
@[simp] theorem State.emit_wiped (s : State) (o : Out) : (s.emit o).wiped = s.wiped := rfl
@[simp] theorem State.emit_hidden (s : State) (o : Out) : (s.emit o).hidden = s.hidden := rfl
@[simp] theorem State.emit_pins (s : State) (o : Out) : (s.emit o).pins = s.pins := rfl
@[simp] theorem State.emit_tlb (s : State) (o : Out) : (s.emit o).tlb = s.tlb := rfl
@[simp] theorem State.emit_icache (s : State) (o : Out) : (s.emit o).icache = s.icache := rfl
@[simp] theorem State.emit_tagrecs (s : State) (o : Out) : (s.emit o).tagrecs = s.tagrecs := rfl
@[simp] theorem State.emit_redirect (s : State) (o : Out) : (s.emit o).redirect = s.redirect := rfl
@[simp] theorem State.emit_retired (s : State) (o : Out) : (s.emit o).retired = s.retired := rfl
@[simp] theorem State.emit_waves (s : State) (o : Out) : (s.emit o).waves = s.waves := rfl
@[simp] theorem State.emit_wgs (s : State) (o : Out) : (s.emit o).wgs = s.wgs := rfl
@[simp] theorem State.emit_gangs (s : State) (o : Out) : (s.emit o).gangs = s.gangs := rfl
@[simp] theorem State.emit_launches (s : State) (o : Out) : (s.emit o).launches = s.launches := rfl
@[simp] theorem State.emit_draws (s : State) (o : Out) : (s.emit o).draws = s.draws := rfl
@[simp] theorem State.emit_recs (s : State) (o : Out) : (s.emit o).recs = s.recs := rfl
@[simp] theorem State.emit_lanterns (s : State) (o : Out) : (s.emit o).lanterns = s.lanterns := rfl
@[simp] theorem State.emit_settling (s : State) (o : Out) : (s.emit o).settling = s.settling := rfl
@[simp] theorem State.emit_ctxs (s : State) (o : Out) : (s.emit o).ctxs = s.ctxs := rfl
@[simp] theorem State.emit_pending (s : State) (o : Out) : (s.emit o).pending = s.pending := rfl
@[simp] theorem State.emit_ended (s : State) (o : Out) : (s.emit o).ended = s.ended := rfl
@[simp] theorem State.emit_windows (s : State) (o : Out) : (s.emit o).windows = s.windows := rfl
@[simp] theorem State.emit_freezes (s : State) (o : Out) : (s.emit o).freezes = s.freezes := rfl
@[simp] theorem State.emit_saves (s : State) (o : Out) : (s.emit o).saves = s.saves := rfl
@[simp] theorem State.emit_parts (s : State) (o : Out) : (s.emit o).parts = s.parts := rfl
@[simp] theorem State.emit_oldLevels (s : State) (o : Out) : (s.emit o).oldLevels = s.oldLevels := rfl
@[simp] theorem State.emit_dev (s : State) (o : Out) : (s.emit o).dev = s.dev := rfl
@[simp] theorem State.emit_out (s : State) (o : Out) : (s.emit o).out = s.out ++ [o] := rfl
@[simp] theorem State.emit_issued (s : State) (o : Out) : (s.emit o).issued = s.issued := rfl
@[simp] theorem State.emit_nextKey (s : State) (o : Out) : (s.emit o).nextKey = s.nextKey := rfl
@[simp] theorem State.emit_agenda (s : State) (o : Out) : (s.emit o).agenda = s.agenda := rfl
@[simp] theorem State.emit_freeCtr (s : State) (o : Out) : (s.emit o).freeCtr = s.freeCtr := rfl
@[simp] theorem State.emit_cur (s : State) (o : Out) : (s.emit o).cur = s.cur := rfl

@[simp] theorem State.useFree_mem (s : State) : (s.useFree).mem = s.mem := rfl
@[simp] theorem State.useFree_btags (s : State) : (s.useFree).btags = s.btags := rfl
@[simp] theorem State.useFree_descs (s : State) : (s.useFree).descs = s.descs := rfl
@[simp] theorem State.useFree_vers (s : State) : (s.useFree).vers = s.vers := rfl
@[simp] theorem State.useFree_bad (s : State) : (s.useFree).bad = s.bad := rfl
@[simp] theorem State.useFree_keyed (s : State) : (s.useFree).keyed = s.keyed := rfl
@[simp] theorem State.useFree_wiped (s : State) : (s.useFree).wiped = s.wiped := rfl
@[simp] theorem State.useFree_hidden (s : State) : (s.useFree).hidden = s.hidden := rfl
@[simp] theorem State.useFree_pins (s : State) : (s.useFree).pins = s.pins := rfl
@[simp] theorem State.useFree_tlb (s : State) : (s.useFree).tlb = s.tlb := rfl
@[simp] theorem State.useFree_icache (s : State) : (s.useFree).icache = s.icache := rfl
@[simp] theorem State.useFree_tagrecs (s : State) : (s.useFree).tagrecs = s.tagrecs := rfl
@[simp] theorem State.useFree_redirect (s : State) : (s.useFree).redirect = s.redirect := rfl
@[simp] theorem State.useFree_retired (s : State) : (s.useFree).retired = s.retired := rfl
@[simp] theorem State.useFree_waves (s : State) : (s.useFree).waves = s.waves := rfl
@[simp] theorem State.useFree_wgs (s : State) : (s.useFree).wgs = s.wgs := rfl
@[simp] theorem State.useFree_gangs (s : State) : (s.useFree).gangs = s.gangs := rfl
@[simp] theorem State.useFree_launches (s : State) : (s.useFree).launches = s.launches := rfl
@[simp] theorem State.useFree_draws (s : State) : (s.useFree).draws = s.draws := rfl
@[simp] theorem State.useFree_recs (s : State) : (s.useFree).recs = s.recs := rfl
@[simp] theorem State.useFree_lanterns (s : State) : (s.useFree).lanterns = s.lanterns := rfl
@[simp] theorem State.useFree_settling (s : State) : (s.useFree).settling = s.settling := rfl
@[simp] theorem State.useFree_ctxs (s : State) : (s.useFree).ctxs = s.ctxs := rfl
@[simp] theorem State.useFree_pending (s : State) : (s.useFree).pending = s.pending := rfl
@[simp] theorem State.useFree_ended (s : State) : (s.useFree).ended = s.ended := rfl
@[simp] theorem State.useFree_windows (s : State) : (s.useFree).windows = s.windows := rfl
@[simp] theorem State.useFree_freezes (s : State) : (s.useFree).freezes = s.freezes := rfl
@[simp] theorem State.useFree_saves (s : State) : (s.useFree).saves = s.saves := rfl
@[simp] theorem State.useFree_parts (s : State) : (s.useFree).parts = s.parts := rfl
@[simp] theorem State.useFree_oldLevels (s : State) : (s.useFree).oldLevels = s.oldLevels := rfl
@[simp] theorem State.useFree_dev (s : State) : (s.useFree).dev = s.dev := rfl
@[simp] theorem State.useFree_out (s : State) : (s.useFree).out = s.out := rfl
@[simp] theorem State.useFree_issued (s : State) : (s.useFree).issued = s.issued := rfl
@[simp] theorem State.useFree_nextKey (s : State) : (s.useFree).nextKey = s.nextKey := rfl
@[simp] theorem State.useFree_agenda (s : State) : (s.useFree).agenda = s.agenda := rfl
@[simp] theorem State.useFree_freeCtr (s : State) : (s.useFree).freeCtr = s.freeCtr + 2 ^ 20 := rfl
@[simp] theorem State.useFree_cur (s : State) : (s.useFree).cur = s.cur := rfl

@[simp] theorem State.count_mem (s : State) (n : Nat) : (s.count n).mem = s.mem := rfl
@[simp] theorem State.count_btags (s : State) (n : Nat) : (s.count n).btags = s.btags := rfl
@[simp] theorem State.count_descs (s : State) (n : Nat) : (s.count n).descs = s.descs := rfl
@[simp] theorem State.count_vers (s : State) (n : Nat) : (s.count n).vers = s.vers := rfl
@[simp] theorem State.count_bad (s : State) (n : Nat) : (s.count n).bad = s.bad := rfl
@[simp] theorem State.count_keyed (s : State) (n : Nat) : (s.count n).keyed = s.keyed := rfl
@[simp] theorem State.count_wiped (s : State) (n : Nat) : (s.count n).wiped = s.wiped := rfl
@[simp] theorem State.count_hidden (s : State) (n : Nat) : (s.count n).hidden = s.hidden := rfl
@[simp] theorem State.count_pins (s : State) (n : Nat) : (s.count n).pins = s.pins := rfl
@[simp] theorem State.count_tlb (s : State) (n : Nat) : (s.count n).tlb = s.tlb := rfl
@[simp] theorem State.count_icache (s : State) (n : Nat) : (s.count n).icache = s.icache := rfl
@[simp] theorem State.count_tagrecs (s : State) (n : Nat) : (s.count n).tagrecs = s.tagrecs := rfl
@[simp] theorem State.count_redirect (s : State) (n : Nat) : (s.count n).redirect = s.redirect := rfl
@[simp] theorem State.count_retired (s : State) (n : Nat) : (s.count n).retired = s.retired := rfl
@[simp] theorem State.count_waves (s : State) (n : Nat) : (s.count n).waves = s.waves := rfl
@[simp] theorem State.count_wgs (s : State) (n : Nat) : (s.count n).wgs = s.wgs := rfl
@[simp] theorem State.count_gangs (s : State) (n : Nat) : (s.count n).gangs = s.gangs := rfl
@[simp] theorem State.count_launches (s : State) (n : Nat) : (s.count n).launches = s.launches := rfl
@[simp] theorem State.count_draws (s : State) (n : Nat) : (s.count n).draws = s.draws := rfl
@[simp] theorem State.count_recs (s : State) (n : Nat) : (s.count n).recs = s.recs := rfl
@[simp] theorem State.count_lanterns (s : State) (n : Nat) : (s.count n).lanterns = s.lanterns := rfl
@[simp] theorem State.count_settling (s : State) (n : Nat) : (s.count n).settling = s.settling := rfl
@[simp] theorem State.count_ctxs (s : State) (n : Nat) : (s.count n).ctxs = s.ctxs := rfl
@[simp] theorem State.count_pending (s : State) (n : Nat) : (s.count n).pending = s.pending := rfl
@[simp] theorem State.count_ended (s : State) (n : Nat) : (s.count n).ended = s.ended := rfl
@[simp] theorem State.count_windows (s : State) (n : Nat) : (s.count n).windows = s.windows := rfl
@[simp] theorem State.count_freezes (s : State) (n : Nat) : (s.count n).freezes = s.freezes := rfl
@[simp] theorem State.count_saves (s : State) (n : Nat) : (s.count n).saves = s.saves := rfl
@[simp] theorem State.count_parts (s : State) (n : Nat) : (s.count n).parts = s.parts := rfl
@[simp] theorem State.count_oldLevels (s : State) (n : Nat) : (s.count n).oldLevels = s.oldLevels := rfl
@[simp] theorem State.count_out (s : State) (n : Nat) : (s.count n).out = s.out := rfl
@[simp] theorem State.count_issued (s : State) (n : Nat) : (s.count n).issued = s.issued := rfl
@[simp] theorem State.count_nextKey (s : State) (n : Nat) : (s.count n).nextKey = s.nextKey := rfl
@[simp] theorem State.count_agenda (s : State) (n : Nat) : (s.count n).agenda = s.agenda := rfl
@[simp] theorem State.count_freeCtr (s : State) (n : Nat) : (s.count n).freeCtr = s.freeCtr := rfl
@[simp] theorem State.count_cur (s : State) (n : Nat) : (s.count n).cur = s.cur := rfl

/-! ### Look-ups after an update -/

@[simp] theorem State.wave?_modWave_same (s : State) (k : Nat) (f : Wave → Wave) : (s.modWave k f).wave? k = (s.wave? k).map f :=
  aget?_amod_same _ _ _
theorem State.wave?_modWave_other (s : State) (k j : Nat) (f : Wave → Wave) (h : j ≠ k) : (s.modWave k f).wave? j = s.wave? j :=
  aget?_amod_other _ _ _ _ h
@[simp] theorem State.wave?_setWave_same (s : State) (k : Nat) (w : Wave) : (s.setWave k w).wave? k = some w :=
  aget?_aset_same _ _ _
theorem State.wave?_setWave_other (s : State) (k j : Nat) (w : Wave) (h : j ≠ k) : (s.setWave k w).wave? j = s.wave? j :=
  aget?_aset_other _ _ _ _ h
@[simp] theorem State.wave?_modWg (s : State) (k : Nat) (f : Workgroup → Workgroup) (j : Nat) : (s.modWg k f).wave? j = s.wave? j := rfl
@[simp] theorem State.wave?_modGang (s : State) (k : Nat) (f : Gang → Gang) (j : Nat) : (s.modGang k f).wave? j = s.wave? j := rfl
@[simp] theorem State.wave?_modLaunch (s : State) (k : Nat) (f : Launch → Launch) (j : Nat) : (s.modLaunch k f).wave? j = s.wave? j := rfl
@[simp] theorem State.wave?_modDraw (s : State) (k : Nat) (f : DrawUnit → DrawUnit) (j : Nat) : (s.modDraw k f).wave? j = s.wave? j := rfl
@[simp] theorem State.wave?_modCtx (s : State) (k : Nat) (f : Ctx → Ctx) (j : Nat) : (s.modCtx k f).wave? j = s.wave? j := rfl
@[simp] theorem State.wave?_modLantern (s : State) (k : Nat) (f : Lantern → Lantern) (j : Nat) : (s.modLantern k f).wave? j = s.wave? j := rfl
@[simp] theorem State.wave?_modPart (s : State) (k : Nat) (f : Partition → Partition) (j : Nat) : (s.modPart k f).wave? j = s.wave? j := rfl
@[simp] theorem State.wave?_emit (s : State) (o : Out) (j : Nat) : (s.emit o).wave? j = s.wave? j := rfl
@[simp] theorem State.wave?_useFree (s : State) (j : Nat) : (s.useFree).wave? j = s.wave? j := rfl
@[simp] theorem State.wave?_count (s : State) (n : Nat) (j : Nat) : (s.count n).wave? j = s.wave? j := rfl

@[simp] theorem State.wg?_modWave (s : State) (k : Nat) (f : Wave → Wave) (j : Nat) : (s.modWave k f).wg? j = s.wg? j := rfl
@[simp] theorem State.wg?_setWave (s : State) (k : Nat) (w : Wave) (j : Nat) : (s.setWave k w).wg? j = s.wg? j := rfl
@[simp] theorem State.wg?_modWg_same (s : State) (k : Nat) (f : Workgroup → Workgroup) : (s.modWg k f).wg? k = (s.wg? k).map f :=
  aget?_amod_same _ _ _
theorem State.wg?_modWg_other (s : State) (k j : Nat) (f : Workgroup → Workgroup) (h : j ≠ k) : (s.modWg k f).wg? j = s.wg? j :=
  aget?_amod_other _ _ _ _ h
@[simp] theorem State.wg?_modGang (s : State) (k : Nat) (f : Gang → Gang) (j : Nat) : (s.modGang k f).wg? j = s.wg? j := rfl
@[simp] theorem State.wg?_modLaunch (s : State) (k : Nat) (f : Launch → Launch) (j : Nat) : (s.modLaunch k f).wg? j = s.wg? j := rfl
@[simp] theorem State.wg?_modDraw (s : State) (k : Nat) (f : DrawUnit → DrawUnit) (j : Nat) : (s.modDraw k f).wg? j = s.wg? j := rfl
@[simp] theorem State.wg?_modCtx (s : State) (k : Nat) (f : Ctx → Ctx) (j : Nat) : (s.modCtx k f).wg? j = s.wg? j := rfl
@[simp] theorem State.wg?_modLantern (s : State) (k : Nat) (f : Lantern → Lantern) (j : Nat) : (s.modLantern k f).wg? j = s.wg? j := rfl
@[simp] theorem State.wg?_modPart (s : State) (k : Nat) (f : Partition → Partition) (j : Nat) : (s.modPart k f).wg? j = s.wg? j := rfl
@[simp] theorem State.wg?_emit (s : State) (o : Out) (j : Nat) : (s.emit o).wg? j = s.wg? j := rfl
@[simp] theorem State.wg?_useFree (s : State) (j : Nat) : (s.useFree).wg? j = s.wg? j := rfl
@[simp] theorem State.wg?_count (s : State) (n : Nat) (j : Nat) : (s.count n).wg? j = s.wg? j := rfl

@[simp] theorem State.gang?_modWave (s : State) (k : Nat) (f : Wave → Wave) (j : Nat) : (s.modWave k f).gang? j = s.gang? j := rfl
@[simp] theorem State.gang?_setWave (s : State) (k : Nat) (w : Wave) (j : Nat) : (s.setWave k w).gang? j = s.gang? j := rfl
@[simp] theorem State.gang?_modWg (s : State) (k : Nat) (f : Workgroup → Workgroup) (j : Nat) : (s.modWg k f).gang? j = s.gang? j := rfl
@[simp] theorem State.gang?_modGang_same (s : State) (k : Nat) (f : Gang → Gang) : (s.modGang k f).gang? k = (s.gang? k).map f :=
  aget?_amod_same _ _ _
theorem State.gang?_modGang_other (s : State) (k j : Nat) (f : Gang → Gang) (h : j ≠ k) : (s.modGang k f).gang? j = s.gang? j :=
  aget?_amod_other _ _ _ _ h
@[simp] theorem State.gang?_modLaunch (s : State) (k : Nat) (f : Launch → Launch) (j : Nat) : (s.modLaunch k f).gang? j = s.gang? j := rfl
@[simp] theorem State.gang?_modDraw (s : State) (k : Nat) (f : DrawUnit → DrawUnit) (j : Nat) : (s.modDraw k f).gang? j = s.gang? j := rfl
@[simp] theorem State.gang?_modCtx (s : State) (k : Nat) (f : Ctx → Ctx) (j : Nat) : (s.modCtx k f).gang? j = s.gang? j := rfl
@[simp] theorem State.gang?_modLantern (s : State) (k : Nat) (f : Lantern → Lantern) (j : Nat) : (s.modLantern k f).gang? j = s.gang? j := rfl
@[simp] theorem State.gang?_modPart (s : State) (k : Nat) (f : Partition → Partition) (j : Nat) : (s.modPart k f).gang? j = s.gang? j := rfl
@[simp] theorem State.gang?_emit (s : State) (o : Out) (j : Nat) : (s.emit o).gang? j = s.gang? j := rfl
@[simp] theorem State.gang?_useFree (s : State) (j : Nat) : (s.useFree).gang? j = s.gang? j := rfl
@[simp] theorem State.gang?_count (s : State) (n : Nat) (j : Nat) : (s.count n).gang? j = s.gang? j := rfl

@[simp] theorem State.launch?_modWave (s : State) (k : Nat) (f : Wave → Wave) (j : Nat) : (s.modWave k f).launch? j = s.launch? j := rfl
@[simp] theorem State.launch?_setWave (s : State) (k : Nat) (w : Wave) (j : Nat) : (s.setWave k w).launch? j = s.launch? j := rfl
@[simp] theorem State.launch?_modWg (s : State) (k : Nat) (f : Workgroup → Workgroup) (j : Nat) : (s.modWg k f).launch? j = s.launch? j := rfl
@[simp] theorem State.launch?_modGang (s : State) (k : Nat) (f : Gang → Gang) (j : Nat) : (s.modGang k f).launch? j = s.launch? j := rfl
@[simp] theorem State.launch?_modLaunch_same (s : State) (k : Nat) (f : Launch → Launch) : (s.modLaunch k f).launch? k = (s.launch? k).map f :=
  aget?_amod_same _ _ _
theorem State.launch?_modLaunch_other (s : State) (k j : Nat) (f : Launch → Launch) (h : j ≠ k) : (s.modLaunch k f).launch? j = s.launch? j :=
  aget?_amod_other _ _ _ _ h
@[simp] theorem State.launch?_modDraw (s : State) (k : Nat) (f : DrawUnit → DrawUnit) (j : Nat) : (s.modDraw k f).launch? j = s.launch? j := rfl
@[simp] theorem State.launch?_modCtx (s : State) (k : Nat) (f : Ctx → Ctx) (j : Nat) : (s.modCtx k f).launch? j = s.launch? j := rfl
@[simp] theorem State.launch?_modLantern (s : State) (k : Nat) (f : Lantern → Lantern) (j : Nat) : (s.modLantern k f).launch? j = s.launch? j := rfl
@[simp] theorem State.launch?_modPart (s : State) (k : Nat) (f : Partition → Partition) (j : Nat) : (s.modPart k f).launch? j = s.launch? j := rfl
@[simp] theorem State.launch?_emit (s : State) (o : Out) (j : Nat) : (s.emit o).launch? j = s.launch? j := rfl
@[simp] theorem State.launch?_useFree (s : State) (j : Nat) : (s.useFree).launch? j = s.launch? j := rfl
@[simp] theorem State.launch?_count (s : State) (n : Nat) (j : Nat) : (s.count n).launch? j = s.launch? j := rfl

@[simp] theorem State.draw?_modWave (s : State) (k : Nat) (f : Wave → Wave) (j : Nat) : (s.modWave k f).draw? j = s.draw? j := rfl
@[simp] theorem State.draw?_setWave (s : State) (k : Nat) (w : Wave) (j : Nat) : (s.setWave k w).draw? j = s.draw? j := rfl
@[simp] theorem State.draw?_modWg (s : State) (k : Nat) (f : Workgroup → Workgroup) (j : Nat) : (s.modWg k f).draw? j = s.draw? j := rfl
@[simp] theorem State.draw?_modGang (s : State) (k : Nat) (f : Gang → Gang) (j : Nat) : (s.modGang k f).draw? j = s.draw? j := rfl
@[simp] theorem State.draw?_modLaunch (s : State) (k : Nat) (f : Launch → Launch) (j : Nat) : (s.modLaunch k f).draw? j = s.draw? j := rfl
@[simp] theorem State.draw?_modDraw_same (s : State) (k : Nat) (f : DrawUnit → DrawUnit) : (s.modDraw k f).draw? k = (s.draw? k).map f :=
  aget?_amod_same _ _ _
theorem State.draw?_modDraw_other (s : State) (k j : Nat) (f : DrawUnit → DrawUnit) (h : j ≠ k) : (s.modDraw k f).draw? j = s.draw? j :=
  aget?_amod_other _ _ _ _ h
@[simp] theorem State.draw?_modCtx (s : State) (k : Nat) (f : Ctx → Ctx) (j : Nat) : (s.modCtx k f).draw? j = s.draw? j := rfl
@[simp] theorem State.draw?_modLantern (s : State) (k : Nat) (f : Lantern → Lantern) (j : Nat) : (s.modLantern k f).draw? j = s.draw? j := rfl
@[simp] theorem State.draw?_modPart (s : State) (k : Nat) (f : Partition → Partition) (j : Nat) : (s.modPart k f).draw? j = s.draw? j := rfl
@[simp] theorem State.draw?_emit (s : State) (o : Out) (j : Nat) : (s.emit o).draw? j = s.draw? j := rfl
@[simp] theorem State.draw?_useFree (s : State) (j : Nat) : (s.useFree).draw? j = s.draw? j := rfl
@[simp] theorem State.draw?_count (s : State) (n : Nat) (j : Nat) : (s.count n).draw? j = s.draw? j := rfl

@[simp] theorem State.ctx?_modWave (s : State) (k : Nat) (f : Wave → Wave) (j : Nat) : (s.modWave k f).ctx? j = s.ctx? j := rfl
@[simp] theorem State.ctx?_setWave (s : State) (k : Nat) (w : Wave) (j : Nat) : (s.setWave k w).ctx? j = s.ctx? j := rfl
@[simp] theorem State.ctx?_modWg (s : State) (k : Nat) (f : Workgroup → Workgroup) (j : Nat) : (s.modWg k f).ctx? j = s.ctx? j := rfl
@[simp] theorem State.ctx?_modGang (s : State) (k : Nat) (f : Gang → Gang) (j : Nat) : (s.modGang k f).ctx? j = s.ctx? j := rfl
@[simp] theorem State.ctx?_modLaunch (s : State) (k : Nat) (f : Launch → Launch) (j : Nat) : (s.modLaunch k f).ctx? j = s.ctx? j := rfl
@[simp] theorem State.ctx?_modDraw (s : State) (k : Nat) (f : DrawUnit → DrawUnit) (j : Nat) : (s.modDraw k f).ctx? j = s.ctx? j := rfl
@[simp] theorem State.ctx?_modCtx_same (s : State) (k : Nat) (f : Ctx → Ctx) : (s.modCtx k f).ctx? k = (s.ctx? k).map f :=
  aget?_amod_same _ _ _
theorem State.ctx?_modCtx_other (s : State) (k j : Nat) (f : Ctx → Ctx) (h : j ≠ k) : (s.modCtx k f).ctx? j = s.ctx? j :=
  aget?_amod_other _ _ _ _ h
@[simp] theorem State.ctx?_modLantern (s : State) (k : Nat) (f : Lantern → Lantern) (j : Nat) : (s.modLantern k f).ctx? j = s.ctx? j := rfl
@[simp] theorem State.ctx?_modPart (s : State) (k : Nat) (f : Partition → Partition) (j : Nat) : (s.modPart k f).ctx? j = s.ctx? j := rfl
@[simp] theorem State.ctx?_emit (s : State) (o : Out) (j : Nat) : (s.emit o).ctx? j = s.ctx? j := rfl
@[simp] theorem State.ctx?_useFree (s : State) (j : Nat) : (s.useFree).ctx? j = s.ctx? j := rfl
@[simp] theorem State.ctx?_count (s : State) (n : Nat) (j : Nat) : (s.count n).ctx? j = s.ctx? j := rfl

/-! ### Waves -/

@[simp] theorem Wave.modThread_ctx (w : Wave) (k : Nat) (f : Thread → Thread) : (w.modThread k f).ctx = w.ctx := rfl
@[simp] theorem Wave.modThread_slot (w : Wave) (k : Nat) (f : Thread → Thread) : (w.modThread k f).slot = w.slot := rfl
@[simp] theorem Wave.modThread_kind (w : Wave) (k : Nat) (f : Thread → Thread) : (w.modThread k f).kind = w.kind := rfl
@[simp] theorem Wave.modThread_wg (w : Wave) (k : Nat) (f : Thread → Thread) : (w.modThread k f).wg = w.wg := rfl
@[simp] theorem Wave.modThread_idx (w : Wave) (k : Nat) (f : Thread → Thread) : (w.modThread k f).idx = w.idx := rfl
@[simp] theorem Wave.modThread_core (w : Wave) (k : Nat) (f : Thread → Thread) : (w.modThread k f).core = w.core := rfl
@[simp] theorem Wave.modThread_quad (w : Wave) (k : Nat) (f : Thread → Thread) : (w.modThread k f).quad = w.quad := rfl
@[simp] theorem Wave.modThread_rate (w : Wave) (k : Nat) (f : Thread → Thread) : (w.modThread k f).rate = w.rate := rfl
@[simp] theorem Wave.modThread_draw (w : Wave) (k : Nat) (f : Thread → Thread) : (w.modThread k f).draw = w.draw := rfl
@[simp] theorem Wave.modThread_pair (w : Wave) (k : Nat) (f : Thread → Thread) : (w.modThread k f).pair = w.pair := rfl
@[simp] theorem Wave.modThread_threads (w : Wave) (k : Nat) (f : Thread → Thread) : (w.modThread k f).threads = lmod w.threads k f := rfl
@[simp] theorem Wave.modThread_regs (w : Wave) (k : Nat) (f : Thread → Thread) : (w.modThread k f).regs = w.regs := rfl
@[simp] theorem Wave.modThread_tags (w : Wave) (k : Nat) (f : Thread → Thread) : (w.modThread k f).tags = w.tags := rfl
@[simp] theorem Wave.modThread_loaded (w : Wave) (k : Nat) (f : Thread → Thread) : (w.modThread k f).loaded = w.loaded := rfl
@[simp] theorem Wave.modThread_poison (w : Wave) (k : Nat) (f : Thread → Thread) : (w.modThread k f).poison = w.poison := rfl
@[simp] theorem Wave.modThread_fflags (w : Wave) (k : Nat) (f : Thread → Thread) : (w.modThread k f).fflags = w.fflags := rfl
@[simp] theorem Wave.modThread_flying (w : Wave) (k : Nat) (f : Thread → Thread) : (w.modThread k f).flying = w.flying := rfl
@[simp] theorem Wave.modThread_retired (w : Wave) (k : Nat) (f : Thread → Thread) : (w.modThread k f).retired = w.retired := rfl
@[simp] theorem Wave.modThread_acc (w : Wave) (k : Nat) (f : Thread → Thread) : (w.modThread k f).acc = w.acc := rfl
@[simp] theorem Wave.modThread_queues (w : Wave) (k : Nat) (f : Thread → Thread) : (w.modThread k f).queues = w.queues := rfl
@[simp] theorem Wave.modThread_mitten (w : Wave) (k : Nat) (f : Thread → Thread) : (w.modThread k f).mitten = w.mitten := rfl
@[simp] theorem Wave.modThread_seqNext (w : Wave) (k : Nat) (f : Thread → Thread) : (w.modThread k f).seqNext = w.seqNext := rfl
@[simp] theorem Wave.modThread_copySeq (w : Wave) (k : Nat) (f : Thread → Thread) : (w.modThread k f).copySeq = w.copySeq := rfl
@[simp] theorem Wave.modThread_joins (w : Wave) (k : Nat) (f : Thread → Thread) : (w.modThread k f).joins = w.joins := rfl
@[simp] theorem Wave.modThread_exch (w : Wave) (k : Nat) (f : Thread → Thread) : (w.modThread k f).exch = w.exch := rfl
@[simp] theorem Wave.modThread_trap (w : Wave) (k : Nat) (f : Thread → Thread) : (w.modThread k f).trap = w.trap := rfl
@[simp] theorem Wave.modThread_trapbase (w : Wave) (k : Nat) (f : Thread → Thread) : (w.modThread k f).trapbase = w.trapbase := rfl
@[simp] theorem Wave.modThread_latchA (w : Wave) (k : Nat) (f : Thread → Thread) : (w.modThread k f).latchA = w.latchA := rfl
@[simp] theorem Wave.modThread_latchB (w : Wave) (k : Nat) (f : Thread → Thread) : (w.modThread k f).latchB = w.latchB := rfl
@[simp] theorem Wave.modThread_engines (w : Wave) (k : Nat) (f : Thread → Thread) : (w.modThread k f).engines = w.engines := rfl
@[simp] theorem Wave.modThread_owed (w : Wave) (k : Nat) (f : Thread → Thread) : (w.modThread k f).owed = w.owed := rfl
@[simp] theorem Wave.modThread_palm (w : Wave) (k : Nat) (f : Thread → Thread) : (w.modThread k f).palm = w.palm := rfl
@[simp] theorem Wave.modThread_loose (w : Wave) (k : Nat) (f : Thread → Thread) : (w.modThread k f).loose = w.loose := rfl
@[simp] theorem Wave.modThread_fenced (w : Wave) (k : Nat) (f : Thread → Thread) : (w.modThread k f).fenced = w.fenced := rfl
@[simp] theorem Wave.modThread_admitted (w : Wave) (k : Nat) (f : Thread → Thread) : (w.modThread k f).admitted = w.admitted := rfl
@[simp] theorem Wave.modThread_lastLane (w : Wave) (k : Nat) (f : Thread → Thread) : (w.modThread k f).lastLane = w.lastLane := rfl
@[simp] theorem Wave.modThread_readySince (w : Wave) (k : Nat) (f : Thread → Thread) : (w.modThread k f).readySince = w.readySince := rfl
@[simp] theorem Wave.modThread_overdue (w : Wave) (k : Nat) (f : Thread → Thread) : (w.modThread k f).overdue = w.overdue := rfl
@[simp] theorem Wave.modThread_yieldAt (w : Wave) (k : Nat) (f : Thread → Thread) : (w.modThread k f).yieldAt = w.yieldAt := rfl
@[simp] theorem Wave.modThread_frozen (w : Wave) (k : Nat) (f : Thread → Thread) : (w.modThread k f).frozen = w.frozen := rfl
@[simp] theorem Wave.modThread_ended (w : Wave) (k : Nat) (f : Thread → Thread) : (w.modThread k f).ended = w.ended := rfl

@[simp] theorem Wave.setReg_ctx (w : Wave) (r t : Nat) (v : Word) : (w.setReg r t v).ctx = w.ctx := rfl
@[simp] theorem Wave.setReg_slot (w : Wave) (r t : Nat) (v : Word) : (w.setReg r t v).slot = w.slot := rfl
@[simp] theorem Wave.setReg_kind (w : Wave) (r t : Nat) (v : Word) : (w.setReg r t v).kind = w.kind := rfl
@[simp] theorem Wave.setReg_wg (w : Wave) (r t : Nat) (v : Word) : (w.setReg r t v).wg = w.wg := rfl
@[simp] theorem Wave.setReg_idx (w : Wave) (r t : Nat) (v : Word) : (w.setReg r t v).idx = w.idx := rfl
@[simp] theorem Wave.setReg_core (w : Wave) (r t : Nat) (v : Word) : (w.setReg r t v).core = w.core := rfl
@[simp] theorem Wave.setReg_quad (w : Wave) (r t : Nat) (v : Word) : (w.setReg r t v).quad = w.quad := rfl
@[simp] theorem Wave.setReg_rate (w : Wave) (r t : Nat) (v : Word) : (w.setReg r t v).rate = w.rate := rfl
@[simp] theorem Wave.setReg_draw (w : Wave) (r t : Nat) (v : Word) : (w.setReg r t v).draw = w.draw := rfl
@[simp] theorem Wave.setReg_pair (w : Wave) (r t : Nat) (v : Word) : (w.setReg r t v).pair = w.pair := rfl
@[simp] theorem Wave.setReg_threads (w : Wave) (r t : Nat) (v : Word) : (w.setReg r t v).threads = w.threads := rfl
@[simp] theorem Wave.setReg_regs (w : Wave) (r t : Nat) (v : Word) : (w.setReg r t v).regs = tset 0 w.regs (32 * r + t) v := rfl
@[simp] theorem Wave.setReg_tags (w : Wave) (r t : Nat) (v : Word) : (w.setReg r t v).tags = w.tags := rfl
@[simp] theorem Wave.setReg_loaded (w : Wave) (r t : Nat) (v : Word) : (w.setReg r t v).loaded = w.loaded := rfl
@[simp] theorem Wave.setReg_poison (w : Wave) (r t : Nat) (v : Word) : (w.setReg r t v).poison = w.poison := rfl
@[simp] theorem Wave.setReg_fflags (w : Wave) (r t : Nat) (v : Word) : (w.setReg r t v).fflags = w.fflags := rfl
@[simp] theorem Wave.setReg_flying (w : Wave) (r t : Nat) (v : Word) : (w.setReg r t v).flying = w.flying := rfl
@[simp] theorem Wave.setReg_retired (w : Wave) (r t : Nat) (v : Word) : (w.setReg r t v).retired = w.retired := rfl
@[simp] theorem Wave.setReg_acc (w : Wave) (r t : Nat) (v : Word) : (w.setReg r t v).acc = w.acc := rfl
@[simp] theorem Wave.setReg_queues (w : Wave) (r t : Nat) (v : Word) : (w.setReg r t v).queues = w.queues := rfl
@[simp] theorem Wave.setReg_mitten (w : Wave) (r t : Nat) (v : Word) : (w.setReg r t v).mitten = w.mitten := rfl
@[simp] theorem Wave.setReg_seqNext (w : Wave) (r t : Nat) (v : Word) : (w.setReg r t v).seqNext = w.seqNext := rfl
@[simp] theorem Wave.setReg_copySeq (w : Wave) (r t : Nat) (v : Word) : (w.setReg r t v).copySeq = w.copySeq := rfl
@[simp] theorem Wave.setReg_joins (w : Wave) (r t : Nat) (v : Word) : (w.setReg r t v).joins = w.joins := rfl
@[simp] theorem Wave.setReg_exch (w : Wave) (r t : Nat) (v : Word) : (w.setReg r t v).exch = w.exch := rfl
@[simp] theorem Wave.setReg_trap (w : Wave) (r t : Nat) (v : Word) : (w.setReg r t v).trap = w.trap := rfl
@[simp] theorem Wave.setReg_trapbase (w : Wave) (r t : Nat) (v : Word) : (w.setReg r t v).trapbase = w.trapbase := rfl
@[simp] theorem Wave.setReg_latchA (w : Wave) (r t : Nat) (v : Word) : (w.setReg r t v).latchA = w.latchA := rfl
@[simp] theorem Wave.setReg_latchB (w : Wave) (r t : Nat) (v : Word) : (w.setReg r t v).latchB = w.latchB := rfl
@[simp] theorem Wave.setReg_engines (w : Wave) (r t : Nat) (v : Word) : (w.setReg r t v).engines = w.engines := rfl
@[simp] theorem Wave.setReg_owed (w : Wave) (r t : Nat) (v : Word) : (w.setReg r t v).owed = w.owed := rfl
@[simp] theorem Wave.setReg_palm (w : Wave) (r t : Nat) (v : Word) : (w.setReg r t v).palm = w.palm := rfl
@[simp] theorem Wave.setReg_loose (w : Wave) (r t : Nat) (v : Word) : (w.setReg r t v).loose = w.loose := rfl
@[simp] theorem Wave.setReg_fenced (w : Wave) (r t : Nat) (v : Word) : (w.setReg r t v).fenced = w.fenced := rfl
@[simp] theorem Wave.setReg_admitted (w : Wave) (r t : Nat) (v : Word) : (w.setReg r t v).admitted = w.admitted := rfl
@[simp] theorem Wave.setReg_lastLane (w : Wave) (r t : Nat) (v : Word) : (w.setReg r t v).lastLane = w.lastLane := rfl
@[simp] theorem Wave.setReg_readySince (w : Wave) (r t : Nat) (v : Word) : (w.setReg r t v).readySince = w.readySince := rfl
@[simp] theorem Wave.setReg_overdue (w : Wave) (r t : Nat) (v : Word) : (w.setReg r t v).overdue = w.overdue := rfl
@[simp] theorem Wave.setReg_yieldAt (w : Wave) (r t : Nat) (v : Word) : (w.setReg r t v).yieldAt = w.yieldAt := rfl
@[simp] theorem Wave.setReg_frozen (w : Wave) (r t : Nat) (v : Word) : (w.setReg r t v).frozen = w.frozen := rfl
@[simp] theorem Wave.setReg_ended (w : Wave) (r t : Nat) (v : Word) : (w.setReg r t v).ended = w.ended := rfl

@[simp] theorem Wave.setTag_ctx (w : Wave) (r : Nat) (t : Tag) : (w.setTag r t).ctx = w.ctx := rfl
@[simp] theorem Wave.setTag_slot (w : Wave) (r : Nat) (t : Tag) : (w.setTag r t).slot = w.slot := rfl
@[simp] theorem Wave.setTag_kind (w : Wave) (r : Nat) (t : Tag) : (w.setTag r t).kind = w.kind := rfl
@[simp] theorem Wave.setTag_wg (w : Wave) (r : Nat) (t : Tag) : (w.setTag r t).wg = w.wg := rfl
@[simp] theorem Wave.setTag_idx (w : Wave) (r : Nat) (t : Tag) : (w.setTag r t).idx = w.idx := rfl
@[simp] theorem Wave.setTag_core (w : Wave) (r : Nat) (t : Tag) : (w.setTag r t).core = w.core := rfl
@[simp] theorem Wave.setTag_quad (w : Wave) (r : Nat) (t : Tag) : (w.setTag r t).quad = w.quad := rfl
@[simp] theorem Wave.setTag_rate (w : Wave) (r : Nat) (t : Tag) : (w.setTag r t).rate = w.rate := rfl
@[simp] theorem Wave.setTag_draw (w : Wave) (r : Nat) (t : Tag) : (w.setTag r t).draw = w.draw := rfl
@[simp] theorem Wave.setTag_pair (w : Wave) (r : Nat) (t : Tag) : (w.setTag r t).pair = w.pair := rfl
@[simp] theorem Wave.setTag_threads (w : Wave) (r : Nat) (t : Tag) : (w.setTag r t).threads = w.threads := rfl
@[simp] theorem Wave.setTag_regs (w : Wave) (r : Nat) (t : Tag) : (w.setTag r t).regs = w.regs := rfl
@[simp] theorem Wave.setTag_tags (w : Wave) (r : Nat) (t : Tag) : (w.setTag r t).tags = tset (.u 0) w.tags r t := rfl
@[simp] theorem Wave.setTag_loaded (w : Wave) (r : Nat) (t : Tag) : (w.setTag r t).loaded = w.loaded := rfl
@[simp] theorem Wave.setTag_poison (w : Wave) (r : Nat) (t : Tag) : (w.setTag r t).poison = w.poison := rfl
@[simp] theorem Wave.setTag_fflags (w : Wave) (r : Nat) (t : Tag) : (w.setTag r t).fflags = w.fflags := rfl
@[simp] theorem Wave.setTag_flying (w : Wave) (r : Nat) (t : Tag) : (w.setTag r t).flying = w.flying := rfl
@[simp] theorem Wave.setTag_retired (w : Wave) (r : Nat) (t : Tag) : (w.setTag r t).retired = w.retired := rfl
@[simp] theorem Wave.setTag_acc (w : Wave) (r : Nat) (t : Tag) : (w.setTag r t).acc = w.acc := rfl
@[simp] theorem Wave.setTag_queues (w : Wave) (r : Nat) (t : Tag) : (w.setTag r t).queues = w.queues := rfl
@[simp] theorem Wave.setTag_mitten (w : Wave) (r : Nat) (t : Tag) : (w.setTag r t).mitten = w.mitten := rfl
@[simp] theorem Wave.setTag_seqNext (w : Wave) (r : Nat) (t : Tag) : (w.setTag r t).seqNext = w.seqNext := rfl
@[simp] theorem Wave.setTag_copySeq (w : Wave) (r : Nat) (t : Tag) : (w.setTag r t).copySeq = w.copySeq := rfl
@[simp] theorem Wave.setTag_joins (w : Wave) (r : Nat) (t : Tag) : (w.setTag r t).joins = w.joins := rfl
@[simp] theorem Wave.setTag_exch (w : Wave) (r : Nat) (t : Tag) : (w.setTag r t).exch = w.exch := rfl
@[simp] theorem Wave.setTag_trap (w : Wave) (r : Nat) (t : Tag) : (w.setTag r t).trap = w.trap := rfl
@[simp] theorem Wave.setTag_trapbase (w : Wave) (r : Nat) (t : Tag) : (w.setTag r t).trapbase = w.trapbase := rfl
@[simp] theorem Wave.setTag_latchA (w : Wave) (r : Nat) (t : Tag) : (w.setTag r t).latchA = w.latchA := rfl
@[simp] theorem Wave.setTag_latchB (w : Wave) (r : Nat) (t : Tag) : (w.setTag r t).latchB = w.latchB := rfl
@[simp] theorem Wave.setTag_engines (w : Wave) (r : Nat) (t : Tag) : (w.setTag r t).engines = w.engines := rfl
@[simp] theorem Wave.setTag_owed (w : Wave) (r : Nat) (t : Tag) : (w.setTag r t).owed = w.owed := rfl
@[simp] theorem Wave.setTag_palm (w : Wave) (r : Nat) (t : Tag) : (w.setTag r t).palm = w.palm := rfl
@[simp] theorem Wave.setTag_loose (w : Wave) (r : Nat) (t : Tag) : (w.setTag r t).loose = w.loose := rfl
@[simp] theorem Wave.setTag_fenced (w : Wave) (r : Nat) (t : Tag) : (w.setTag r t).fenced = w.fenced := rfl
@[simp] theorem Wave.setTag_admitted (w : Wave) (r : Nat) (t : Tag) : (w.setTag r t).admitted = w.admitted := rfl
@[simp] theorem Wave.setTag_lastLane (w : Wave) (r : Nat) (t : Tag) : (w.setTag r t).lastLane = w.lastLane := rfl
@[simp] theorem Wave.setTag_readySince (w : Wave) (r : Nat) (t : Tag) : (w.setTag r t).readySince = w.readySince := rfl
@[simp] theorem Wave.setTag_overdue (w : Wave) (r : Nat) (t : Tag) : (w.setTag r t).overdue = w.overdue := rfl
@[simp] theorem Wave.setTag_yieldAt (w : Wave) (r : Nat) (t : Tag) : (w.setTag r t).yieldAt = w.yieldAt := rfl
@[simp] theorem Wave.setTag_frozen (w : Wave) (r : Nat) (t : Tag) : (w.setTag r t).frozen = w.frozen := rfl
@[simp] theorem Wave.setTag_ended (w : Wave) (r : Nat) (t : Tag) : (w.setTag r t).ended = w.ended := rfl

@[simp] theorem Wave.setCell_ctx (w : Wave) (row col : Nat) (v : BitVec 32) : (w.setCell row col v).ctx = w.ctx := rfl
@[simp] theorem Wave.setCell_slot (w : Wave) (row col : Nat) (v : BitVec 32) : (w.setCell row col v).slot = w.slot := rfl
@[simp] theorem Wave.setCell_kind (w : Wave) (row col : Nat) (v : BitVec 32) : (w.setCell row col v).kind = w.kind := rfl
@[simp] theorem Wave.setCell_wg (w : Wave) (row col : Nat) (v : BitVec 32) : (w.setCell row col v).wg = w.wg := rfl
@[simp] theorem Wave.setCell_idx (w : Wave) (row col : Nat) (v : BitVec 32) : (w.setCell row col v).idx = w.idx := rfl
@[simp] theorem Wave.setCell_core (w : Wave) (row col : Nat) (v : BitVec 32) : (w.setCell row col v).core = w.core := rfl
@[simp] theorem Wave.setCell_quad (w : Wave) (row col : Nat) (v : BitVec 32) : (w.setCell row col v).quad = w.quad := rfl
@[simp] theorem Wave.setCell_rate (w : Wave) (row col : Nat) (v : BitVec 32) : (w.setCell row col v).rate = w.rate := rfl
@[simp] theorem Wave.setCell_draw (w : Wave) (row col : Nat) (v : BitVec 32) : (w.setCell row col v).draw = w.draw := rfl
@[simp] theorem Wave.setCell_pair (w : Wave) (row col : Nat) (v : BitVec 32) : (w.setCell row col v).pair = w.pair := rfl
@[simp] theorem Wave.setCell_threads (w : Wave) (row col : Nat) (v : BitVec 32) : (w.setCell row col v).threads = w.threads := rfl
@[simp] theorem Wave.setCell_regs (w : Wave) (row col : Nat) (v : BitVec 32) : (w.setCell row col v).regs = w.regs := rfl
@[simp] theorem Wave.setCell_tags (w : Wave) (row col : Nat) (v : BitVec 32) : (w.setCell row col v).tags = w.tags := rfl
@[simp] theorem Wave.setCell_loaded (w : Wave) (row col : Nat) (v : BitVec 32) : (w.setCell row col v).loaded = w.loaded := rfl
@[simp] theorem Wave.setCell_poison (w : Wave) (row col : Nat) (v : BitVec 32) : (w.setCell row col v).poison = w.poison := rfl
@[simp] theorem Wave.setCell_fflags (w : Wave) (row col : Nat) (v : BitVec 32) : (w.setCell row col v).fflags = w.fflags := rfl
@[simp] theorem Wave.setCell_flying (w : Wave) (row col : Nat) (v : BitVec 32) : (w.setCell row col v).flying = w.flying := rfl
@[simp] theorem Wave.setCell_retired (w : Wave) (row col : Nat) (v : BitVec 32) : (w.setCell row col v).retired = w.retired := rfl
@[simp] theorem Wave.setCell_acc (w : Wave) (row col : Nat) (v : BitVec 32) : (w.setCell row col v).acc = tset 0 w.acc (256 * row + col) v := rfl
@[simp] theorem Wave.setCell_queues (w : Wave) (row col : Nat) (v : BitVec 32) : (w.setCell row col v).queues = w.queues := rfl
@[simp] theorem Wave.setCell_mitten (w : Wave) (row col : Nat) (v : BitVec 32) : (w.setCell row col v).mitten = w.mitten := rfl
@[simp] theorem Wave.setCell_seqNext (w : Wave) (row col : Nat) (v : BitVec 32) : (w.setCell row col v).seqNext = w.seqNext := rfl
@[simp] theorem Wave.setCell_copySeq (w : Wave) (row col : Nat) (v : BitVec 32) : (w.setCell row col v).copySeq = w.copySeq := rfl
@[simp] theorem Wave.setCell_joins (w : Wave) (row col : Nat) (v : BitVec 32) : (w.setCell row col v).joins = w.joins := rfl
@[simp] theorem Wave.setCell_exch (w : Wave) (row col : Nat) (v : BitVec 32) : (w.setCell row col v).exch = w.exch := rfl
@[simp] theorem Wave.setCell_trap (w : Wave) (row col : Nat) (v : BitVec 32) : (w.setCell row col v).trap = w.trap := rfl
@[simp] theorem Wave.setCell_trapbase (w : Wave) (row col : Nat) (v : BitVec 32) : (w.setCell row col v).trapbase = w.trapbase := rfl
@[simp] theorem Wave.setCell_latchA (w : Wave) (row col : Nat) (v : BitVec 32) : (w.setCell row col v).latchA = w.latchA := rfl
@[simp] theorem Wave.setCell_latchB (w : Wave) (row col : Nat) (v : BitVec 32) : (w.setCell row col v).latchB = w.latchB := rfl
@[simp] theorem Wave.setCell_engines (w : Wave) (row col : Nat) (v : BitVec 32) : (w.setCell row col v).engines = w.engines := rfl
@[simp] theorem Wave.setCell_owed (w : Wave) (row col : Nat) (v : BitVec 32) : (w.setCell row col v).owed = w.owed := rfl
@[simp] theorem Wave.setCell_palm (w : Wave) (row col : Nat) (v : BitVec 32) : (w.setCell row col v).palm = w.palm := rfl
@[simp] theorem Wave.setCell_loose (w : Wave) (row col : Nat) (v : BitVec 32) : (w.setCell row col v).loose = w.loose := rfl
@[simp] theorem Wave.setCell_fenced (w : Wave) (row col : Nat) (v : BitVec 32) : (w.setCell row col v).fenced = w.fenced := rfl
@[simp] theorem Wave.setCell_admitted (w : Wave) (row col : Nat) (v : BitVec 32) : (w.setCell row col v).admitted = w.admitted := rfl
@[simp] theorem Wave.setCell_lastLane (w : Wave) (row col : Nat) (v : BitVec 32) : (w.setCell row col v).lastLane = w.lastLane := rfl
@[simp] theorem Wave.setCell_readySince (w : Wave) (row col : Nat) (v : BitVec 32) : (w.setCell row col v).readySince = w.readySince := rfl
@[simp] theorem Wave.setCell_overdue (w : Wave) (row col : Nat) (v : BitVec 32) : (w.setCell row col v).overdue = w.overdue := rfl
@[simp] theorem Wave.setCell_yieldAt (w : Wave) (row col : Nat) (v : BitVec 32) : (w.setCell row col v).yieldAt = w.yieldAt := rfl
@[simp] theorem Wave.setCell_frozen (w : Wave) (row col : Nat) (v : BitVec 32) : (w.setCell row col v).frozen = w.frozen := rfl
@[simp] theorem Wave.setCell_ended (w : Wave) (row col : Nat) (v : BitVec 32) : (w.setCell row col v).ended = w.ended := rfl

@[simp] theorem Wave.modEntry_ctx (w : Wave) (q : Nat) (f : Entry → Entry) : (w.modEntry q f).ctx = w.ctx := rfl
@[simp] theorem Wave.modEntry_slot (w : Wave) (q : Nat) (f : Entry → Entry) : (w.modEntry q f).slot = w.slot := rfl
@[simp] theorem Wave.modEntry_kind (w : Wave) (q : Nat) (f : Entry → Entry) : (w.modEntry q f).kind = w.kind := rfl
@[simp] theorem Wave.modEntry_wg (w : Wave) (q : Nat) (f : Entry → Entry) : (w.modEntry q f).wg = w.wg := rfl
@[simp] theorem Wave.modEntry_idx (w : Wave) (q : Nat) (f : Entry → Entry) : (w.modEntry q f).idx = w.idx := rfl
@[simp] theorem Wave.modEntry_core (w : Wave) (q : Nat) (f : Entry → Entry) : (w.modEntry q f).core = w.core := rfl
@[simp] theorem Wave.modEntry_quad (w : Wave) (q : Nat) (f : Entry → Entry) : (w.modEntry q f).quad = w.quad := rfl
@[simp] theorem Wave.modEntry_rate (w : Wave) (q : Nat) (f : Entry → Entry) : (w.modEntry q f).rate = w.rate := rfl
@[simp] theorem Wave.modEntry_draw (w : Wave) (q : Nat) (f : Entry → Entry) : (w.modEntry q f).draw = w.draw := rfl
@[simp] theorem Wave.modEntry_pair (w : Wave) (q : Nat) (f : Entry → Entry) : (w.modEntry q f).pair = w.pair := rfl
@[simp] theorem Wave.modEntry_threads (w : Wave) (q : Nat) (f : Entry → Entry) : (w.modEntry q f).threads = w.threads := rfl
@[simp] theorem Wave.modEntry_regs (w : Wave) (q : Nat) (f : Entry → Entry) : (w.modEntry q f).regs = w.regs := rfl
@[simp] theorem Wave.modEntry_tags (w : Wave) (q : Nat) (f : Entry → Entry) : (w.modEntry q f).tags = w.tags := rfl
@[simp] theorem Wave.modEntry_loaded (w : Wave) (q : Nat) (f : Entry → Entry) : (w.modEntry q f).loaded = w.loaded := rfl
@[simp] theorem Wave.modEntry_poison (w : Wave) (q : Nat) (f : Entry → Entry) : (w.modEntry q f).poison = w.poison := rfl
@[simp] theorem Wave.modEntry_fflags (w : Wave) (q : Nat) (f : Entry → Entry) : (w.modEntry q f).fflags = w.fflags := rfl
@[simp] theorem Wave.modEntry_flying (w : Wave) (q : Nat) (f : Entry → Entry) : (w.modEntry q f).flying = w.flying := rfl
@[simp] theorem Wave.modEntry_retired (w : Wave) (q : Nat) (f : Entry → Entry) : (w.modEntry q f).retired = w.retired := rfl
@[simp] theorem Wave.modEntry_acc (w : Wave) (q : Nat) (f : Entry → Entry) : (w.modEntry q f).acc = w.acc := rfl
@[simp] theorem Wave.modEntry_queues (w : Wave) (q : Nat) (f : Entry → Entry) : (w.modEntry q f).queues = w.queues := rfl
@[simp] theorem Wave.modEntry_mitten (w : Wave) (q : Nat) (f : Entry → Entry) : (w.modEntry q f).mitten = w.mitten.map (fun e => if e.seq == q then f e else e) := rfl
@[simp] theorem Wave.modEntry_seqNext (w : Wave) (q : Nat) (f : Entry → Entry) : (w.modEntry q f).seqNext = w.seqNext := rfl
@[simp] theorem Wave.modEntry_copySeq (w : Wave) (q : Nat) (f : Entry → Entry) : (w.modEntry q f).copySeq = w.copySeq := rfl
@[simp] theorem Wave.modEntry_joins (w : Wave) (q : Nat) (f : Entry → Entry) : (w.modEntry q f).joins = w.joins := rfl
@[simp] theorem Wave.modEntry_exch (w : Wave) (q : Nat) (f : Entry → Entry) : (w.modEntry q f).exch = w.exch := rfl
@[simp] theorem Wave.modEntry_trap (w : Wave) (q : Nat) (f : Entry → Entry) : (w.modEntry q f).trap = w.trap := rfl
@[simp] theorem Wave.modEntry_trapbase (w : Wave) (q : Nat) (f : Entry → Entry) : (w.modEntry q f).trapbase = w.trapbase := rfl
@[simp] theorem Wave.modEntry_latchA (w : Wave) (q : Nat) (f : Entry → Entry) : (w.modEntry q f).latchA = w.latchA := rfl
@[simp] theorem Wave.modEntry_latchB (w : Wave) (q : Nat) (f : Entry → Entry) : (w.modEntry q f).latchB = w.latchB := rfl
@[simp] theorem Wave.modEntry_engines (w : Wave) (q : Nat) (f : Entry → Entry) : (w.modEntry q f).engines = w.engines := rfl
@[simp] theorem Wave.modEntry_owed (w : Wave) (q : Nat) (f : Entry → Entry) : (w.modEntry q f).owed = w.owed := rfl
@[simp] theorem Wave.modEntry_palm (w : Wave) (q : Nat) (f : Entry → Entry) : (w.modEntry q f).palm = w.palm := rfl
@[simp] theorem Wave.modEntry_loose (w : Wave) (q : Nat) (f : Entry → Entry) : (w.modEntry q f).loose = w.loose := rfl
@[simp] theorem Wave.modEntry_fenced (w : Wave) (q : Nat) (f : Entry → Entry) : (w.modEntry q f).fenced = w.fenced := rfl
@[simp] theorem Wave.modEntry_admitted (w : Wave) (q : Nat) (f : Entry → Entry) : (w.modEntry q f).admitted = w.admitted := rfl
@[simp] theorem Wave.modEntry_lastLane (w : Wave) (q : Nat) (f : Entry → Entry) : (w.modEntry q f).lastLane = w.lastLane := rfl
@[simp] theorem Wave.modEntry_readySince (w : Wave) (q : Nat) (f : Entry → Entry) : (w.modEntry q f).readySince = w.readySince := rfl
@[simp] theorem Wave.modEntry_overdue (w : Wave) (q : Nat) (f : Entry → Entry) : (w.modEntry q f).overdue = w.overdue := rfl
@[simp] theorem Wave.modEntry_yieldAt (w : Wave) (q : Nat) (f : Entry → Entry) : (w.modEntry q f).yieldAt = w.yieldAt := rfl
@[simp] theorem Wave.modEntry_frozen (w : Wave) (q : Nat) (f : Entry → Entry) : (w.modEntry q f).frozen = w.frozen := rfl
@[simp] theorem Wave.modEntry_ended (w : Wave) (q : Nat) (f : Entry → Entry) : (w.modEntry q f).ended = w.ended := rfl

@[simp] theorem Wave.dropEntry_ctx (w : Wave) (q : Nat) : (w.dropEntry q).ctx = w.ctx := rfl
@[simp] theorem Wave.dropEntry_slot (w : Wave) (q : Nat) : (w.dropEntry q).slot = w.slot := rfl
@[simp] theorem Wave.dropEntry_kind (w : Wave) (q : Nat) : (w.dropEntry q).kind = w.kind := rfl
@[simp] theorem Wave.dropEntry_wg (w : Wave) (q : Nat) : (w.dropEntry q).wg = w.wg := rfl
@[simp] theorem Wave.dropEntry_idx (w : Wave) (q : Nat) : (w.dropEntry q).idx = w.idx := rfl
@[simp] theorem Wave.dropEntry_core (w : Wave) (q : Nat) : (w.dropEntry q).core = w.core := rfl
@[simp] theorem Wave.dropEntry_quad (w : Wave) (q : Nat) : (w.dropEntry q).quad = w.quad := rfl
@[simp] theorem Wave.dropEntry_rate (w : Wave) (q : Nat) : (w.dropEntry q).rate = w.rate := rfl
@[simp] theorem Wave.dropEntry_draw (w : Wave) (q : Nat) : (w.dropEntry q).draw = w.draw := rfl
@[simp] theorem Wave.dropEntry_pair (w : Wave) (q : Nat) : (w.dropEntry q).pair = w.pair := rfl
@[simp] theorem Wave.dropEntry_threads (w : Wave) (q : Nat) : (w.dropEntry q).threads = w.threads := rfl
@[simp] theorem Wave.dropEntry_regs (w : Wave) (q : Nat) : (w.dropEntry q).regs = w.regs := rfl
@[simp] theorem Wave.dropEntry_tags (w : Wave) (q : Nat) : (w.dropEntry q).tags = w.tags := rfl
@[simp] theorem Wave.dropEntry_loaded (w : Wave) (q : Nat) : (w.dropEntry q).loaded = w.loaded := rfl
@[simp] theorem Wave.dropEntry_poison (w : Wave) (q : Nat) : (w.dropEntry q).poison = w.poison := rfl
@[simp] theorem Wave.dropEntry_fflags (w : Wave) (q : Nat) : (w.dropEntry q).fflags = w.fflags := rfl
@[simp] theorem Wave.dropEntry_flying (w : Wave) (q : Nat) : (w.dropEntry q).flying = w.flying := rfl
@[simp] theorem Wave.dropEntry_retired (w : Wave) (q : Nat) : (w.dropEntry q).retired = w.retired := rfl
@[simp] theorem Wave.dropEntry_acc (w : Wave) (q : Nat) : (w.dropEntry q).acc = w.acc := rfl
@[simp] theorem Wave.dropEntry_queues (w : Wave) (q : Nat) : (w.dropEntry q).queues = w.queues := rfl
@[simp] theorem Wave.dropEntry_mitten (w : Wave) (q : Nat) : (w.dropEntry q).mitten = w.mitten.filter (fun e => e.seq != q) := rfl
@[simp] theorem Wave.dropEntry_seqNext (w : Wave) (q : Nat) : (w.dropEntry q).seqNext = w.seqNext := rfl
@[simp] theorem Wave.dropEntry_copySeq (w : Wave) (q : Nat) : (w.dropEntry q).copySeq = w.copySeq := rfl
@[simp] theorem Wave.dropEntry_joins (w : Wave) (q : Nat) : (w.dropEntry q).joins = w.joins := rfl
@[simp] theorem Wave.dropEntry_exch (w : Wave) (q : Nat) : (w.dropEntry q).exch = w.exch := rfl
@[simp] theorem Wave.dropEntry_trap (w : Wave) (q : Nat) : (w.dropEntry q).trap = w.trap := rfl
@[simp] theorem Wave.dropEntry_trapbase (w : Wave) (q : Nat) : (w.dropEntry q).trapbase = w.trapbase := rfl
@[simp] theorem Wave.dropEntry_latchA (w : Wave) (q : Nat) : (w.dropEntry q).latchA = w.latchA := rfl
@[simp] theorem Wave.dropEntry_latchB (w : Wave) (q : Nat) : (w.dropEntry q).latchB = w.latchB := rfl
@[simp] theorem Wave.dropEntry_engines (w : Wave) (q : Nat) : (w.dropEntry q).engines = w.engines := rfl
@[simp] theorem Wave.dropEntry_owed (w : Wave) (q : Nat) : (w.dropEntry q).owed = w.owed := rfl
@[simp] theorem Wave.dropEntry_palm (w : Wave) (q : Nat) : (w.dropEntry q).palm = w.palm := rfl
@[simp] theorem Wave.dropEntry_loose (w : Wave) (q : Nat) : (w.dropEntry q).loose = w.loose := rfl
@[simp] theorem Wave.dropEntry_fenced (w : Wave) (q : Nat) : (w.dropEntry q).fenced = w.fenced := rfl
@[simp] theorem Wave.dropEntry_admitted (w : Wave) (q : Nat) : (w.dropEntry q).admitted = w.admitted := rfl
@[simp] theorem Wave.dropEntry_lastLane (w : Wave) (q : Nat) : (w.dropEntry q).lastLane = w.lastLane := rfl
@[simp] theorem Wave.dropEntry_readySince (w : Wave) (q : Nat) : (w.dropEntry q).readySince = w.readySince := rfl
@[simp] theorem Wave.dropEntry_overdue (w : Wave) (q : Nat) : (w.dropEntry q).overdue = w.overdue := rfl
@[simp] theorem Wave.dropEntry_yieldAt (w : Wave) (q : Nat) : (w.dropEntry q).yieldAt = w.yieldAt := rfl
@[simp] theorem Wave.dropEntry_frozen (w : Wave) (q : Nat) : (w.dropEntry q).frozen = w.frozen := rfl
@[simp] theorem Wave.dropEntry_ended (w : Wave) (q : Nat) : (w.dropEntry q).ended = w.ended := rfl

@[simp] theorem Wave.addEntry_ctx (w : Wave) (e : Entry) : (w.addEntry e).ctx = w.ctx := rfl
@[simp] theorem Wave.addEntry_slot (w : Wave) (e : Entry) : (w.addEntry e).slot = w.slot := rfl
@[simp] theorem Wave.addEntry_kind (w : Wave) (e : Entry) : (w.addEntry e).kind = w.kind := rfl
@[simp] theorem Wave.addEntry_wg (w : Wave) (e : Entry) : (w.addEntry e).wg = w.wg := rfl
@[simp] theorem Wave.addEntry_idx (w : Wave) (e : Entry) : (w.addEntry e).idx = w.idx := rfl
@[simp] theorem Wave.addEntry_core (w : Wave) (e : Entry) : (w.addEntry e).core = w.core := rfl
@[simp] theorem Wave.addEntry_quad (w : Wave) (e : Entry) : (w.addEntry e).quad = w.quad := rfl
@[simp] theorem Wave.addEntry_rate (w : Wave) (e : Entry) : (w.addEntry e).rate = w.rate := rfl
@[simp] theorem Wave.addEntry_draw (w : Wave) (e : Entry) : (w.addEntry e).draw = w.draw := rfl
@[simp] theorem Wave.addEntry_pair (w : Wave) (e : Entry) : (w.addEntry e).pair = w.pair := rfl
@[simp] theorem Wave.addEntry_threads (w : Wave) (e : Entry) : (w.addEntry e).threads = w.threads := rfl
@[simp] theorem Wave.addEntry_regs (w : Wave) (e : Entry) : (w.addEntry e).regs = w.regs := rfl
@[simp] theorem Wave.addEntry_tags (w : Wave) (e : Entry) : (w.addEntry e).tags = w.tags := rfl
@[simp] theorem Wave.addEntry_loaded (w : Wave) (e : Entry) : (w.addEntry e).loaded = w.loaded := rfl
@[simp] theorem Wave.addEntry_poison (w : Wave) (e : Entry) : (w.addEntry e).poison = w.poison := rfl
@[simp] theorem Wave.addEntry_fflags (w : Wave) (e : Entry) : (w.addEntry e).fflags = w.fflags := rfl
@[simp] theorem Wave.addEntry_flying (w : Wave) (e : Entry) : (w.addEntry e).flying = w.flying := rfl
@[simp] theorem Wave.addEntry_retired (w : Wave) (e : Entry) : (w.addEntry e).retired = w.retired := rfl
@[simp] theorem Wave.addEntry_acc (w : Wave) (e : Entry) : (w.addEntry e).acc = w.acc := rfl
@[simp] theorem Wave.addEntry_queues (w : Wave) (e : Entry) : (w.addEntry e).queues = w.queues := rfl
@[simp] theorem Wave.addEntry_mitten (w : Wave) (e : Entry) : (w.addEntry e).mitten = w.mitten ++ [{ e with slot := w.freeEntry, seq := w.seqNext }] := rfl
@[simp] theorem Wave.addEntry_seqNext (w : Wave) (e : Entry) : (w.addEntry e).seqNext = (w.seqNext + 1) % 4096 := rfl
@[simp] theorem Wave.addEntry_copySeq (w : Wave) (e : Entry) : (w.addEntry e).copySeq = w.copySeq := rfl
@[simp] theorem Wave.addEntry_joins (w : Wave) (e : Entry) : (w.addEntry e).joins = w.joins := rfl
@[simp] theorem Wave.addEntry_exch (w : Wave) (e : Entry) : (w.addEntry e).exch = w.exch := rfl
@[simp] theorem Wave.addEntry_trap (w : Wave) (e : Entry) : (w.addEntry e).trap = w.trap := rfl
@[simp] theorem Wave.addEntry_trapbase (w : Wave) (e : Entry) : (w.addEntry e).trapbase = w.trapbase := rfl
@[simp] theorem Wave.addEntry_latchA (w : Wave) (e : Entry) : (w.addEntry e).latchA = w.latchA := rfl
@[simp] theorem Wave.addEntry_latchB (w : Wave) (e : Entry) : (w.addEntry e).latchB = w.latchB := rfl
@[simp] theorem Wave.addEntry_engines (w : Wave) (e : Entry) : (w.addEntry e).engines = w.engines := rfl
@[simp] theorem Wave.addEntry_owed (w : Wave) (e : Entry) : (w.addEntry e).owed = w.owed := rfl
@[simp] theorem Wave.addEntry_palm (w : Wave) (e : Entry) : (w.addEntry e).palm = w.palm := rfl
@[simp] theorem Wave.addEntry_loose (w : Wave) (e : Entry) : (w.addEntry e).loose = w.loose := rfl
@[simp] theorem Wave.addEntry_fenced (w : Wave) (e : Entry) : (w.addEntry e).fenced = w.fenced := rfl
@[simp] theorem Wave.addEntry_admitted (w : Wave) (e : Entry) : (w.addEntry e).admitted = w.admitted := rfl
@[simp] theorem Wave.addEntry_lastLane (w : Wave) (e : Entry) : (w.addEntry e).lastLane = w.lastLane := rfl
@[simp] theorem Wave.addEntry_readySince (w : Wave) (e : Entry) : (w.addEntry e).readySince = w.readySince := rfl
@[simp] theorem Wave.addEntry_overdue (w : Wave) (e : Entry) : (w.addEntry e).overdue = w.overdue := rfl
@[simp] theorem Wave.addEntry_yieldAt (w : Wave) (e : Entry) : (w.addEntry e).yieldAt = w.yieldAt := rfl
@[simp] theorem Wave.addEntry_frozen (w : Wave) (e : Entry) : (w.addEntry e).frozen = w.frozen := rfl
@[simp] theorem Wave.addEntry_ended (w : Wave) (e : Entry) : (w.addEntry e).ended = w.ended := rfl

@[simp] theorem Wave.passEntry_ctx (w : Wave) : (w.passEntry).ctx = w.ctx := rfl
@[simp] theorem Wave.passEntry_slot (w : Wave) : (w.passEntry).slot = w.slot := rfl
@[simp] theorem Wave.passEntry_kind (w : Wave) : (w.passEntry).kind = w.kind := rfl
@[simp] theorem Wave.passEntry_wg (w : Wave) : (w.passEntry).wg = w.wg := rfl
@[simp] theorem Wave.passEntry_idx (w : Wave) : (w.passEntry).idx = w.idx := rfl
@[simp] theorem Wave.passEntry_core (w : Wave) : (w.passEntry).core = w.core := rfl
@[simp] theorem Wave.passEntry_quad (w : Wave) : (w.passEntry).quad = w.quad := rfl
@[simp] theorem Wave.passEntry_rate (w : Wave) : (w.passEntry).rate = w.rate := rfl
@[simp] theorem Wave.passEntry_draw (w : Wave) : (w.passEntry).draw = w.draw := rfl
@[simp] theorem Wave.passEntry_pair (w : Wave) : (w.passEntry).pair = w.pair := rfl
@[simp] theorem Wave.passEntry_threads (w : Wave) : (w.passEntry).threads = w.threads := rfl
@[simp] theorem Wave.passEntry_regs (w : Wave) : (w.passEntry).regs = w.regs := rfl
@[simp] theorem Wave.passEntry_tags (w : Wave) : (w.passEntry).tags = w.tags := rfl
@[simp] theorem Wave.passEntry_loaded (w : Wave) : (w.passEntry).loaded = w.loaded := rfl
@[simp] theorem Wave.passEntry_poison (w : Wave) : (w.passEntry).poison = w.poison := rfl
@[simp] theorem Wave.passEntry_fflags (w : Wave) : (w.passEntry).fflags = w.fflags := rfl
@[simp] theorem Wave.passEntry_flying (w : Wave) : (w.passEntry).flying = w.flying := rfl
@[simp] theorem Wave.passEntry_retired (w : Wave) : (w.passEntry).retired = w.retired := rfl
@[simp] theorem Wave.passEntry_acc (w : Wave) : (w.passEntry).acc = w.acc := rfl
@[simp] theorem Wave.passEntry_queues (w : Wave) : (w.passEntry).queues = w.queues := rfl
@[simp] theorem Wave.passEntry_mitten (w : Wave) : (w.passEntry).mitten = w.mitten := rfl
@[simp] theorem Wave.passEntry_seqNext (w : Wave) : (w.passEntry).seqNext = (w.seqNext + 1) % 4096 := rfl
@[simp] theorem Wave.passEntry_copySeq (w : Wave) : (w.passEntry).copySeq = w.copySeq := rfl
@[simp] theorem Wave.passEntry_joins (w : Wave) : (w.passEntry).joins = w.joins := rfl
@[simp] theorem Wave.passEntry_exch (w : Wave) : (w.passEntry).exch = w.exch := rfl
@[simp] theorem Wave.passEntry_trap (w : Wave) : (w.passEntry).trap = w.trap := rfl
@[simp] theorem Wave.passEntry_trapbase (w : Wave) : (w.passEntry).trapbase = w.trapbase := rfl
@[simp] theorem Wave.passEntry_latchA (w : Wave) : (w.passEntry).latchA = w.latchA := rfl
@[simp] theorem Wave.passEntry_latchB (w : Wave) : (w.passEntry).latchB = w.latchB := rfl
@[simp] theorem Wave.passEntry_engines (w : Wave) : (w.passEntry).engines = w.engines := rfl
@[simp] theorem Wave.passEntry_owed (w : Wave) : (w.passEntry).owed = w.owed := rfl
@[simp] theorem Wave.passEntry_palm (w : Wave) : (w.passEntry).palm = w.palm := rfl
@[simp] theorem Wave.passEntry_loose (w : Wave) : (w.passEntry).loose = w.loose := rfl
@[simp] theorem Wave.passEntry_fenced (w : Wave) : (w.passEntry).fenced = w.fenced := rfl
@[simp] theorem Wave.passEntry_admitted (w : Wave) : (w.passEntry).admitted = w.admitted := rfl
@[simp] theorem Wave.passEntry_lastLane (w : Wave) : (w.passEntry).lastLane = w.lastLane := rfl
@[simp] theorem Wave.passEntry_readySince (w : Wave) : (w.passEntry).readySince = w.readySince := rfl
@[simp] theorem Wave.passEntry_overdue (w : Wave) : (w.passEntry).overdue = w.overdue := rfl
@[simp] theorem Wave.passEntry_yieldAt (w : Wave) : (w.passEntry).yieldAt = w.yieldAt := rfl
@[simp] theorem Wave.passEntry_frozen (w : Wave) : (w.passEntry).frozen = w.frozen := rfl
@[simp] theorem Wave.passEntry_ended (w : Wave) : (w.passEntry).ended = w.ended := rfl

@[simp] theorem Wave.popAll_ctx (w : Wave) (i : Instr) : (w.popAll i).ctx = w.ctx := rfl
@[simp] theorem Wave.popAll_slot (w : Wave) (i : Instr) : (w.popAll i).slot = w.slot := rfl
@[simp] theorem Wave.popAll_kind (w : Wave) (i : Instr) : (w.popAll i).kind = w.kind := rfl
@[simp] theorem Wave.popAll_wg (w : Wave) (i : Instr) : (w.popAll i).wg = w.wg := rfl
@[simp] theorem Wave.popAll_idx (w : Wave) (i : Instr) : (w.popAll i).idx = w.idx := rfl
@[simp] theorem Wave.popAll_core (w : Wave) (i : Instr) : (w.popAll i).core = w.core := rfl
@[simp] theorem Wave.popAll_quad (w : Wave) (i : Instr) : (w.popAll i).quad = w.quad := rfl
@[simp] theorem Wave.popAll_rate (w : Wave) (i : Instr) : (w.popAll i).rate = w.rate := rfl
@[simp] theorem Wave.popAll_draw (w : Wave) (i : Instr) : (w.popAll i).draw = w.draw := rfl
@[simp] theorem Wave.popAll_pair (w : Wave) (i : Instr) : (w.popAll i).pair = w.pair := rfl
@[simp] theorem Wave.popAll_threads (w : Wave) (i : Instr) : (w.popAll i).threads = w.threads := rfl
@[simp] theorem Wave.popAll_regs (w : Wave) (i : Instr) : (w.popAll i).regs = w.regs := rfl
@[simp] theorem Wave.popAll_tags (w : Wave) (i : Instr) : (w.popAll i).tags = w.tags := rfl
@[simp] theorem Wave.popAll_loaded (w : Wave) (i : Instr) : (w.popAll i).loaded = w.loaded := rfl
@[simp] theorem Wave.popAll_poison (w : Wave) (i : Instr) : (w.popAll i).poison = w.poison := rfl
@[simp] theorem Wave.popAll_fflags (w : Wave) (i : Instr) : (w.popAll i).fflags = w.fflags := rfl
@[simp] theorem Wave.popAll_flying (w : Wave) (i : Instr) : (w.popAll i).flying = w.flying := rfl
@[simp] theorem Wave.popAll_retired (w : Wave) (i : Instr) : (w.popAll i).retired = w.retired := rfl
@[simp] theorem Wave.popAll_acc (w : Wave) (i : Instr) : (w.popAll i).acc = w.acc := rfl
@[simp] theorem Wave.popAll_queues (w : Wave) (i : Instr) : (w.popAll i).queues = w.queues.mapIdx (fun q x => { x with entries := x.entries.drop (popsOf (srcsOf i) q) }) := rfl
@[simp] theorem Wave.popAll_mitten (w : Wave) (i : Instr) : (w.popAll i).mitten = w.mitten := rfl
@[simp] theorem Wave.popAll_seqNext (w : Wave) (i : Instr) : (w.popAll i).seqNext = w.seqNext := rfl
@[simp] theorem Wave.popAll_copySeq (w : Wave) (i : Instr) : (w.popAll i).copySeq = w.copySeq := rfl
@[simp] theorem Wave.popAll_joins (w : Wave) (i : Instr) : (w.popAll i).joins = w.joins := rfl
@[simp] theorem Wave.popAll_exch (w : Wave) (i : Instr) : (w.popAll i).exch = w.exch := rfl
@[simp] theorem Wave.popAll_trap (w : Wave) (i : Instr) : (w.popAll i).trap = w.trap := rfl
@[simp] theorem Wave.popAll_trapbase (w : Wave) (i : Instr) : (w.popAll i).trapbase = w.trapbase := rfl
@[simp] theorem Wave.popAll_latchA (w : Wave) (i : Instr) : (w.popAll i).latchA = w.latchA := rfl
@[simp] theorem Wave.popAll_latchB (w : Wave) (i : Instr) : (w.popAll i).latchB = w.latchB := rfl
@[simp] theorem Wave.popAll_engines (w : Wave) (i : Instr) : (w.popAll i).engines = w.engines := rfl
@[simp] theorem Wave.popAll_owed (w : Wave) (i : Instr) : (w.popAll i).owed = w.owed := rfl
@[simp] theorem Wave.popAll_palm (w : Wave) (i : Instr) : (w.popAll i).palm = w.palm := rfl
@[simp] theorem Wave.popAll_loose (w : Wave) (i : Instr) : (w.popAll i).loose = w.loose := rfl
@[simp] theorem Wave.popAll_fenced (w : Wave) (i : Instr) : (w.popAll i).fenced = w.fenced := rfl
@[simp] theorem Wave.popAll_admitted (w : Wave) (i : Instr) : (w.popAll i).admitted = w.admitted := rfl
@[simp] theorem Wave.popAll_lastLane (w : Wave) (i : Instr) : (w.popAll i).lastLane = w.lastLane := rfl
@[simp] theorem Wave.popAll_readySince (w : Wave) (i : Instr) : (w.popAll i).readySince = w.readySince := rfl
@[simp] theorem Wave.popAll_overdue (w : Wave) (i : Instr) : (w.popAll i).overdue = w.overdue := rfl
@[simp] theorem Wave.popAll_yieldAt (w : Wave) (i : Instr) : (w.popAll i).yieldAt = w.yieldAt := rfl
@[simp] theorem Wave.popAll_frozen (w : Wave) (i : Instr) : (w.popAll i).frozen = w.frozen := rfl
@[simp] theorem Wave.popAll_ended (w : Wave) (i : Instr) : (w.popAll i).ended = w.ended := rfl

@[simp] theorem Wave.orFlags_ctx (w : Wave) (l : FFlags) : (w.orFlags l).ctx = w.ctx := rfl
@[simp] theorem Wave.orFlags_slot (w : Wave) (l : FFlags) : (w.orFlags l).slot = w.slot := rfl
@[simp] theorem Wave.orFlags_kind (w : Wave) (l : FFlags) : (w.orFlags l).kind = w.kind := rfl
@[simp] theorem Wave.orFlags_wg (w : Wave) (l : FFlags) : (w.orFlags l).wg = w.wg := rfl
@[simp] theorem Wave.orFlags_idx (w : Wave) (l : FFlags) : (w.orFlags l).idx = w.idx := rfl
@[simp] theorem Wave.orFlags_core (w : Wave) (l : FFlags) : (w.orFlags l).core = w.core := rfl
@[simp] theorem Wave.orFlags_quad (w : Wave) (l : FFlags) : (w.orFlags l).quad = w.quad := rfl
@[simp] theorem Wave.orFlags_rate (w : Wave) (l : FFlags) : (w.orFlags l).rate = w.rate := rfl
@[simp] theorem Wave.orFlags_draw (w : Wave) (l : FFlags) : (w.orFlags l).draw = w.draw := rfl
@[simp] theorem Wave.orFlags_pair (w : Wave) (l : FFlags) : (w.orFlags l).pair = w.pair := rfl
@[simp] theorem Wave.orFlags_threads (w : Wave) (l : FFlags) : (w.orFlags l).threads = w.threads := rfl
@[simp] theorem Wave.orFlags_regs (w : Wave) (l : FFlags) : (w.orFlags l).regs = w.regs := rfl
@[simp] theorem Wave.orFlags_tags (w : Wave) (l : FFlags) : (w.orFlags l).tags = w.tags := rfl
@[simp] theorem Wave.orFlags_loaded (w : Wave) (l : FFlags) : (w.orFlags l).loaded = w.loaded := rfl
@[simp] theorem Wave.orFlags_poison (w : Wave) (l : FFlags) : (w.orFlags l).poison = w.poison := rfl
@[simp] theorem Wave.orFlags_fflags (w : Wave) (l : FFlags) : (w.orFlags l).fflags = w.fflags ||| l.setWidth 64 := rfl
@[simp] theorem Wave.orFlags_flying (w : Wave) (l : FFlags) : (w.orFlags l).flying = w.flying := rfl
@[simp] theorem Wave.orFlags_retired (w : Wave) (l : FFlags) : (w.orFlags l).retired = w.retired := rfl
@[simp] theorem Wave.orFlags_acc (w : Wave) (l : FFlags) : (w.orFlags l).acc = w.acc := rfl
@[simp] theorem Wave.orFlags_queues (w : Wave) (l : FFlags) : (w.orFlags l).queues = w.queues := rfl
@[simp] theorem Wave.orFlags_mitten (w : Wave) (l : FFlags) : (w.orFlags l).mitten = w.mitten := rfl
@[simp] theorem Wave.orFlags_seqNext (w : Wave) (l : FFlags) : (w.orFlags l).seqNext = w.seqNext := rfl
@[simp] theorem Wave.orFlags_copySeq (w : Wave) (l : FFlags) : (w.orFlags l).copySeq = w.copySeq := rfl
@[simp] theorem Wave.orFlags_joins (w : Wave) (l : FFlags) : (w.orFlags l).joins = w.joins := rfl
@[simp] theorem Wave.orFlags_exch (w : Wave) (l : FFlags) : (w.orFlags l).exch = w.exch := rfl
@[simp] theorem Wave.orFlags_trap (w : Wave) (l : FFlags) : (w.orFlags l).trap = w.trap := rfl
@[simp] theorem Wave.orFlags_trapbase (w : Wave) (l : FFlags) : (w.orFlags l).trapbase = w.trapbase := rfl
@[simp] theorem Wave.orFlags_latchA (w : Wave) (l : FFlags) : (w.orFlags l).latchA = w.latchA := rfl
@[simp] theorem Wave.orFlags_latchB (w : Wave) (l : FFlags) : (w.orFlags l).latchB = w.latchB := rfl
@[simp] theorem Wave.orFlags_engines (w : Wave) (l : FFlags) : (w.orFlags l).engines = w.engines := rfl
@[simp] theorem Wave.orFlags_owed (w : Wave) (l : FFlags) : (w.orFlags l).owed = w.owed := rfl
@[simp] theorem Wave.orFlags_palm (w : Wave) (l : FFlags) : (w.orFlags l).palm = w.palm := rfl
@[simp] theorem Wave.orFlags_loose (w : Wave) (l : FFlags) : (w.orFlags l).loose = w.loose := rfl
@[simp] theorem Wave.orFlags_fenced (w : Wave) (l : FFlags) : (w.orFlags l).fenced = w.fenced := rfl
@[simp] theorem Wave.orFlags_admitted (w : Wave) (l : FFlags) : (w.orFlags l).admitted = w.admitted := rfl
@[simp] theorem Wave.orFlags_lastLane (w : Wave) (l : FFlags) : (w.orFlags l).lastLane = w.lastLane := rfl
@[simp] theorem Wave.orFlags_readySince (w : Wave) (l : FFlags) : (w.orFlags l).readySince = w.readySince := rfl
@[simp] theorem Wave.orFlags_overdue (w : Wave) (l : FFlags) : (w.orFlags l).overdue = w.overdue := rfl
@[simp] theorem Wave.orFlags_yieldAt (w : Wave) (l : FFlags) : (w.orFlags l).yieldAt = w.yieldAt := rfl
@[simp] theorem Wave.orFlags_frozen (w : Wave) (l : FFlags) : (w.orFlags l).frozen = w.frozen := rfl
@[simp] theorem Wave.orFlags_ended (w : Wave) (l : FFlags) : (w.orFlags l).ended = w.ended := rfl

/-! ### Threads -/

@[simp] theorem Thread.advance_present (th : Thread) (stall clk : Nat) (pc : Word) (src : Option Word) : (th.advance stall clk pc src).present = th.present := rfl
@[simp] theorem Thread.advance_exited (th : Thread) (stall clk : Nat) (pc : Word) (src : Option Word) : (th.advance stall clk pc src).exited = th.exited := rfl
@[simp] theorem Thread.advance_pc (th : Thread) (stall clk : Nat) (pc : Word) (src : Option Word) : (th.advance stall clk pc src).pc = pc := rfl
@[simp] theorem Thread.advance_cond (th : Thread) (stall clk : Nat) (pc : Word) (src : Option Word) : (th.advance stall clk pc src).cond = th.cond := rfl
@[simp] theorem Thread.advance_lsp (th : Thread) (stall clk : Nat) (pc : Word) (src : Option Word) : (th.advance stall clk pc src).lsp = th.lsp := rfl
@[simp] theorem Thread.advance_elem (th : Thread) (stall clk : Nat) (pc : Word) (src : Option Word) : (th.advance stall clk pc src).elem = th.elem := rfl
@[simp] theorem Thread.advance_eptr (th : Thread) (stall clk : Nat) (pc : Word) (src : Option Word) : (th.advance stall clk pc src).eptr = th.eptr := rfl
@[simp] theorem Thread.advance_tepc (th : Thread) (stall clk : Nat) (pc : Word) (src : Option Word) : (th.advance stall clk pc src).tepc = th.tepc := rfl
@[simp] theorem Thread.advance_tcond (th : Thread) (stall clk : Nat) (pc : Word) (src : Option Word) : (th.advance stall clk pc src).tcond = th.tcond := rfl
@[simp] theorem Thread.advance_tscratch0 (th : Thread) (stall clk : Nat) (pc : Word) (src : Option Word) : (th.advance stall clk pc src).tscratch0 = th.tscratch0 := rfl
@[simp] theorem Thread.advance_tscratch1 (th : Thread) (stall clk : Nat) (pc : Word) (src : Option Word) : (th.advance stall clk pc src).tscratch1 = th.tscratch1 := rfl
@[simp] theorem Thread.advance_tscratch2 (th : Thread) (stall clk : Nat) (pc : Word) (src : Option Word) : (th.advance stall clk pc src).tscratch2 = th.tscratch2 := rfl
@[simp] theorem Thread.advance_tscratch3 (th : Thread) (stall clk : Nat) (pc : Word) (src : Option Word) : (th.advance stall clk pc src).tscratch3 = th.tscratch3 := rfl
@[simp] theorem Thread.advance_source (th : Thread) (stall clk : Nat) (pc : Word) (src : Option Word) : (th.advance stall clk pc src).source = src := rfl
@[simp] theorem Thread.advance_wait (th : Thread) (stall clk : Nat) (pc : Word) (src : Option Word) : (th.advance stall clk pc src).wait = th.wait := rfl
@[simp] theorem Thread.advance_pend (th : Thread) (stall clk : Nat) (pc : Word) (src : Option Word) : (th.advance stall clk pc src).pend = (th.pend.map (fun p => { p with dist := p.dist + stall + 1 })).filter (fun p => decide (p.dist < p.lat)) := rfl
@[simp] theorem Thread.advance_readyAt (th : Thread) (stall clk : Nat) (pc : Word) (src : Option Word) : (th.advance stall clk pc src).readyAt = clk + stall + 1 := rfl
@[simp] theorem Thread.advance_faddoSeq (th : Thread) (stall clk : Nat) (pc : Word) (src : Option Word) : (th.advance stall clk pc src).faddoSeq = th.faddoSeq := rfl
@[simp] theorem Thread.advance_el (th : Thread) (stall clk : Nat) (pc : Word) (src : Option Word) : (th.advance stall clk pc src).el = th.el := rfl
@[simp] theorem Thread.advance_culled (th : Thread) (stall clk : Nat) (pc : Word) (src : Option Word) : (th.advance stall clk pc src).culled = th.culled := rfl
@[simp] theorem Thread.advance_stood (th : Thread) (stall clk : Nat) (pc : Word) (src : Option Word) : (th.advance stall clk pc src).stood = th.stood := rfl
@[simp] theorem Thread.advance_stoodPc (th : Thread) (stall clk : Nat) (pc : Word) (src : Option Word) : (th.advance stall clk pc src).stoodPc = th.stoodPc := rfl

@[simp] theorem Thread.enter_present (th : Thread) (base resume : Word) : (th.enter base resume).present = th.present := rfl
@[simp] theorem Thread.enter_exited (th : Thread) (base resume : Word) : (th.enter base resume).exited = th.exited := rfl
@[simp] theorem Thread.enter_pc (th : Thread) (base resume : Word) : (th.enter base resume).pc = base := rfl
@[simp] theorem Thread.enter_cond (th : Thread) (base resume : Word) : (th.enter base resume).cond = th.cond := rfl
@[simp] theorem Thread.enter_lsp (th : Thread) (base resume : Word) : (th.enter base resume).lsp = th.lsp := rfl
@[simp] theorem Thread.enter_elem (th : Thread) (base resume : Word) : (th.enter base resume).elem = th.elem := rfl
@[simp] theorem Thread.enter_eptr (th : Thread) (base resume : Word) : (th.enter base resume).eptr = th.eptr := rfl
@[simp] theorem Thread.enter_tepc (th : Thread) (base resume : Word) : (th.enter base resume).tepc = resume := rfl
@[simp] theorem Thread.enter_tcond (th : Thread) (base resume : Word) : (th.enter base resume).tcond = th.condWord := rfl
@[simp] theorem Thread.enter_tscratch0 (th : Thread) (base resume : Word) : (th.enter base resume).tscratch0 = th.tscratch0 := rfl
@[simp] theorem Thread.enter_tscratch1 (th : Thread) (base resume : Word) : (th.enter base resume).tscratch1 = th.tscratch1 := rfl
@[simp] theorem Thread.enter_tscratch2 (th : Thread) (base resume : Word) : (th.enter base resume).tscratch2 = th.tscratch2 := rfl
@[simp] theorem Thread.enter_tscratch3 (th : Thread) (base resume : Word) : (th.enter base resume).tscratch3 = th.tscratch3 := rfl
@[simp] theorem Thread.enter_source (th : Thread) (base resume : Word) : (th.enter base resume).source = none := rfl
@[simp] theorem Thread.enter_wait (th : Thread) (base resume : Word) : (th.enter base resume).wait = Wait.none := rfl
@[simp] theorem Thread.enter_pend (th : Thread) (base resume : Word) : (th.enter base resume).pend = [] := rfl
@[simp] theorem Thread.enter_readyAt (th : Thread) (base resume : Word) : (th.enter base resume).readyAt = 0 := rfl
@[simp] theorem Thread.enter_faddoSeq (th : Thread) (base resume : Word) : (th.enter base resume).faddoSeq = th.faddoSeq := rfl
@[simp] theorem Thread.enter_el (th : Thread) (base resume : Word) : (th.enter base resume).el = th.el := rfl
@[simp] theorem Thread.enter_culled (th : Thread) (base resume : Word) : (th.enter base resume).culled = th.culled := rfl
@[simp] theorem Thread.enter_stood (th : Thread) (base resume : Word) : (th.enter base resume).stood = th.wait := rfl
@[simp] theorem Thread.enter_stoodPc (th : Thread) (base resume : Word) : (th.enter base resume).stoodPc = th.pc := rfl

end Sys2Proof.Machine
end

