-- ==== Sys2Proof/Laws/Issue.lean ====
section
/-!
SUPPORT. What the shared operations of an issue do: the checks and waits before the effect, register writes, the end of an
issue, and the lane-wise instructions.
-/

namespace Sys2Proof.Machine

/-! ### The issue -/

/-- The issue of a run is the current one, and its wave is the state's. -/
theorem State.run?_eq {s : State} {i : Instr} {r : Run} (h : s.run? i = some r) :
    s.cur = some r.c ∧ s.wave? r.c.wid = some r.w ∧ r.ex = s.executing r.c r.w (guardOf i) := by
  unfold State.run? at h
  split at h
  · cases h
  · rename_i c hc
    split at h
    · cases h
    · rename_i w hw
      cases h
      exact ⟨hc, hw, rfl⟩

/-- An instruction that issues has its effect. -/
theorem State.issue_next {s : State} {i : Instr} {r : Run} {wait : State → Run → Bool} {body : State → Run → State}
    (h : Issues s i r) (hw : wait s r = false) : s.issue i wait body = .next (body s r) := by
  unfold State.issue
  simp only [h.issue, h.decode, h.ready, hw, Bool.or_false, Bool.false_eq_true, if_false, h.checks]

/-- Executing threads are present, have not exited, and belong to the group. -/
theorem executing_iff {s : State} {c : Issue} {w : Wave} {g : Guard} {t : Nat} :
    (s.executing c w g).getLsbD t = true ↔
      c.lanes.getLsbD t = true ∧ (w.thread t).present = true ∧ (w.thread t).exited = false ∧ s.guardHolds w g t = true := by
  unfold State.executing
  rw [getLsbD_maskOf]
  simp only [Bool.and_eq_true, decide_eq_true_eq, List.contains_iff_mem, List.mem_filter, mem_lanesOf, Bool.not_eq_true']
  constructor
  · rintro ⟨_, h, h1, h2⟩; exact ⟨h, h1.1, h1.2, h2⟩
  · rintro ⟨h, h1, h2, h3⟩; exact ⟨BitVec.lt_of_getLsbD h, h, ⟨h1, h2⟩, h3⟩

/-- A present thread is one of the wave's. -/
theorem Wave.lt_of_present {w : Wave} {t : Nat} (h : (w.thread t).present = true) : t < w.threads.length := by
  unfold Wave.thread at h
  by_cases hl : t < w.threads.length
  · exact hl
  · rw [List.getElem?_eq_none (by omega)] at h; cases h

/-! ### Threads -/

theorem Wave.thread_modThread (w : Wave) (k j : Nat) (f : Thread → Thread) :
    (w.modThread k f).thread j = if j = k ∧ j < w.threads.length then f (w.thread j) else w.thread j := by
  unfold Wave.thread Wave.modThread
  simp only [getElem?_lmod]
  by_cases hj : j = k
  · by_cases hl : j < w.threads.length
    · have hk : k < w.threads.length := hj ▸ hl
      simp [hj, hk]
    · have hk : ¬k < w.threads.length := fun h => hl (hj ▸ h)
      simp [hj, hk]
  · simp [hj]

/-- A change of a thread's results in flight only. -/
theorem Wave.modThread_pend (w : Wave) (k : Nat) (f : Thread → Thread) (hf : ∀ th, f th = { th with pend := (f th).pend })
    (l : Nat) : (w.modThread k f).thread l = { w.thread l with pend := ((w.modThread k f).thread l).pend } := by
  rw [Wave.thread_modThread]
  by_cases h : l = k ∧ l < w.threads.length
  · rw [if_pos h]; exact hf _
  · rw [if_neg h]

/-- A change of each thread of a list, once. -/
theorem Wave.foldl_modThread (l : List Nat) (hl : l.Nodup) (f : Nat → Thread → Thread) (w : Wave) :
    (∀ k, (l.foldl (fun w t => w.modThread t (f t)) w).thread k =
        if k ∈ l ∧ k < w.threads.length then f k (w.thread k) else w.thread k) ∧
    l.foldl (fun w t => w.modThread t (f t)) w = { w with threads := (l.foldl (fun w t => w.modThread t (f t)) w).threads } ∧
    (l.foldl (fun w t => w.modThread t (f t)) w).threads.length = w.threads.length := by
  induction l generalizing w with
  | nil => exact ⟨fun k => by simp, rfl, rfl⟩
  | cons a l ih =>
    obtain ⟨ha, hn⟩ := List.nodup_cons.mp hl
    obtain ⟨h1, h2, h3⟩ := ih hn (w.modThread a (f a))
    refine ⟨fun k => ?_, ?_, ?_⟩
    · rw [List.foldl_cons, h1 k, Wave.thread_modThread]
      have hlen : (w.modThread a (f a)).threads.length = w.threads.length := by simp
      simp only [hlen]
      by_cases hka : k = a
      · subst hka; simp [ha]
      · simp [hka]
    · rw [List.foldl_cons, h2]; rfl
    · rw [List.foldl_cons, h3]; simp

/-! ### Register writes -/

/-- A wave with other registers and results in flight. -/
structure RegsOnly (w w' : Wave) : Prop where
  rest    : w' = { w with regs := w'.regs, threads := w'.threads }
  length  : w'.threads.length = w.threads.length
  threads : ∀ l, w'.thread l = { w.thread l with pend := (w'.thread l).pend }

theorem RegsOnly.refl (w : Wave) : RegsOnly w w := ⟨rfl, rfl, fun _ => rfl⟩

theorem RegsOnly.trans {a b c : Wave} (h : RegsOnly a b) (k : RegsOnly b c) : RegsOnly a c := by
  refine ⟨?_, k.length.trans h.length, fun l => ?_⟩
  · rw [k.rest, h.rest]
  · rw [k.threads l, h.threads l]

/-- A result of register x is in flight in thread l. -/
def Wave.clash (w : Wave) (x l : Nat) : Bool := (w.thread l).pend.any (fun p => p.reg == x && decide (p.dist < p.lat))

/-- A result that starts its flight is no result of another place. -/
theorem Wave.clash_addPend (w : Wave) (k x l : Nat) (p : Pend) (h : ¬(p.reg = x ∧ l = k)) :
    (w.modThread k (fun th => { th with pend := th.pend ++ [p] })).clash x l = w.clash x l := by
  unfold Wave.clash
  rw [Wave.thread_modThread]
  by_cases hk : l = k ∧ l < w.threads.length
  · have hx : ¬p.reg = x := fun hh => h ⟨hh, hk.1⟩
    rw [if_pos hk]
    simp [hx]
  · rw [if_neg hk]

theorem Wave.reg_setReg (w : Wave) (r t x l : Nat) (v : Word) (ht : t < 32) (hl : l < 32) :
    (w.setReg r t v).reg x l = if x = r ∧ l = t then v else w.reg x l := by
  unfold Wave.reg Wave.setReg
  rw [tget_tset]
  by_cases h : x = r ∧ l = t
  · rw [if_pos h, if_pos (by omega)]
  · rw [if_neg h, if_neg (by omega)]

/-- One write of a lane's register. -/
theorem State.writeLane_spec (s : State) (lat : Option Nat) (pc : Word) (w : Wave) (t r : Nat) (v : Word) (ht : t < 32) :
    RegsOnly w (s.writeLane lat pc w t r v) ∧
    (∀ x l, l < 32 → ¬(x = r ∧ l = t) → (s.writeLane lat pc w t r v).reg x l = w.reg x l) ∧
    (∀ x l, ¬(x = r ∧ l = t) → (s.writeLane lat pc w t r v).clash x l = w.clash x l) ∧
    ((s.writeLane lat pc w t r v).reg r t = v ∨
      (w.clash r t = true ∧ (s.writeLane lat pc w t r v).reg r t = w.reg r t)) := by
  have hreg : ∀ x l, (s.writeLane lat pc w t r v).reg x l =
      (w.setReg r t (if w.clash r t && s.freeBit (freeAt 29 t + r) then w.reg r t else v)).reg x l := by
    intro x l; unfold State.writeLane; cases lat <;> rfl
  refine ⟨?_, fun x l hl h => ?_, fun x l h => ?_, ?_⟩
  · unfold State.writeLane
    cases lat with
    | none => exact ⟨rfl, rfl, fun _ => rfl⟩
    | some n =>
      exact ⟨rfl, by simp, Wave.modThread_pend _ t _ (fun _ => rfl)⟩
  · rw [hreg, Wave.reg_setReg _ _ _ _ _ _ ht hl, if_neg h]
  · unfold State.writeLane
    cases lat with
    | none => rfl
    | some n => exact Wave.clash_addPend _ _ _ _ _ (fun hh => h ⟨hh.1.symm, hh.2⟩)
  · rw [hreg, Wave.reg_setReg _ _ _ _ _ _ ht ht, if_pos ⟨rfl, rfl⟩]
    by_cases h : (w.clash r t && s.freeBit (freeAt 29 t + r)) = true
    · rw [if_pos h]; exact Or.inr ⟨(Bool.and_eq_true _ _ ▸ h).1, rfl⟩
    · rw [if_neg h]; exact Or.inl rfl

/-- A write leaves the other threads alone. -/
theorem State.writeLanes_thread (s : State) (lat : Option Nat) (pc : Word) (L : List (Nat × Nat × Word)) (w : Wave)
    (l : Nat) (h : ∀ e ∈ L, l ≠ e.1) :
    (L.foldl (fun w x => s.writeLane lat pc w x.1 x.2.1 x.2.2) w).thread l = w.thread l := by
  induction L generalizing w with
  | nil => rfl
  | cons a L ih =>
    rw [List.foldl_cons, ih _ (fun e he => h e (by simp [he]))]
    unfold State.writeLane
    cases lat with
    | none => rfl
    | some n => exact (Wave.thread_modThread _ _ _ _).trans (if_neg (fun hh => h a (by simp) hh.1))

/-- Writes of a list of (lane, register, value), no two to one place. -/
theorem State.writeLanes_spec (s : State) (lat : Option Nat) (pc : Word) (L : List (Nat × Nat × Word)) (w : Wave)
    (hL : ∀ x ∈ L, x.1 < 32) (hd : L.Pairwise (fun a b => ¬(a.2.1 = b.2.1 ∧ a.1 = b.1))) :
    RegsOnly w (L.foldl (fun w x => s.writeLane lat pc w x.1 x.2.1 x.2.2) w) ∧
    (∀ x l, l < 32 → (∀ e ∈ L, ¬(x = e.2.1 ∧ l = e.1)) →
      (L.foldl (fun w x => s.writeLane lat pc w x.1 x.2.1 x.2.2) w).reg x l = w.reg x l) ∧
    (∀ e ∈ L, (L.foldl (fun w x => s.writeLane lat pc w x.1 x.2.1 x.2.2) w).reg e.2.1 e.1 = e.2.2 ∨
      (w.clash e.2.1 e.1 = true ∧
        (L.foldl (fun w x => s.writeLane lat pc w x.1 x.2.1 x.2.2) w).reg e.2.1 e.1 = w.reg e.2.1 e.1)) := by
  induction L generalizing w with
  | nil => exact ⟨RegsOnly.refl w, fun _ _ _ _ => rfl, fun e he => absurd he (by simp)⟩
  | cons a L ih =>
    obtain ⟨hda, hdL⟩ := List.pairwise_cons.mp hd
    have ha : a.1 < 32 := hL a (by simp)
    obtain ⟨w1, w2, w3, w4⟩ := s.writeLane_spec lat pc w a.1 a.2.1 a.2.2 ha
    obtain ⟨i1, i2, i3⟩ := ih (s.writeLane lat pc w a.1 a.2.1 a.2.2) (fun x hx => hL x (by simp [hx])) hdL
    refine ⟨w1.trans i1, fun x l hl h => ?_, fun e he => ?_⟩
    · rw [List.foldl_cons, i2 x l hl (fun e he => h e (by simp [he])), w2 x l hl (h a (by simp))]
    · rw [List.foldl_cons]
      rcases List.mem_cons.mp he with rfl | he
      · rw [i2 _ _ ha (fun e' he' => hda e' he')]
        exact w4
      · have hne : ¬(e.2.1 = a.2.1 ∧ e.1 = a.1) := fun h => hda e he ⟨h.1.symm, h.2.symm⟩
        have he32 : e.1 < 32 := hL e (by simp [he])
        rw [← w3 _ _ hne, ← w2 _ _ he32 hne]
        exact i3 e he

/-! ### The end of an issue -/

/-- A wave with other registers, tags, poison marks, flags and results in flight: what comes before the end of a lane-wise
issue. -/
structure LaneWrites (w w' : Wave) : Prop where
  rest : w' = { w with regs := w'.regs, tags := w'.tags, poison := w'.poison, loaded := w'.loaded, threads := w'.threads }
  length  : w'.threads.length = w.threads.length
  threads : ∀ l, w'.thread l = { w.thread l with pend := (w'.thread l).pend, cond := (w'.thread l).cond }

theorem RegsOnly.laneWrites {w w' : Wave} (h : RegsOnly w w') : LaneWrites w w' :=
  ⟨by rw [h.rest], h.length, fun l => by rw [h.threads l]⟩

theorem map_used_lmod (l : List Partition) (p : Nat) :
    (lmod l p (fun p => { p with used := p.used + 1 })).map (fun p => { p with used := 0 }) =
      l.map (fun p => { p with used := 0 }) := by
  apply List.ext_getElem?
  intro j
  simp only [List.getElem?_map, getElem?_lmod]
  by_cases h : j = p
  · rw [if_pos h]; cases l[j]? <;> rfl
  · rw [if_neg h]

theorem amod_turn (l : List (Nat × Gang)) (k n : Nat) :
    (amod l k (fun a => { a with turn := n })).map (fun e => (e.1, { e.2 with turn := 0 })) =
      l.map (fun e => (e.1, { e.2 with turn := 0 })) := by
  unfold amod
  rw [List.map_map]
  refine List.map_congr_left (fun e _ => ?_)
  rw [Function.comp_apply]
  split <;> rfl

/-- A step of the rotation changes its gang's turn alone (R243). -/
theorem State.stepUsed_spec (s : State) (wid : Nat) :
    s.stepUsed wid = { s with gangs := (s.stepUsed wid).gangs } ∧ SameGangs s (s.stepUsed wid) := by
  unfold State.stepUsed
  split
  · exact ⟨rfl, rfl⟩
  · split
    · exact ⟨rfl, rfl⟩
    · exact ⟨rfl, amod_turn _ _ _⟩

/-- What the bookkeeping of an issue changes. -/
theorem State.account_spec (s : State) (i : Instr) (r : Run) :
    (s.account i r).waves = amod s.waves r.c.wid (fun w => w.issueDone i r.c.lanes (s.isDet w) s.dev.clk) ∧
    Accounted s (s.account i r) := by
  obtain ⟨h1, h2⟩ := (s.modWave r.c.wid (fun w => w.issueDone i r.c.lanes (s.isDet w) s.dev.clk)).stepUsed_spec r.c.wid
  unfold State.account
  generalize (s.modWave r.c.wid (fun w => w.issueDone i r.c.lanes (s.isDet w) s.dev.clk)).stepUsed r.c.wid = u at h1 h2
  obtain ⟨g, rfl⟩ : ∃ g, u = { s.modWave r.c.wid (fun w => w.issueDone i r.c.lanes (s.isDet w) s.dev.clk) with gangs := g } := ⟨_, h1⟩
  dsimp only
  split
  · exact ⟨rfl, rfl, h2, map_used_lmod _ _⟩
  · exact ⟨rfl, rfl, h2, rfl⟩

theorem Wave.advanceAll_spec (w : Wave) (i : Instr) (lanes : Lanes) (clk : Nat) (next : Nat → Word × Option Word) :
    w.advanceAll i lanes clk next = { w with threads := (w.advanceAll i lanes clk next).threads } ∧
    (w.advanceAll i lanes clk next).threads.length = w.threads.length ∧
    ∀ l, (w.advanceAll i lanes clk next).thread l =
      if lanes.getLsbD l = true ∧ (w.thread l).exited = false ∧ l < w.threads.length then
        (w.thread l).advance (hdrOf i).stall.toNat clk (next l).1 (next l).2 else w.thread l := by
  obtain ⟨t1, t2, t3⟩ := Wave.foldl_modThread (lanesOf lanes) (nodup_lanesOf _)
    (fun t th => if th.exited then th else th.advance (hdrOf i).stall.toNat clk (next t).1 (next t).2) w
  refine ⟨t2, t3, fun l => (t1 l).trans ?_⟩
  simp only [mem_lanesOf]
  by_cases h1 : lanes.getLsbD l = true <;> by_cases h2 : (w.thread l).exited = true <;>
    by_cases h3 : l < w.threads.length <;> simp [h1, h2, h3]

/-- The end of an issue: only its wave, the issue slots and the model's bookkeeping change; its threads go to `next`. -/
theorem State.finishTo_spec (s : State) (i : Instr) (r : Run) (next : Nat → Word × Option Word) (w : Wave)
    (hw : s.wave? r.c.wid = some w) :
    (s.finishTo i r next).wave? r.c.wid =
      some ((w.advanceAll i r.c.lanes s.dev.clk next).issueDone i r.c.lanes
        ((s.modWave r.c.wid (fun w => w.advanceAll i r.c.lanes s.dev.clk next)).isDet
          (w.advanceAll i r.c.lanes s.dev.clk next)) s.dev.clk) ∧
    (∀ k, k ≠ r.c.wid → (s.finishTo i r next).wave? k = s.wave? k) ∧ Accounted s (s.finishTo i r next) := by
  obtain ⟨hf, hs, hg, hp⟩ := State.account_spec (s.modWave r.c.wid (fun w => w.advanceAll i r.c.lanes s.dev.clk next)) i r
  refine ⟨?_, fun k hk => ?_, hs, hg, hp⟩
  · unfold State.finishTo State.wave?
    rw [hf, aget?_amod_same, State.modWave_waves, aget?_amod_same, show aget? s.waves r.c.wid = some w from hw]
    rfl
  · unfold State.finishTo State.wave?
    rw [hf, aget?_amod_other _ _ _ _ hk, State.modWave_waves, aget?_amod_other _ _ _ _ hk]

/-! ### Lane-wise results -/

theorem Wave.setFlags_spec (w : Wave) (lat : Option Nat) (clk : Nat) (lanes : Lanes) (fl : FFlags) :
    w.setFlags lat clk lanes fl = { w with
      fflags := (w.setFlags lat clk lanes fl).fflags, flying := (w.setFlags lat clk lanes fl).flying } := by
  unfold Wave.setFlags
  split
  · rfl
  · split <;> rfl

/-- What flags do depends on the flags and those in flight alone. -/
theorem Wave.setFlags_same (v w : Wave) (lat : Option Nat) (clk : Nat) (lanes : Lanes) (fl : FFlags)
    (h : v.fflags = w.fflags) (k : v.flying = w.flying) :
    (v.setFlags lat clk lanes fl).fflags = (w.setFlags lat clk lanes fl).fflags ∧
    (v.setFlags lat clk lanes fl).flying = (w.setFlags lat clk lanes fl).flying := by
  unfold Wave.setFlags Wave.orFlags
  split
  · exact ⟨by rw [← h], k⟩
  · split
    · exact ⟨h, k⟩
    · exact ⟨h, by rw [← k]⟩

theorem LaneWrites.trans {a b c : Wave} (h : LaneWrites a b) (k : LaneWrites b c) : LaneWrites a c := by
  refine ⟨?_, k.length.trans h.length, fun l => ?_⟩
  · rw [k.rest, h.rest]
  · rw [k.threads l, h.threads l]

/-- The writes of the lane results of an issue, without their tags. -/
theorem foldl_laneRes (s : State) (lat : Option Nat) (pc : Word) (res : List LaneRes) (w : Wave) :
    res.foldl (fun w l => l.2.1.foldl (fun w x => s.writeLane lat pc w l.1 x.1 x.2) w) w =
      (res.flatMap (fun l => l.2.1.map (fun x => (l.1, x.1, x.2)))).foldl
        (fun w x => s.writeLane lat pc w x.1 x.2.1 x.2.2) w := by
  induction res generalizing w with
  | nil => rfl
  | cons a res ih => simp only [List.foldl_cons, List.flatMap_cons, List.foldl_append, List.foldl_map, ih]

/-- The marks of one written register: its tag, its poison mark, and whether it derives from a load. -/
def Wave.mark (w : Wave) (r : Nat) (tag : Tag) (whole dep : Bool) : Wave :=
  (w.stamp r tag whole).derive r (dep || (!whole && tget false w.loaded r))

theorem Wave.mark_spec (w : Wave) (r : Nat) (tag : Tag) (whole dep : Bool) :
    w.mark r tag whole dep = { w with
      tags := (w.mark r tag whole dep).tags, poison := (w.mark r tag whole dep).poison
      loaded := (w.mark r tag whole dep).loaded } := by
  unfold Wave.mark Wave.derive Wave.stamp; cases whole <;> rfl

theorem Wave.mark_marks (w : Wave) (r : Nat) (tag : Tag) (whole dep : Bool) (x : Nat) (h : x ≠ r) :
    (w.mark r tag whole dep).tag x = w.tag x ∧ tget 0 (w.mark r tag whole dep).poison x = tget 0 w.poison x := by
  unfold Wave.mark Wave.derive Wave.stamp
  refine ⟨?_, ?_⟩
  · have : ((w.setTag r tag).tag x) = w.tag x := tget_tset_other (Tag.u 0) w.tags r x tag h
    cases whole <;> exact this
  · cases whole
    · rfl
    · exact tget_tset_other (0 : Word) w.poison r x 0 h

theorem Wave.marks_spec (l : List (Nat × Word)) (f : Nat × Word → Tag) (whole dep : Bool) (w : Wave) :
    l.foldl (fun w x => w.mark x.1 (f x) whole dep) w =
      { w with tags := (l.foldl (fun w x => w.mark x.1 (f x) whole dep) w).tags
               poison := (l.foldl (fun w x => w.mark x.1 (f x) whole dep) w).poison
               loaded := (l.foldl (fun w x => w.mark x.1 (f x) whole dep) w).loaded } := by
  induction l generalizing w with
  | nil => rfl
  | cons a l ih => rw [List.foldl_cons, ih, Wave.mark_spec]

theorem Wave.marks_marks (l : List (Nat × Word)) (f : Nat × Word → Tag) (whole dep : Bool) (w : Wave) (x : Nat)
    (h : ∀ e ∈ l, x ≠ e.1) :
    (l.foldl (fun w x => w.mark x.1 (f x) whole dep) w).tag x = w.tag x ∧
      tget 0 (l.foldl (fun w x => w.mark x.1 (f x) whole dep) w).poison x = tget 0 w.poison x := by
  induction l generalizing w with
  | nil => exact ⟨rfl, rfl⟩
  | cons a l ih =>
    obtain ⟨h1, h2⟩ := ih (w.mark a.1 (f a) whole dep) (fun e he => h e (by simp [he]))
    obtain ⟨h3, h4⟩ := Wave.mark_marks w a.1 (f a) whole dep x (h a (by simp))
    exact ⟨h1.trans h3, h2.trans h4⟩

/-- The results of the lanes of an issue, as its effect wants them: each executing lane once, registers of `ds`, none of
them twice. -/
structure ResultsOf (r : Run) (ds : List Nat) (res : List LaneRes) : Prop where
  lanes : res.map (·.1) = lanesOf r.ex
  regs  : ∀ x ∈ res, (∀ e ∈ x.2.1, e.1 ∈ ds) ∧ (x.2.1.map (·.1)).Nodup

theorem ResultsOf.pairwise {r : Run} {ds : List Nat} {res : List LaneRes} (h : ResultsOf r ds res) :
    (res.flatMap (fun l => l.2.1.map (fun x => (l.1, x.1, x.2)))).Pairwise (fun a b => ¬(a.2.1 = b.2.1 ∧ a.1 = b.1)) := by
  have hn : (res.map (·.1)).Nodup := h.lanes ▸ nodup_lanesOf _
  have hr := h.regs
  clear h
  induction res with
  | nil => simp
  | cons a res ih =>
    rw [List.map_cons, List.nodup_cons] at hn
    rw [List.flatMap_cons, List.pairwise_append]
    refine ⟨?_, ih hn.2 (fun x hx => hr x (by simp [hx])), ?_⟩
    · rw [List.pairwise_map]
      have := (hr a (by simp)).2
      rw [List.Nodup, List.pairwise_map] at this
      exact this.imp (fun h hh => h hh.1)
    · intro x hx y hy hxy
      simp only [List.mem_map, List.mem_flatMap] at hx hy
      obtain ⟨e, _, rfl⟩ := hx
      obtain ⟨b, hb, e', _, rfl⟩ := hy
      exact hn.1 (List.mem_map.mpr ⟨b, hb, hxy.2.symm⟩)

/-- The registers, tags and flags of a wave after the results of an issue are written. -/
theorem State.writeRegsOf_wave (s : State) (i : Instr) (r : Run) (lat : Option Nat) (ds : List Nat) (res : List LaneRes)
    (h : ResultsOf r ds res) : ∃ f : Wave → Wave, s.writeRegsOf i r lat res = s.modWave r.c.wid f ∧ ∀ w,
      LaneWrites w (f w) ∧ (f w).fflags = w.fflags ∧ (∀ l, ((f w).thread l).cond = (w.thread l).cond) ∧
      (∀ l, r.ex.getLsbD l = false → (f w).thread l = w.thread l) ∧
      (∀ x, x ∉ ds → (f w).tag x = w.tag x ∧ tget 0 (f w).poison x = tget 0 w.poison x) ∧
      (∀ x l, l < 32 → (x ∈ ds → r.ex.getLsbD l = false) → (f w).reg x l = w.reg x l) ∧
      (∀ x ∈ res, ∀ e ∈ x.2.1, (f w).reg e.1 x.1 = e.2 ∨ (w.clash e.1 x.1 = true ∧ (f w).reg e.1 x.1 = w.reg e.1 x.1)) := by
  have hmem : ∀ x ∈ res, r.ex.getLsbD x.1 = true := fun x hx =>
    (mem_lanesOf _ _).mp (h.lanes ▸ List.mem_map.mpr ⟨x, hx, rfl⟩)
  refine ⟨_, rfl, fun w => ?_⟩
  rw [foldl_laneRes]
  obtain ⟨h1, h2, h3⟩ := s.writeLanes_spec lat r.c.pc (res.flatMap (fun l => l.2.1.map (fun x => (l.1, x.1, x.2)))) w
    (fun x hx => by
      simp only [List.mem_flatMap, List.mem_map] at hx
      obtain ⟨b, hb, e, _, rfl⟩ := hx
      exact BitVec.lt_of_getLsbD (hmem b hb)) h.pairwise
  have h4 := s.writeLanes_thread lat r.c.pc (res.flatMap (fun l => l.2.1.map (fun x => (l.1, x.1, x.2)))) w
  have hstamp : ∀ v : Wave, ∃ tg ps ld, (match res with
      | [] => v
      | l :: _ => l.2.1.foldl (fun w x =>
          w.mark x.1 (s.resultTag r.w i r.ex x.2) (r.ex == r.w.present) (s.dependent r.w i)) v) =
      { v with tags := tg, poison := ps, loaded := ld } ∧
      ∀ x, x ∉ ds → tget (.u 0) tg x = v.tag x ∧ tget 0 ps x = tget 0 v.poison x := by
    intro v
    cases res with
    | nil => exact ⟨_, _, _, rfl, fun _ _ => ⟨rfl, rfl⟩⟩
    | cons a res =>
      refine ⟨_, _, _, Wave.marks_spec a.2.1 (fun x => s.resultTag r.w i r.ex x.2) _ _ v, fun x hx => ?_⟩
      exact Wave.marks_marks a.2.1 (fun x => s.resultTag r.w i r.ex x.2) _ _ v x
        (fun e he hh => hx (hh ▸ (h.regs a (by simp)).1 e he))
  obtain ⟨tg, ps, ld, he, hm⟩ := hstamp ((res.flatMap (fun l => l.2.1.map (fun x => (l.1, x.1, x.2)))).foldl
        (fun w x => s.writeLane lat r.c.pc w x.1 x.2.1 x.2.2) w)
  generalize (res.flatMap (fun l => l.2.1.map (fun x => (l.1, x.1, x.2)))).foldl
        (fun w x => s.writeLane lat r.c.pc w x.1 x.2.1 x.2.2) w = v at h1 h2 h3 h4 he hm
  have key : ∀ v' : Wave, v' = { v with tags := tg, poison := ps, loaded := ld } →
      LaneWrites w v' ∧ v'.fflags = w.fflags ∧ (∀ l, (v'.thread l).cond = (w.thread l).cond) ∧
      (∀ l, r.ex.getLsbD l = false → v'.thread l = w.thread l) ∧
      (∀ x, x ∉ ds → v'.tag x = w.tag x ∧ tget 0 v'.poison x = tget 0 w.poison x) ∧
      (∀ x l, l < 32 → (x ∈ ds → r.ex.getLsbD l = false) → v'.reg x l = w.reg x l) ∧
      (∀ x ∈ res, ∀ e ∈ x.2.1, v'.reg e.1 x.1 = e.2 ∨ (w.clash e.1 x.1 = true ∧ v'.reg e.1 x.1 = w.reg e.1 x.1)) := by
    rintro v' rfl
    refine ⟨⟨by rw [h1.rest], h1.length, fun l => ?_⟩, by rw [h1.rest], fun l => ?_, fun l hl => ?_, fun x hx => ?_,
      fun x l hl hx => ?_, fun x hx e hxe => ?_⟩
    · exact h1.laneWrites.threads l
    · exact (congrArg Thread.cond (h1.threads l) :)
    · refine h4 l (fun e he hc => ?_)
      simp only [List.mem_flatMap, List.mem_map] at he
      obtain ⟨b, hb, e', _, rfl⟩ := he
      rw [hc, hmem b hb] at hl
      exact absurd hl (by simp)
    · have := hm x hx
      rw [show v.tag x = w.tag x by rw [h1.rest]; rfl, show v.poison = w.poison by rw [h1.rest]] at this
      exact this
    · refine h2 x l hl (fun e he hc => ?_)
      simp only [List.mem_flatMap, List.mem_map] at he
      obtain ⟨b, hb, e', he', rfl⟩ := he
      have := hx (hc.1 ▸ (h.regs b hb).1 e' he')
      rw [hc.2, hmem b hb] at this
      exact absurd this (by simp)
    · exact h3 (x.1, e.1, e.2) (List.mem_flatMap.mpr ⟨x, hx, List.mem_map.mpr ⟨e, hxe, rfl⟩⟩)
  exact key _ he

/-- The flags of lane results together. -/
def flagsOf (res : List LaneRes) : FFlags := (res.map (fun l => (l.1, l.2.2))).foldl (fun a x => a ||| x.2) 0

/-- The end of a lane-wise instruction none of whose flags is trapped, after a change of its wave's registers, marks and
results in flight. -/
theorem State.flagsAndFinish_spec {s : State} {i : Instr} {r : Run} {w0 : Wave} {ds : List Nat} {f : Wave → Wave}
    {fls : List (Nat × FFlags)} (hw : s.wave? r.c.wid = some w0)
    (hxe : ∀ l, r.ex.getLsbD l = true → r.c.lanes.getLsbD l = true ∧ (w0.thread l).exited = false ∧ l < w0.threads.length)
    (f1 : LaneWrites w0 (f w0)) (f2 : (f w0).fflags = w0.fflags)
    (f6 : ∀ l, r.ex.getLsbD l = false → (f w0).thread l = w0.thread l)
    (f7 : ∀ x, x ∉ ds → (f w0).tag x = w0.tag x ∧ tget 0 (f w0).poison x = tget 0 w0.poison x)
    (f4 : ∀ x l, l < 32 → (x ∈ ds → r.ex.getLsbD l = false) → (f w0).reg x l = w0.reg x l)
    (ht : ∀ x ∈ fls, r.w.trapping x.2 = 0) :
    ∃ w', LaneStep s i { r with w := w0 } ds (fls.foldl (fun a x => a ||| x.2) 0) ((s.modWave r.c.wid f).flagsAndFinish i r fls) w' ∧
      (∀ l, (w'.thread l).cond = ((f w0).thread l).cond) ∧ ∀ x l, w'.reg x l = (f w0).reg x l := by
  have hmask : maskOf ((fls.filter (fun x => r.w.trapping x.2 != 0)).map Prod.fst) = 0 := by
    rw [List.filter_eq_nil_iff.mpr]; · rfl
    intro x hx
    simp [ht x hx]
  have hv : ((s.modWave r.c.wid f).modWave r.c.wid (fun w => w.setFlags (latency i) s.dev.clk r.c.lanes (fls.foldl (fun a x => a ||| x.2) 0))).wave? r.c.wid =
      some ((f w0).setFlags (latency i) s.dev.clk r.c.lanes (fls.foldl (fun a x => a ||| x.2) 0)) := by
    unfold State.wave?
    rw [State.modWave_waves, aget?_amod_same, State.modWave_waves, aget?_amod_same, show aget? s.waves r.c.wid = some w0 from hw]
    rfl
  obtain ⟨g1, g2, g3⟩ := State.finishTo_spec _ i r (fun _ => (nextPc i r, none)) _ hv
  have hc : (s.modWave r.c.wid f).flagsAndFinish i r fls =
      ((s.modWave r.c.wid f).modWave r.c.wid (fun w => w.setFlags (latency i) s.dev.clk r.c.lanes (fls.foldl (fun a x => a ||| x.2) 0))).finishTo i r (fun _ => (nextPc i r, none)) := by
    unfold State.flagsAndFinish
    simp only [hmask, if_true]
    rfl
  rw [hc]
  obtain ⟨a1, a2, a3⟩ := Wave.advanceAll_spec ((f w0).setFlags (latency i) s.dev.clk r.c.lanes (fls.foldl (fun a x => a ||| x.2) 0)) i r.c.lanes s.dev.clk
    (fun _ => (nextPc i r, none))
  have hothers : OtherWaves s (((s.modWave r.c.wid f).modWave r.c.wid
      (fun w => w.setFlags (latency i) s.dev.clk r.c.lanes (fls.foldl (fun a x => a ||| x.2) 0))).finishTo i r (fun _ => (nextPc i r, none))) r.c.wid := fun k hk => by
    rw [g2 k hk, State.wave?_modWave_other _ _ _ _ hk, State.wave?_modWave_other _ _ _ _ hk]
  have hmem : SameMemory s (((s.modWave r.c.wid f).modWave r.c.wid
      (fun w => w.setFlags (latency i) s.dev.clk r.c.lanes (fls.foldl (fun a x => a ||| x.2) 0))).finishTo i r (fun _ => (nextPc i r, none))) :=
    fun a => (congrArg (fun u : State => Memory.read u.mem a) g3.machine :)
  generalize hu : ((f w0).setFlags (latency i) s.dev.clk r.c.lanes (fls.foldl (fun a x => a ||| x.2) 0)).advanceAll i r.c.lanes s.dev.clk (fun _ => (nextPc i r, none)) = u
    at a1 a2 a3
  generalize hq : f w0 = q at f1 f2 f4 f6 f7 a1 a2 a3 ⊢
  have hu' : ((f w0).setFlags (latency i) s.dev.clk r.c.lanes (fls.foldl (fun a x => a ||| x.2) 0)).advanceAll i r.c.lanes
      ((s.modWave r.c.wid f).modWave r.c.wid (fun w => w.setFlags (latency i) s.dev.clk r.c.lanes (fls.foldl (fun a x => a ||| x.2) 0))).dev.clk (fun _ => (nextPc i r, none)) = u := hu
  rw [hu'] at g1
  obtain ⟨T, hT⟩ : ∃ T, u = { q.setFlags (latency i) s.dev.clk r.c.lanes (fls.foldl (fun a x => a ||| x.2) 0) with threads := T } := ⟨_, a1⟩
  generalize fls.foldl (fun a x => a ||| x.2) 0 = all at *
  have hth : ∀ l, (q.setFlags (latency i) s.dev.clk r.c.lanes all).thread l = q.thread l := fun l => by rw [Wave.setFlags_spec]; rfl
  have hle : (q.setFlags (latency i) s.dev.clk r.c.lanes all).threads.length = q.threads.length := by rw [Wave.setFlags_spec]
  simp only [hth, hle] at a3
  rw [Wave.setFlags_spec] at hT
  obtain ⟨R, G, L, P, T', hQ⟩ : ∃ R G L P T', q = { w0 with regs := R, tags := G, loaded := L, poison := P, threads := T' } :=
    ⟨_, _, _, _, _, f1.rest⟩
  have hF : (q.setFlags (latency i) s.dev.clk r.c.lanes all).fflags = (w0.setFlags (latency i) s.dev.clk r.c.lanes all).fflags ∧
      (q.setFlags (latency i) s.dev.clk r.c.lanes all).flying = (w0.setFlags (latency i) s.dev.clk r.c.lanes all).flying := by
    subst hQ; exact Wave.setFlags_same _ _ _ _ _ _ rfl rfl
  have hex : ∀ l, (q.thread l).exited = (w0.thread l).exited := fun l => (congrArg Thread.exited (f1.threads l) :)
  have hlen : q.threads.length = w0.threads.length := f1.length
  refine ⟨_, ⟨⟨⟨?_, g3.gangs, g3.parts⟩, g1, hothers, hmem⟩, ?_, ?_, ?_, ?_, ?_, ?_, ?_⟩, ?_, ?_⟩
  · exact g3.machine
  · subst hT; subst hQ; rfl
  · intro x l hl hx
    rw [← f4 x l hl hx, hT]; rfl
  · intro x hx
    rw [← (f7 x hx).1, ← (f7 x hx).2, hT]; exact ⟨rfl, rfl⟩
  · subst hT; subst hQ; rfl
  · rw [hT]; exact hF
  · intro l a b
    have ha3 : u.thread l = if r.c.lanes.getLsbD l = true ∧ (q.thread l).exited = false ∧ l < q.threads.length then
        (q.thread l).advance (hdrOf i).stall.toNat s.dev.clk (nextPc i r) none else q.thread l := a3 l
    have hb : b = u.thread l := rfl
    rw [hex, hlen] at ha3
    by_cases hc : r.c.lanes.getLsbD l = true ∧ a.exited = false ∧ l < w0.threads.length
    · rw [if_pos hc] at ha3
      rw [if_pos hc, hb, ha3, f1.threads l]
      rfl
    · rw [if_neg hc] at ha3
      rw [if_neg hc, hb, ha3]
      cases hx : r.ex.getLsbD l with
      | false => exact f6 l hx
      | true =>
        exact absurd (hxe l hx) hc
  · subst hT; subst hQ; rfl
  · intro l
    refine (congrArg Thread.cond (a3 l)).trans ?_
    split <;> rfl
  · intro x l
    rw [hT]; rfl

/-- The effect of a lane-wise instruction none of whose flags is trapped, on a wave of which it may have changed threads
since its sources were read. -/
theorem State.commitRegs_at {s : State} {i : Instr} {r : Run} {w0 : Wave} {ds : List Nat} {res : List LaneRes}
    (hw : s.wave? r.c.wid = some w0)
    (hxe : ∀ l, r.ex.getLsbD l = true → r.c.lanes.getLsbD l = true ∧ (w0.thread l).exited = false ∧ l < w0.threads.length)
    (h : ResultsOf r ds res) (ht : ∀ x ∈ res, r.w.trapping x.2.2 = 0) :
    ∃ w', LaneStep s i { r with w := w0 } ds (flagsOf res) (s.commitRegs i r res) w' ∧ SameConds { r with w := w0 } w' ∧
      ∀ x ∈ res, ∀ e ∈ x.2.1, Written { r with w := w0 } w' e.1 x.1 e.2 := by
  obtain ⟨f, hf, hfw⟩ := s.writeRegsOf_wave i r (latency i) ds res h
  obtain ⟨f1, f2, f3, f6, f7, f4, f5⟩ := hfw w0
  obtain ⟨w', h1, h2, h3⟩ := State.flagsAndFinish_spec (i := i) (fls := res.map (fun l => (l.1, l.2.2))) hw hxe f1 f2 f6 f7 f4
    (fun x hx => by obtain ⟨y, hy, rfl⟩ := List.mem_map.mp hx; exact ht y hy)
  refine ⟨w', ?_, fun l => (h2 l).trans (f3 l), fun x hx e he => ?_⟩
  · unfold State.commitRegs; rw [hf]; exact h1
  · unfold Written; rw [h3]; exact f5 x hx e he

/-- The executing threads of a run belong to its group and have not exited. -/
theorem State.run?_executing {s : State} {i : Instr} {r : Run} (hr : s.run? i = some r) (l : Nat)
    (hl : r.ex.getLsbD l = true) :
    r.c.lanes.getLsbD l = true ∧ (r.w.thread l).exited = false ∧ l < r.w.threads.length := by
  obtain ⟨_, _, hxe⟩ := State.run?_eq hr
  obtain ⟨e1, e2, e3, _⟩ := executing_iff.mp (hxe ▸ hl)
  exact ⟨e1, e3, Wave.lt_of_present e2⟩

/-- The effect of a lane-wise instruction none of whose flags is trapped. -/
theorem State.commitRegs_spec {s : State} {i : Instr} {r : Run} {ds : List Nat} {res : List LaneRes}
    (hr : s.run? i = some r) (h : ResultsOf r ds res) (ht : ∀ x ∈ res, r.w.trapping x.2.2 = 0) :
    ∃ w', LaneStep s i r ds (flagsOf res) (s.commitRegs i r res) w' ∧ SameConds r w' ∧
      ∀ x ∈ res, ∀ e ∈ x.2.1, Written r w' e.1 x.1 e.2 :=
  State.commitRegs_at (State.run?_eq hr).2.1 (State.run?_executing hr) h ht

/-- The results that a function of the lane gives. -/
theorem resultsOf_map (r : Run) (ds : List Nat) (g : Nat → List (Nat × Word) × FFlags)
    (h : ∀ l, r.ex.getLsbD l = true → (∀ e ∈ (g l).1, e.1 ∈ ds) ∧ ((g l).1.map (·.1)).Nodup) :
    ResultsOf r ds ((lanesOf r.ex).map (fun t => (t, g t))) := by
  refine ⟨by simp [Function.comp_def], fun x hx => ?_⟩
  obtain ⟨t, ht, rfl⟩ := List.mem_map.mp hx
  exact h t ((mem_lanesOf _ _).mp ht)

/-- A lane-wise instruction none of whose flags is trapped: each executing thread's registers take the values that the
function gives for its operands. -/
theorem State.laneOp_next {s : State} {i : Instr} {r : Run} {ds : List Nat}
    {f : State → Run → Nat → List Word → List (Nat × Word) × FFlags} (h : Issues s i r)
    (hd : ∀ l, r.ex.getLsbD l = true →
      (∀ e ∈ (f s r l (s.srcVals r.w i l)).1, e.1 ∈ ds) ∧ ((f s r l (s.srcVals r.w i l)).1.map (·.1)).Nodup)
    (ht : ∀ l, r.ex.getLsbD l = true → r.w.trapping (f s r l (s.srcVals r.w i l)).2 = 0) :
    ∃ t w' fl, s.laneOp i f = .next t ∧ LaneStep s i r ds fl t w' ∧ SameConds r w' ∧
      fl = flagsOf ((lanesOf r.ex).map (fun t => (t, f s r t (s.srcVals r.w i t)))) ∧
      ∀ l, r.ex.getLsbD l = true → ∀ e ∈ (f s r l (s.srcVals r.w i l)).1, Written r w' e.1 l e.2 := by
  obtain ⟨w', h1, h2, h3⟩ := State.commitRegs_spec h.issue
    (resultsOf_map r ds (fun t => f s r t (s.srcVals r.w i t)) hd) (fun x hx => by
      obtain ⟨t, ht', rfl⟩ := List.mem_map.mp hx
      exact ht t ((mem_lanesOf _ _).mp ht'))
  refine ⟨_, w', _, State.issue_next h rfl, h1, h2, rfl, fun l hl e he => ?_⟩
  exact h3 (l, f s r l (s.srcVals r.w i l)) (List.mem_map.mpr ⟨l, (mem_lanesOf _ _).mpr hl, rfl⟩) e he

/-! ### Sub-elements -/

theorem packSubs_div (w : Nat) (l : List Nat) (j : Nat) : packSubs w l / 2 ^ (j * w) % 2 ^ w = l.getD j 0 % 2 ^ w := by
  induction l generalizing j with
  | nil => simp [packSubs]
  | cons a l ih =>
    have ha : a % 2 ^ w < 2 ^ w := Nat.mod_lt _ (Nat.two_pow_pos w)
    cases j with
    | zero => simp [packSubs]
    | succ j =>
      rw [show 2 ^ ((j + 1) * w) = 2 ^ w * 2 ^ (j * w) by rw [← Nat.pow_add]; congr 1; rw [Nat.succ_mul, Nat.add_comm],
        ← Nat.div_div_eq_div_mul, packSubs, Nat.add_mul_div_left _ _ (Nat.two_pow_pos w), Nat.div_eq_of_lt ha, Nat.zero_add, ih j]
      rfl

theorem packSubs_lt (w : Nat) (l : List Nat) : packSubs w l < 2 ^ (w * l.length) := by
  induction l with
  | nil => simp [packSubs]
  | cons a l ih =>
    have ha : a % 2 ^ w < 2 ^ w := Nat.mod_lt _ (Nat.two_pow_pos w)
    rw [packSubs, List.length_cons, Nat.mul_succ, Nat.pow_add, Nat.mul_comm (2 ^ (w * l.length))]
    calc a % 2 ^ w + 2 ^ w * packSubs w l < 2 ^ w + 2 ^ w * packSubs w l := by omega
      _ = 2 ^ w * (packSubs w l + 1) := by rw [Nat.mul_add, Nat.mul_one, Nat.add_comm]
      _ ≤ 2 ^ w * 2 ^ (w * l.length) := Nat.mul_le_mul_left _ ih

/-- A sub-element of a register that was built. -/
theorem sub_buildSubs (w n : Nat) (f : Nat → Nat × FFlags) (j : Nat) (hj : j < n) (hw : w * n ≤ 64) :
    sub (buildSubs w n f).1 j w = (f j).1 % 2 ^ w := by
  unfold sub buildSubs
  have hl : packSubs w (((List.range n).map f).map Prod.fst) < 2 ^ 64 :=
    Nat.lt_of_lt_of_le (packSubs_lt _ _) (Nat.pow_le_pow_right (by decide) (by simpa using hw))
  simp only [BitVec.toNat_ofNat, Nat.mod_eq_of_lt hl, packSubs_div]
  simp [List.getD, hj]

theorem getLsbD_foldl_or {α : Type} (l : List α) (f : α → FFlags) (a : FFlags) (k : Nat) :
    (l.foldl (fun a x => a ||| f x) a).getLsbD k = true ↔ a.getLsbD k = true ∨ ∃ x ∈ l, (f x).getLsbD k = true := by
  induction l generalizing a with
  | nil => simp
  | cons b l ih =>
    rw [List.foldl_cons, ih, BitVec.getLsbD_or, Bool.or_eq_true]
    simp only [List.mem_cons, exists_eq_or_imp, or_assoc]

theorem getLsbD_foldl_or0 {α : Type} (l : List α) (f : α → FFlags) (k : Nat) :
    (l.foldl (fun a x => a ||| f x) 0).getLsbD k = true ↔ ∃ x ∈ l, (f x).getLsbD k = true := by
  rw [getLsbD_foldl_or, show (0 : FFlags).getLsbD k = false from BitVec.getLsbD_zero]
  simp

/-- The flags of a register that was built: those of its sub-elements. -/
theorem buildSubs_flags (w n : Nat) (f : Nat → Nat × FFlags) (k : Nat) :
    (buildSubs w n f).2.getLsbD k = true ↔ ∃ j, j < n ∧ (f j).2.getLsbD k = true := by
  unfold buildSubs
  rw [getLsbD_foldl_or0]
  simp only [List.mem_map, List.mem_range]
  constructor
  · rintro ⟨x, ⟨j, hj, rfl⟩, hk⟩; exact ⟨j, hj, hk⟩
  · rintro ⟨j, hj, hk⟩; exact ⟨_, ⟨j, hj, rfl⟩, hk⟩

theorem buildSubs_noflags (w n : Nat) (f : Nat → Nat × FFlags) (h : ∀ j, (f j).2 = 0) : (buildSubs w n f).2 = 0 := by
  apply BitVec.eq_of_getLsbD_eq
  intro k _
  rw [Bool.eq_iff_iff, buildSubs_flags]
  exact ⟨fun ⟨j, _, hk⟩ => by rw [h j] at hk; exact hk, fun hk => absurd hk (by simp)⟩

theorem trapping_buildSubs (w : Wave) (m n : Nat) (f : Nat → Nat × FFlags) (h : ∀ j, j < n → w.trapping (f j).2 = 0) :
    w.trapping (buildSubs m n f).2 = 0 := by
  unfold Wave.trapping at *
  apply BitVec.eq_of_getLsbD_eq
  intro k _
  rw [BitVec.getLsbD_and]
  cases hb : (buildSubs m n f).2.getLsbD k with
  | false => simp
  | true =>
    obtain ⟨j, hj, hk⟩ := (buildSubs_flags m n f k).mp hb
    have := congrArg (fun x => BitVec.getLsbD x k) (h j hj)
    simpa [hk] using this

/-- A lane-wise instruction whose result is built sub-element by sub-element. -/
theorem State.laneOp_sub {s : State} {i : Instr} {r : Run} {d width n : Nat} {g : Nat → Nat → Nat × FFlags}
    {f : State → Run → Nat → List Word → List (Nat × Word) × FFlags} (h : Issues s i r) (hx : exec i s = s.laneOp i f)
    (hf : ∀ l, f s r l (s.srcVals r.w i l) = ([(d, (buildSubs width n (g l)).1)], (buildSubs width n (g l)).2))
    (hw : width * n ≤ 64) (ht : Untrapped r n g) : SubResult s i r d width n g := by
  obtain ⟨t, w', fl, h1, h2, h3, h4, h5⟩ := State.laneOp_next (f := f) (ds := [d]) h
    (fun l _ => by rw [hf]; simp) (fun l hl => by
      rw [hf]; exact trapping_buildSubs r.w width n (g l) (fun j hj => ht l j hl hj))
  refine ⟨t, w', fl, hx.trans h1, h2, h3, fun k => ?_, fun l hl =>
    ⟨(buildSubs width n (g l)).1, h5 l hl (d, _) (by rw [hf]; simp), fun j hj => ?_⟩⟩
  · rw [h4]
    unfold flagsOf
    rw [getLsbD_foldl_or0]
    simp only [List.mem_map, hf]
    constructor
    · rintro ⟨x, ⟨y, ⟨l, hl, rfl⟩, rfl⟩, hk⟩
      obtain ⟨j, hj, hk⟩ := (buildSubs_flags width n (g l) k).mp hk
      exact ⟨l, j, (mem_lanesOf _ _).mp hl, hj, hk⟩
    · rintro ⟨l, j, hl, hj, hk⟩
      exact ⟨_, ⟨_, ⟨l, (mem_lanesOf _ _).mpr hl, rfl⟩, rfl⟩, (buildSubs_flags width n (g l) k).mpr ⟨j, hj, hk⟩⟩
  · exact sub_buildSubs _ _ _ _ hj hw

/-- A lane-wise instruction whose result is a whole word without flags. -/
theorem State.laneOp_word {s : State} {i : Instr} {r : Run} {d : Nat} {g : Nat → Word}
    {f : State → Run → Nat → List Word → List (Nat × Word) × FFlags} (h : Issues s i r) (hx : exec i s = s.laneOp i f)
    (hf : ∀ l, f s r l (s.srcVals r.w i l) = ([(d, g l)], 0)) : WordResult s i r d g := by
  obtain ⟨t, w', fl, h1, h2, h3, h4, h5⟩ := State.laneOp_next (f := f) (ds := [d]) h
    (fun l _ => by rw [hf]; simp) (fun l hl => by rw [hf]; unfold Wave.trapping; simp)
  have h0 : fl = 0 := by
    rw [h4]
    apply BitVec.eq_of_getLsbD_eq
    intro k _
    rw [Bool.eq_iff_iff]
    unfold flagsOf
    rw [getLsbD_foldl_or0]
    simp only [List.mem_map, hf]
    exact ⟨fun ⟨_, ⟨_, ⟨_, _, h1⟩, h2⟩, hk⟩ => by subst h1; subst h2; exact absurd hk (by simp), fun h => absurd h (by simp)⟩
  exact ⟨t, w', hx.trans h1, h0 ▸ h2, h3, fun l hl => h5 l hl (d, g l) (by rw [hf]; simp)⟩

/-- MOV changes no more than its register and the register's marks (R110, R373). -/
theorem State.movePoison_spec {s t : State} {i : Instr} {r : Run} {ds : List Nat} {fl : FFlags} {w' : Wave} {o : OpA}
    (hd : o.d.toNat ∈ ds) (h : LaneStep s i r ds fl t w') :
    ∃ v, LaneStep s i r ds fl (t.movePoison r o) v ∧ v = { w' with poison := v.poison } := by
  unfold State.movePoison
  split
  · rename_i pc _
    refine ⟨{ w' with poison := tset 0 w'.poison o.d.toNat (pc + 1) }, ⟨⟨⟨?_, h.only.machine.gangs, h.only.machine.parts⟩, ?_,
      fun k hk => ?_, h.only.memory⟩, ?_, h.regs, fun x hx => ⟨(h.marks x hx).1, ?_⟩, h.queues, h.flags, h.threads, h.retired⟩,
      rfl⟩
    · rw [h.only.machine.machine]; rfl
    · rw [State.wave?_modWave_same, h.only.wave]; rfl
    · rw [State.wave?_modWave_other _ _ _ _ hk]; exact h.only.others k hk
    · rw [h.rest]
    · have hne : x ≠ o.d.toNat := fun hh => hx (hh ▸ hd)
      show tget 0 (tset 0 w'.poison _ _) x = _
      rw [tget_tset_other _ _ _ _ _ hne]
      exact (h.marks x hx).2
  · exact ⟨w', h, rfl⟩

/-! ### Condition registers -/

/-- The condition bits of a thread with bit c replaced. -/
theorem cond_bits (old : BitVec 4) (c : Nat) (b : Bool) (k : Nat) (hc : c < 4) :
    (BitVec.ofNat 4 ((List.range 4).foldl
      (fun a j => a + (if (if j = c then b else old.getLsbD j) then 2 ^ j else 0)) 0)).getLsbD k =
      if k = c then b else old.getLsbD k := by
  have h4 : k < 4 ∨ 4 ≤ k := by omega
  rcases h4 with hk | hk
  · revert old
    have : c = 0 ∨ c = 1 ∨ c = 2 ∨ c = 3 := by omega
    have hk' : k = 0 ∨ k = 1 ∨ k = 2 ∨ k = 3 := by omega
    cases b <;> rcases this with rfl | rfl | rfl | rfl <;> rcases hk' with rfl | rfl | rfl | rfl <;> decide
  · rw [BitVec.getLsbD_of_ge _ _ hk, if_neg (by omega), BitVec.getLsbD_of_ge _ _ hk]

/-- One write of a lane's condition register. -/
theorem State.writeCond_spec (s : State) (lat : Option Nat) (pc : Word) (w : Wave) (t c : Nat) (b : Bool) (hc : c < 4)
    (ht : t < w.threads.length) :
    s.writeCond lat pc w t c b = { w with threads := (s.writeCond lat pc w t c b).threads } ∧
    (s.writeCond lat pc w t c b).threads.length = w.threads.length ∧
    (∀ l, l ≠ t → (s.writeCond lat pc w t c b).thread l = w.thread l) ∧
    (s.writeCond lat pc w t c b).thread t = { w.thread t with
      pend := ((s.writeCond lat pc w t c b).thread t).pend, cond := ((s.writeCond lat pc w t c b).thread t).cond } ∧
    (∀ k, k ≠ c → ((s.writeCond lat pc w t c b).thread t).cond.getLsbD k = (w.thread t).cond.getLsbD k) ∧
    (((s.writeCond lat pc w t c b).thread t).cond.getLsbD c = b ∨ (w.clash (256 + c) t = true ∧
      ((s.writeCond lat pc w t c b).thread t).cond.getLsbD c = (w.thread t).cond.getLsbD c)) := by
  have hth : (s.writeCond lat pc w t c b).thread t = { w.thread t with
      cond := BitVec.ofNat 4 ((List.range 4).foldl (fun a j => a + (if (if j = c then
        (if w.clash (256 + c) t && s.freeBit (freeAt 29 t + 256 + c) then (w.thread t).cond.getLsbD c else b)
        else (w.thread t).cond.getLsbD j) then 2 ^ j else 0)) 0)
      pend := ((s.writeCond lat pc w t c b).thread t).pend } := by
    unfold State.writeCond
    rw [Wave.thread_modThread, if_pos ⟨rfl, ht⟩]
    rfl
  refine ⟨rfl, by simp [State.writeCond], fun l hl => ?_, ?_, fun k hk => ?_, ?_⟩
  · unfold State.writeCond
    rw [Wave.thread_modThread, if_neg (fun h => hl h.1)]
  · rw [hth]
  · rw [hth]
    show (BitVec.ofNat 4 _).getLsbD k = _
    rw [cond_bits _ _ _ _ hc, if_neg hk]
  · rw [hth]
    show (BitVec.ofNat 4 _).getLsbD c = _ ∨ _ ∧ (BitVec.ofNat 4 _).getLsbD c = _
    rw [cond_bits _ _ _ _ hc, if_pos rfl]
    by_cases h : (w.clash (256 + c) t && s.freeBit (freeAt 29 t + 256 + c)) = true
    · rw [if_pos h]; exact Or.inr ⟨(Bool.and_eq_true _ _ ▸ h).1, rfl⟩
    · rw [if_neg h]; exact Or.inl rfl

/-- Writes of one condition register of a list of lanes, each once. -/
theorem State.writeConds_spec (s : State) (lat : Option Nat) (pc : Word) (c : Nat) (hc : c < 4) (L : List (Nat × Bool))
    (w : Wave) (hn : (L.map (·.1)).Nodup) (hL : ∀ x ∈ L, x.1 < w.threads.length) :
    (L.foldl (fun w x => s.writeCond lat pc w x.1 c x.2) w) =
      { w with threads := (L.foldl (fun w x => s.writeCond lat pc w x.1 c x.2) w).threads } ∧
    (L.foldl (fun w x => s.writeCond lat pc w x.1 c x.2) w).threads.length = w.threads.length ∧
    (∀ l, (∀ x ∈ L, l ≠ x.1) → (L.foldl (fun w x => s.writeCond lat pc w x.1 c x.2) w).thread l = w.thread l) ∧
    (∀ l, (L.foldl (fun w x => s.writeCond lat pc w x.1 c x.2) w).thread l = { w.thread l with
      pend := ((L.foldl (fun w x => s.writeCond lat pc w x.1 c x.2) w).thread l).pend
      cond := ((L.foldl (fun w x => s.writeCond lat pc w x.1 c x.2) w).thread l).cond }) ∧
    (∀ l k, k ≠ c → ((L.foldl (fun w x => s.writeCond lat pc w x.1 c x.2) w).thread l).cond.getLsbD k =
      (w.thread l).cond.getLsbD k) ∧
    (∀ x ∈ L, ((L.foldl (fun w x => s.writeCond lat pc w x.1 c x.2) w).thread x.1).cond.getLsbD c = x.2 ∨
      (w.clash (256 + c) x.1 = true ∧ ((L.foldl (fun w x => s.writeCond lat pc w x.1 c x.2) w).thread x.1).cond.getLsbD c =
        (w.thread x.1).cond.getLsbD c)) := by
  induction L generalizing w with
  | nil => exact ⟨rfl, rfl, fun _ _ => rfl, fun _ => rfl, fun _ _ _ => rfl, fun x hx => absurd hx (by simp)⟩
  | cons a L ih =>
    rw [List.map_cons, List.nodup_cons] at hn
    obtain ⟨c1, c2, c3, c4, c5, c6⟩ := s.writeCond_spec lat pc w a.1 c a.2 hc (hL a (by simp))
    obtain ⟨i1, i2, i3, i4, i5, i6⟩ := ih (s.writeCond lat pc w a.1 c a.2) hn.2
      (fun x hx => c2 ▸ hL x (by simp [hx]))
    have hne : ∀ x ∈ L, a.1 ≠ x.1 := fun x hx hh => hn.1 (List.mem_map.mpr ⟨x, hx, hh.symm⟩)
    have hcl : ∀ l, (s.writeCond lat pc w a.1 c a.2).thread l = { w.thread l with
        pend := ((s.writeCond lat pc w a.1 c a.2).thread l).pend
        cond := ((s.writeCond lat pc w a.1 c a.2).thread l).cond } := by
      intro l
      by_cases h : l = a.1
      · subst h; exact c4
      · rw [c3 l h]
    simp only [List.foldl_cons]
    refine ⟨by rw [i1, c1], i2.trans c2, fun l hl => ?_, fun l => ?_, fun l k hk => ?_, fun x hx => ?_⟩
    · rw [i3 l (fun x hx => hl x (by simp [hx])), c3 l (hl a (by simp))]
    · rw [i4 l, hcl l]
    · rw [i5 l k hk]
      by_cases h : l = a.1
      · subst h; exact c5 k hk
      · rw [c3 l h]
    · rcases List.mem_cons.mp hx with rfl | hx
      · rw [i3 x.1 hne]; exact c6
      · have := i6 x hx
        unfold Wave.clash at this ⊢
        rwa [c3 x.1 (fun hh => hne x hx hh.symm)] at this

/-- An instruction that writes a condition register, none of whose flags is trapped. -/
theorem State.condOp_next {s : State} {i : Instr} {r : Run} {c : Nat} {f : State → Run → Nat → List Word → Bool × FFlags}
    {g : Nat → Bool} {fl : Nat → FFlags} (h : Issues s i r) (hc : c < 4) (hx : exec i s = s.condOp i c f)
    (hf : ∀ l, f s r l (s.srcVals r.w i l) = (g l, fl l)) (ht : ∀ l, r.ex.getLsbD l = true → r.w.trapping (fl l) = 0) :
    ∃ t w' all, exec i s = .next t ∧ LaneStep s i r [] all t w' ∧
      (∀ k, all.getLsbD k = true ↔ ∃ l, r.ex.getLsbD l = true ∧ (fl l).getLsbD k = true) ∧
      (∀ l k, (r.ex.getLsbD l = true → k ≠ c) → (w'.thread l).cond.getLsbD k = (r.w.thread l).cond.getLsbD k) ∧
      ∀ l, r.ex.getLsbD l = true → (w'.thread l).cond.getLsbD c = g l ∨
        (undersizedWrite r (256 + c) l ∧ (w'.thread l).cond.getLsbD c = (r.w.thread l).cond.getLsbD c) := by
  obtain ⟨_, _, hxe⟩ := State.run?_eq h.issue
  have hlt : ∀ l, r.ex.getLsbD l = true → l < r.w.threads.length := fun l hl =>
    Wave.lt_of_present (executing_iff.mp (hxe ▸ hl)).2.1
  have hfold : ∀ w : Wave, ((lanesOf r.ex).map (fun t => (t, f s r t (s.srcVals r.w i t)))).foldl
      (fun w x => s.writeCond (latency i) r.c.pc w x.1 c x.2.1) w =
      ((lanesOf r.ex).map (fun t => (t, g t))).foldl (fun w x => s.writeCond (latency i) r.c.pc w x.1 c x.2) w := by
    intro w
    simp only [List.foldl_map, hf]
  obtain ⟨c1, c2, c3, c4, c5, c6⟩ := s.writeConds_spec (latency i) r.c.pc c hc ((lanesOf r.ex).map (fun t => (t, g t))) r.w
    (by simpa [Function.comp_def] using nodup_lanesOf r.ex)
    (fun x hx => by obtain ⟨l, hl, rfl⟩ := List.mem_map.mp hx; exact hlt l ((mem_lanesOf _ _).mp hl))
  obtain ⟨w', h1, h2, h3⟩ := State.flagsAndFinish_spec (s := s) (ds := [])
    (f := fun w => ((lanesOf r.ex).map (fun t => (t, f s r t (s.srcVals r.w i t)))).foldl
      (fun w x => s.writeCond (latency i) r.c.pc w x.1 c x.2.1) w)
    (fls := ((lanesOf r.ex).map (fun t => (t, f s r t (s.srcVals r.w i t)))).map (fun x => (x.1, x.2.2)))
    (State.run?_eq h.issue).2.1 (State.run?_executing h.issue)
    (by rw [hfold]; exact ⟨by rw [c1], c2, c4⟩) (by rw [hfold, c1])
    (fun l hl => by
      rw [hfold]
      refine c3 l (fun x hx hh => ?_)
      obtain ⟨t, ht, rfl⟩ := List.mem_map.mp hx
      rw [hh, (mem_lanesOf _ _).mp ht] at hl
      exact absurd hl (by simp))
    (fun x _ => by rw [hfold, c1]; exact ⟨rfl, rfl⟩) (fun x l _ _ => by rw [hfold, c1]; rfl)
    (fun x hx => by
      simp only [List.mem_map] at hx
      obtain ⟨_, ⟨l, hl, rfl⟩, rfl⟩ := hx
      rw [hf]; exact ht l ((mem_lanesOf _ _).mp hl))
  refine ⟨_, w', _, hx.trans (State.issue_next h rfl), h1, fun k => ?_, fun l k hk => ?_, fun l hl => ?_⟩
  · rw [getLsbD_foldl_or0]
    simp only [List.mem_map, hf]
    constructor
    · rintro ⟨_, ⟨_, ⟨l, hl, rfl⟩, rfl⟩, hk⟩; exact ⟨l, (mem_lanesOf _ _).mp hl, hk⟩
    · rintro ⟨l, hl, hk⟩; exact ⟨_, ⟨_, ⟨l, (mem_lanesOf _ _).mpr hl, rfl⟩, rfl⟩, hk⟩
  · rw [h2, hfold]
    by_cases hl : r.ex.getLsbD l = true
    · exact c5 l k (hk hl)
    · rw [c3 l (fun x hx hh => ?_)]
      obtain ⟨t, ht, rfl⟩ := List.mem_map.mp hx
      exact hl (hh ▸ (mem_lanesOf _ _).mp ht)
  · rw [h2, hfold]
    exact c6 (l, g l) (List.mem_map.mpr ⟨l, (mem_lanesOf _ _).mpr hl, rfl⟩)

/-! ### The end of an issue -/

/-- Ending an issue leaves what Finished says. -/
theorem State.finishTo_finished (b : State) (i : Instr) (r : Run) (w0 : Wave) (next : Nat → Word × Option Word)
    (hw : b.wave? r.c.wid = some w0) : ∃ w', Finished b i r w0 (b.finishTo i r next) w' (fun l => (next l).1) := by
  obtain ⟨g1, g2, g3⟩ := State.finishTo_spec b i r next w0 hw
  obtain ⟨a1, a2, a3⟩ := Wave.advanceAll_spec w0 i r.c.lanes b.dev.clk next
  generalize w0.advanceAll i r.c.lanes b.dev.clk next = u at g1 a1 a2 a3
  obtain ⟨T, hT⟩ : ∃ T, u = { w0 with threads := T } := ⟨_, a1⟩
  refine ⟨_, g3, g1, g2, ?_, ?_, ?_, ?_⟩
  · subst hT; rfl
  · subst hT; rfl
  · intro l a c
    have hb : c = u.thread l := rfl
    have ha3 : u.thread l = if r.c.lanes.getLsbD l = true ∧ (w0.thread l).exited = false ∧ l < w0.threads.length then
        (w0.thread l).advance (hdrOf i).stall.toNat b.dev.clk (next l).1 (next l).2 else w0.thread l := a3 l
    by_cases hc : r.c.lanes.getLsbD l = true ∧ a.exited = false ∧ l < w0.threads.length
    · rw [if_pos hc] at ha3; rw [if_pos hc, hb, ha3]; rfl
    · rw [if_neg hc] at ha3; rw [if_neg hc, hb, ha3]
  · subst hT; rfl

theorem State.finish_goesOn (b : State) (i : Instr) (r : Run) (w0 : Wave) (hw : b.wave? r.c.wid = some w0) :
    ∃ w', GoesOn b i r w0 (b.finish i r) w' := State.finishTo_finished b i r w0 _ hw

/-- Filling the translation buffers changes nothing else. -/
theorem State.touch_spec (s : State) (ctx : Nat) (l : List Word) : s.touch ctx l = { s with tlb := (s.touch ctx l).tlb } := by
  unfold State.touch
  induction l generalizing s with
  | nil => rfl
  | cons p l ih =>
    rw [List.foldl_cons, ih]
    split
    · unfold State.fillTlb; split
      · rfl
      · split <;> rfl
    · rfl

/-- The entry that a wave takes for an issue: its place, its number, and what an undersized write keeps (R57). -/
def State.entryIn (s : State) (r : Run) (w0 : Wave) (e : Entry) : Entry :=
  { e with slot := w0.freeEntry, seq := w0.seqNext, keeps := s.keptRegs w0 e, uni := oneResult e.ins && (s.resultTag r.w e.ins r.ex 0).isU }

/-- The issue of a memory instruction that executes in some thread: its entry, and the end of the issue. -/
theorem State.finishEntry_spec (b : State) (i : Instr) (r : Run) (e : Entry) (w0 : Wave) (hw : b.wave? r.c.wid = some w0)
    (hx : r.ex ≠ 0) (hi : e.ins = i) (hp : e.pc = r.c.pc) (h0 : e.w0 = r.c.w0) (h1 : e.w1 = r.c.w1) (he : e.exec = r.ex) :
    ∃ c w', GoesOn c i r (w0.withEntry (b.entryIn r w0 e)) (b.finishEntry i r e) w' ∧
      c = { b with waves := c.waves } ∧ OtherWaves b c r.c.wid ∧
      OfIssue (b.entryIn r w0 e) i r w0 := by
  have hv : (b.addEntry r e).wave? r.c.wid = some (w0.withEntry (b.entryIn r w0 e)) := by
    unfold State.addEntry
    rw [State.wave?_modWave_same, hw]; rfl
  obtain ⟨w', h⟩ := State.finish_goesOn (b.addEntry r e) i r _ hv
  refine ⟨b.addEntry r e, w', ?_, rfl, fun k hk => ?_, ⟨hi, hp, h0, h1, he, rfl, rfl⟩⟩
  · unfold State.finishEntry
    rw [if_neg hx]; exact h
  · unfold State.addEntry
    exact State.wave?_modWave_other _ _ _ _ hk

/-- Where no old translation stands against the tables, an address resolves without a free choice. -/
theorem State.resolve_sure {s : State} {w : Wave} {acc : Acc} {spaces : List Nat} {size align : Nat} {p : Word} {l : Loc} (x y : Nat)
    (ht : ∀ m, s.tlbHit w.ctx (vaOf p) = some m → s.walk w.ctx (vaOf p) = .ok m)
    (h : s.resolve w acc spaces size align p x = .ok l) : s.resolve w acc spaces size align p y = .ok l := by
  have e : s.translate w.ctx (vaOf p) x = s.translate w.ctx (vaOf p) y := by
    unfold State.translate
    split
    · rfl
    · rename_i m hm
      simp [ht m hm]
  unfold State.resolve at *
  dsimp only at *
  rw [← e]
  exact h

end Sys2Proof.Machine
end

