-- ==== Sys2Proof/Laws/Memory.lean ====
section
/-!
SUPPORT. Every operation that changes device memory keeps its canonical form, and memory after reset has it.
-/

namespace Sys2Proof.Machine

/-- Memory after reset is in canonical form. -/
theorem Memory.wf_reset : Memory.wf State.reset.mem = true := rfl

/-- Writing bytes, each where it is served, keeps the canonical form. -/
theorem Memory.wf_writeCells (place : Nat → Nat) (m : List Host.Cell) (a : Nat) (bs : List Byte) (h : Memory.wf m = true) :
    Memory.wf (writeCells place m a bs) = true := by
  induction bs generalizing m a with
  | nil => exact h
  | cons b bs ih => exact ih _ _ (Memory.wf_write m _ b h)

/-- A write of bytes at a physical address keeps the canonical form. -/
theorem State.writePa_wf (s : State) (pa : Nat) (bs : List Byte) (h : Memory.wf s.mem = true) :
    Memory.wf (s.writePa pa bs).mem = true := Memory.wf_writeCells _ _ _ _ h

/-- Wiping a range keeps the canonical form. -/
theorem State.wipePa_wf (s : State) (pa n : Nat) (h : Memory.wf s.mem = true) : Memory.wf (s.wipePa pa n).mem = true :=
  twf_filter _ _ _ h

/-- Wiping all HBM4E keeps the canonical form. -/
theorem State.wipeHbm_wf (s : State) (h : Memory.wf s.mem = true) : Memory.wf s.wipeHbm.mem = true := twf_filter _ _ _ h

/-- A table whose keys end before those of the next one begin. -/
theorem twfFrom_append {α : Type} [DecidableEq α] (d : α) (t u : Table α) (lo m : Nat) (h : twfFrom d lo t = true)
    (hk : ∀ e ∈ t, e.1 < m) (hu : twfFrom d m u = true) (hm : lo ≤ m) : twfFrom d lo (t ++ u) = true := by
  induction t generalizing lo with
  | nil => exact twfFrom_le d u hm hu
  | cons e t ih =>
    simp only [List.cons_append, twfFrom, Bool.and_eq_true] at h ⊢
    exact ⟨h.1, ih _ h.2 (fun x hx => hk x (by simp [hx])) (hk e (by simp))⟩

/-- Tables of ascending pieces, one after the other. -/
theorem twfFrom_flatMap {α : Type} [DecidableEq α] (d : α) (c : Nat) (g : Nat → Table α)
    (hg : ∀ x, twfFrom d (c * x) (g x) = true) (hk : ∀ x, ∀ e ∈ g x, e.1 < c * (x + 1)) (l : List Nat) (lo : Nat)
    (hl : l.Pairwise (· < ·)) (hlo : ∀ x ∈ l, lo ≤ x) : twfFrom d (c * lo) (l.flatMap g) = true := by
  induction l generalizing lo with
  | nil => rfl
  | cons x l ih =>
    obtain ⟨hx, hl⟩ := List.pairwise_cons.mp hl
    rw [List.flatMap_cons]
    have hle : lo ≤ x := hlo x (by simp)
    exact twfFrom_append d _ _ _ (c * (x + 1)) (twfFrom_le d _ (Nat.mul_le_mul_left c hle) (hg x)) (hk x)
      (ih (x + 1) hl (fun y hy => hx y hy)) (Nat.mul_le_mul_left c (by omega))

theorem mem_insertRising (a x : Nat) (l : List Nat) (h : x ∈ insertRising a l) : x = a ∨ x ∈ l := by
  induction l with
  | nil => simpa [insertRising] using h
  | cons b l ih =>
    unfold insertRising at h
    split at h
    · simpa using h
    · split at h
      · exact .inr h
      · rcases List.mem_cons.mp h with rfl | h
        · simp
        · rcases ih h with h | h <;> simp [h]

theorem rising_pairwise (l : List Nat) : (rising l).Pairwise (· < ·) := by
  induction l with
  | nil => exact .nil
  | cons a l ih =>
    change (insertRising a (rising l)).Pairwise (· < ·)
    generalize rising l = m at ih
    induction m with
    | nil => simp [insertRising]
    | cons b m ihm =>
      obtain ⟨hb, hm⟩ := List.pairwise_cons.mp ih
      unfold insertRising
      split
      · rename_i hab
        exact List.pairwise_cons.mpr ⟨fun x hx => by
          rcases List.mem_cons.mp hx with rfl | hx
          · exact hab
          · exact Nat.lt_trans hab (hb x hx), ih⟩
      · split
        · exact ih
        · rename_i h1 h2
          exact List.pairwise_cons.mpr ⟨fun x hx => by
            rcases mem_insertRising _ _ _ hx with rfl | hx
            · omega
            · exact hb x hx, ihm hm⟩

/-- Free bytes stand in the canonical form. -/
theorem State.freeCells_wf (s : State) (a n : Nat) :
    twfFrom unlistedByte a (s.freeCells a n) = true ∧ ∀ e ∈ s.freeCells a n, e.1 < a + n := by
  unfold State.freeCells
  induction n generalizing a with
  | zero => exact ⟨rfl, fun e he => absurd he (by simp)⟩
  | succ n ih =>
    obtain ⟨h1, h2⟩ := ih (a + 1)
    rw [List.range'_succ]
    by_cases hb : (s.free a).setWidth 8 = unlistedByte
    · simp only [List.filterMap_cons, hb, ↓reduceIte]
      exact ⟨twfFrom_le _ _ (by omega) h1, fun e he => by have := h2 e he; omega⟩
    · simp only [List.filterMap_cons, hb, ↓reduceIte, twfFrom, Bool.and_eq_true, decide_eq_true_eq]
      refine ⟨⟨⟨Nat.le_refl _, hb⟩, h1⟩, fun e he => ?_⟩
      rcases List.mem_cons.mp he with rfl | he
      · simp
      · have := h2 e he; omega

/-- New keys leave memory in the canonical form (R355). -/
theorem State.rekey_wf (s : State) : Memory.wf s.rekey.mem = true := by
  have cells : ∀ c k, twfFrom unlistedByte (c * k) (s.freeCells (c * k) c) = true ∧ ∀ e ∈ s.freeCells (c * k) c, e.1 < c * (k + 1) :=
    fun c k => by rw [Nat.mul_add_one]; exact s.freeCells_wf _ _
  refine twfFrom_flatMap unlistedByte 65536 _ (fun f => ?_) (fun f e he => ?_) _ 0 (rising_pairwise _) (fun _ _ => Nat.zero_le _)
  · split
    · exact (cells 65536 f).1
    · have := twfFrom_flatMap unlistedByte 64 (fun k => s.freeCells (64 * k) 64) (fun k => (cells 64 k).1) (fun k => (cells 64 k).2)
        ((rising (s.keyed.map Prod.fst)).filter (fun k => k / 1024 == f)) (1024 * f) ((rising_pairwise _).filter _)
        (fun k hk => by have := (List.mem_filter.mp hk).2; simp only [beq_iff_eq] at this; omega)
      rwa [← Nat.mul_assoc] at this
  · split at he
    · exact (cells 65536 f).2 e he
    · obtain ⟨k, hk, he⟩ := List.mem_flatMap.mp he
      have h1 := (List.mem_filter.mp hk).2
      have h2 := (cells 64 k).2 e he
      simp only [beq_iff_eq] at h1
      omega

/-- Moving a frame's storage keeps the canonical form (R413). -/
theorem State.moveFrame_wf (s : State) (src dst : Nat) (h : Memory.wf s.mem = true) :
    Memory.wf (s.moveFrame src dst).mem = true := by
  simp only [State.moveFrame]
  generalize s.mem.filter (fun c => c.1 / 65536 == src) = l
  have h0 : Memory.wf (s.mem.filter (fun c => !(c.1 / 65536 == src) && c.1 / 65536 != dst)) = true := twf_filter _ _ _ h
  generalize s.mem.filter (fun c => !(c.1 / 65536 == src) && c.1 / 65536 != dst) = m at h0
  induction l generalizing m with
  | nil => exact h0
  | cons c l ih => exact ih _ (Memory.wf_write m _ c.2 h0)

/-- What a reset leaves keeps the canonical form (R356). -/
theorem State.afterReset_wf (s : State) (h : Memory.wf s.mem = true) : Memory.wf s.afterReset.mem = true := h

/-- Loading an image keeps the canonical form (R362). -/
theorem State.loadImage_wf (s : State) (f : FirmwareImage) (h : Memory.wf s.mem = true) :
    Memory.wf (s.loadImage f).mem = true :=
  State.writePa_wf _ _ _ (State.writePa_wf _ _ _ (State.writePa_wf _ _ _ (State.writePa_wf _ _ _ h)))

end Sys2Proof.Machine
end

