-- ==== Sys2Proof/Laws/PerInstr.lean ====
section
/-!
SUPPORT. Statements made per instruction. Length: the number of words that the encoder gives an instruction is the number
that its opcode announces (R39, R54), and an event has no words.
-/

namespace Sys2Proof.Laws

/-- The opcode field of each format holds the opcode (R41). -/
theorem opcOf_hdr (op : BitVec 8) (h : Hdr) (b : BitVec 48) : opcOf (packHdr op h ++ b) = op := by
  simp (disch := omega) only [opcOf, packHdr, BitVec.extractLsb'_append_eq_of_le, BitVec.extractLsb'_append_eq_of_add_le]
  ext k hk
  simp

theorem opcOf_packA (op : BitVec 8) (o : OpA) : opcOf (packA op o) = op := opcOf_hdr _ _ _
theorem opcOf_packI (op : BitVec 8) (o : OpI) : opcOf (packI op o) = op := opcOf_hdr _ _ _
theorem opcOf_packL (op : BitVec 8) (o : OpL) : opcOf (packL op o) = op := opcOf_hdr _ _ _
theorem opcOf_packM (op : BitVec 8) (o : OpM) : opcOf (packM op o) = op := opcOf_hdr _ _ _
theorem opcOf_packC (op : BitVec 8) (o : OpC) : opcOf (packC op o) = op := opcOf_hdr _ _ _
theorem opcOf_packCvt (op : BitVec 8) (ef : Bool) (o : OpCvt) : opcOf (packCvt op ef o) = op := opcOf_hdr _ _ _
theorem opcOf_packClog (op : BitVec 8) (o : OpClog) : opcOf (packClog op o) = op := opcOf_hdr _ _ _

/-- The words of an instruction are as many as its opcode announces; an event has none. -/
def Length.Statement (i : Instr) : Prop :=
  encode i = [] ∨ ∃ w ws, encode i = w :: ws ∧ ws.length = if twoWords (opcOf w) then 1 else 0

theorem Length.nop (o : OpA) : Length.Statement (.nop o) := .inr ⟨_, _, rfl, by rw [opcOf_packA]; rfl⟩
theorem Length.mov (o : OpA) : Length.Statement (.mov o) := .inr ⟨_, _, rfl, by rw [opcOf_packA]; rfl⟩
theorem Length.li (o : OpI) : Length.Statement (.li o) := .inr ⟨_, _, rfl, by rw [opcOf_packI]; rfl⟩
theorem Length.liw (o : OpL) : Length.Statement (.liw o) := .inr ⟨_, _, rfl, by rw [opcOf_packL]; rfl⟩
theorem Length.iadd (o : OpA) : Length.Statement (.iadd o) := .inr ⟨_, _, rfl, by rw [opcOf_packA]; rfl⟩
theorem Length.isub (o : OpA) : Length.Statement (.isub o) := .inr ⟨_, _, rfl, by rw [opcOf_packA]; rfl⟩
theorem Length.imul (o : OpA) : Length.Statement (.imul o) := .inr ⟨_, _, rfl, by rw [opcOf_packA]; rfl⟩
theorem Length.imulh (o : OpA) : Length.Statement (.imulh o) := .inr ⟨_, _, rfl, by rw [opcOf_packA]; rfl⟩
theorem Length.imad (o : OpA) : Length.Statement (.imad o) := .inr ⟨_, _, rfl, by rw [opcOf_packA]; rfl⟩
theorem Length.iaddi (o : OpI) : Length.Statement (.iaddi o) := .inr ⟨_, _, rfl, by rw [opcOf_packI]; rfl⟩
theorem Length.imin (o : OpA) : Length.Statement (.imin o) := .inr ⟨_, _, rfl, by rw [opcOf_packA]; rfl⟩
theorem Length.imax (o : OpA) : Length.Statement (.imax o) := .inr ⟨_, _, rfl, by rw [opcOf_packA]; rfl⟩
theorem Length.iabs (o : OpA) : Length.Statement (.iabs o) := .inr ⟨_, _, rfl, by rw [opcOf_packA]; rfl⟩
theorem Length.ineg (o : OpA) : Length.Statement (.ineg o) := .inr ⟨_, _, rfl, by rw [opcOf_packA]; rfl⟩
theorem Length.and (o : OpA) : Length.Statement (.and o) := .inr ⟨_, _, rfl, by rw [opcOf_packA]; rfl⟩
theorem Length.or (o : OpA) : Length.Statement (.or o) := .inr ⟨_, _, rfl, by rw [opcOf_packA]; rfl⟩
theorem Length.xor (o : OpA) : Length.Statement (.xor o) := .inr ⟨_, _, rfl, by rw [opcOf_packA]; rfl⟩
theorem Length.andn (o : OpA) : Length.Statement (.andn o) := .inr ⟨_, _, rfl, by rw [opcOf_packA]; rfl⟩
theorem Length.shl (o : OpA) : Length.Statement (.shl o) := .inr ⟨_, _, rfl, by rw [opcOf_packA]; rfl⟩
theorem Length.shr (o : OpA) : Length.Statement (.shr o) := .inr ⟨_, _, rfl, by rw [opcOf_packA]; rfl⟩
theorem Length.bfe (o : OpA) : Length.Statement (.bfe o) := .inr ⟨_, _, rfl, by rw [opcOf_packA]; rfl⟩
theorem Length.bfi (o : OpA) : Length.Statement (.bfi o) := .inr ⟨_, _, rfl, by rw [opcOf_packA]; rfl⟩
theorem Length.popc (o : OpA) : Length.Statement (.popc o) := .inr ⟨_, _, rfl, by rw [opcOf_packA]; rfl⟩
theorem Length.clz (o : OpA) : Length.Statement (.clz o) := .inr ⟨_, _, rfl, by rw [opcOf_packA]; rfl⟩
theorem Length.brev (o : OpA) : Length.Statement (.brev o) := .inr ⟨_, _, rfl, by rw [opcOf_packA]; rfl⟩
theorem Length.icmp (o : OpA) : Length.Statement (.icmp o) := .inr ⟨_, _, rfl, by rw [opcOf_packA]; rfl⟩
theorem Length.sel (o : OpA) : Length.Statement (.sel o) := .inr ⟨_, _, rfl, by rw [opcOf_packA]; rfl⟩
theorem Length.lea (o : OpA) : Length.Statement (.lea o) := .inr ⟨_, _, rfl, by rw [opcOf_packA]; rfl⟩
theorem Length.pspace (o : OpA) : Length.Statement (.pspace o) := .inr ⟨_, _, rfl, by rw [opcOf_packA]; rfl⟩
theorem Length.mkaff (o : OpA) : Length.Statement (.mkaff o) := .inr ⟨_, _, rfl, by rw [opcOf_packA]; rfl⟩
theorem Length.idot4 (o : OpA) : Length.Statement (.idot4 o) := .inr ⟨_, _, rfl, by rw [opcOf_packA]; rfl⟩
theorem Length.clog (o : OpClog) : Length.Statement (.clog o) := .inr ⟨_, _, rfl, by rw [opcOf_packClog]; rfl⟩
theorem Length.fadd (o : OpA) : Length.Statement (.fadd o) := .inr ⟨_, _, rfl, by rw [opcOf_packA]; rfl⟩
theorem Length.fsub (o : OpA) : Length.Statement (.fsub o) := .inr ⟨_, _, rfl, by rw [opcOf_packA]; rfl⟩
theorem Length.fmul (o : OpA) : Length.Statement (.fmul o) := .inr ⟨_, _, rfl, by rw [opcOf_packA]; rfl⟩
theorem Length.ffma (o : OpA) : Length.Statement (.ffma o) := .inr ⟨_, _, rfl, by rw [opcOf_packA]; rfl⟩
theorem Length.fmin (o : OpA) : Length.Statement (.fmin o) := .inr ⟨_, _, rfl, by rw [opcOf_packA]; rfl⟩
theorem Length.fmax (o : OpA) : Length.Statement (.fmax o) := .inr ⟨_, _, rfl, by rw [opcOf_packA]; rfl⟩
theorem Length.fcmp (o : OpA) : Length.Statement (.fcmp o) := .inr ⟨_, _, rfl, by rw [opcOf_packA]; rfl⟩
theorem Length.fdiv (o : OpA) : Length.Statement (.fdiv o) := .inr ⟨_, _, rfl, by rw [opcOf_packA]; rfl⟩
theorem Length.fsqrt (o : OpA) : Length.Statement (.fsqrt o) := .inr ⟨_, _, rfl, by rw [opcOf_packA]; rfl⟩
theorem Length.frcp (o : OpA) : Length.Statement (.frcp o) := .inr ⟨_, _, rfl, by rw [opcOf_packA]; rfl⟩
theorem Length.frsq (o : OpA) : Length.Statement (.frsq o) := .inr ⟨_, _, rfl, by rw [opcOf_packA]; rfl⟩
theorem Length.fexp2 (o : OpA) : Length.Statement (.fexp2 o) := .inr ⟨_, _, rfl, by rw [opcOf_packA]; rfl⟩
theorem Length.flog2 (o : OpA) : Length.Statement (.flog2 o) := .inr ⟨_, _, rfl, by rw [opcOf_packA]; rfl⟩
theorem Length.fsin (o : OpA) : Length.Statement (.fsin o) := .inr ⟨_, _, rfl, by rw [opcOf_packA]; rfl⟩
theorem Length.fcos (o : OpA) : Length.Statement (.fcos o) := .inr ⟨_, _, rfl, by rw [opcOf_packA]; rfl⟩
theorem Length.fscs (o : OpA) : Length.Statement (.fscs o) := .inr ⟨_, _, rfl, by rw [opcOf_packA]; rfl⟩
theorem Length.ftanh (o : OpA) : Length.Statement (.ftanh o) := .inr ⟨_, _, rfl, by rw [opcOf_packA]; rfl⟩
theorem Length.frnd (o : OpA) : Length.Statement (.frnd o) := .inr ⟨_, _, rfl, by rw [opcOf_packA]; rfl⟩
theorem Length.fdot2 (o : OpA) : Length.Statement (.fdot2 o) := .inr ⟨_, _, rfl, by rw [opcOf_packA]; rfl⟩
theorem Length.fclamp (o : OpA) : Length.Statement (.fclamp o) := .inr ⟨_, _, rfl, by rw [opcOf_packA]; rfl⟩
theorem Length.fclass (o : OpA) : Length.Statement (.fclass o) := .inr ⟨_, _, rfl, by rw [opcOf_packA]; rfl⟩
theorem Length.fscale (o : OpA) : Length.Statement (.fscale o) := .inr ⟨_, _, rfl, by rw [opcOf_packA]; rfl⟩
theorem Length.fsum (o : OpA) : Length.Statement (.fsum o) := .inr ⟨_, _, rfl, by rw [opcOf_packA]; rfl⟩
theorem Length.flerp (o : OpA) : Length.Statement (.flerp o) := .inr ⟨_, _, rfl, by rw [opcOf_packA]; rfl⟩
theorem Length.cvt (o : OpCvt) : Length.Statement (.cvt o) := .inr ⟨_, _, rfl, by rw [opcOf_packCvt]; rfl⟩
theorem Length.cvtEf (o : OpCvt) : Length.Statement (.cvtEf o) := .inr ⟨_, _, rfl, by rw [opcOf_packCvt]; rfl⟩
theorem Length.cvti (o : OpCvt) : Length.Statement (.cvti o) := .inr ⟨_, _, rfl, by rw [opcOf_packCvt]; rfl⟩
theorem Length.pack (o : OpA) : Length.Statement (.pack o) := .inr ⟨_, _, rfl, by rw [opcOf_packA]; rfl⟩
theorem Length.unpk (o : OpA) : Length.Statement (.unpk o) := .inr ⟨_, _, rfl, by rw [opcOf_packA]; rfl⟩
theorem Length.swz (o : OpA) : Length.Statement (.swz o) := .inr ⟨_, _, rfl, by rw [opcOf_packA]; rfl⟩
theorem Length.decb (o : OpA) : Length.Statement (.decb o) := .inr ⟨_, _, rfl, by rw [opcOf_packA]; rfl⟩
theorem Length.vqdec (o : OpA) : Length.Statement (.vqdec o) := .inr ⟨_, _, rfl, by rw [opcOf_packA]; rfl⟩
theorem Length.qnt (o : OpA) : Length.Statement (.qnt o) := .inr ⟨_, _, rfl, by rw [opcOf_packA]; rfl⟩
theorem Length.rand (o : OpA) : Length.Statement (.rand o) := .inr ⟨_, _, rfl, by rw [opcOf_packA]; rfl⟩
theorem Length.amax (o : OpA) : Length.Statement (.amax o) := .inr ⟨_, _, rfl, by rw [opcOf_packA]; rfl⟩
theorem Length.shfl (o : OpA) : Length.Statement (.shfl o) := .inr ⟨_, _, rfl, by rw [opcOf_packA]; rfl⟩
theorem Length.shflx (o : OpA) : Length.Statement (.shflx o) := .inr ⟨_, _, rfl, by rw [opcOf_packA]; rfl⟩
theorem Length.vote (o : OpA) : Length.Statement (.vote o) := .inr ⟨_, _, rfl, by rw [opcOf_packA]; rfl⟩
theorem Length.peers (o : OpA) : Length.Statement (.peers o) := .inr ⟨_, _, rfl, by rw [opcOf_packA]; rfl⟩
theorem Length.wred (o : OpA) : Length.Statement (.wred o) := .inr ⟨_, _, rfl, by rw [opcOf_packA]; rfl⟩
theorem Length.wscan (o : OpA) : Length.Statement (.wscan o) := .inr ⟨_, _, rfl, by rw [opcOf_packA]; rfl⟩
theorem Length.exchangeGroupIssue (w lane : Nat) : Length.Statement (.exchangeGroupIssue w lane) := .inl rfl
theorem Length.ld (o : OpM) : Length.Statement (.ld o) := .inr ⟨_, _, rfl, by rw [opcOf_packM]; rfl⟩
theorem Length.st (o : OpM) : Length.Statement (.st o) := .inr ⟨_, _, rfl, by rw [opcOf_packM]; rfl⟩
theorem Length.ldq (o : OpM) : Length.Statement (.ldq o) := .inr ⟨_, _, rfl, by rw [opcOf_packM]; rfl⟩
theorem Length.pref (o : OpM) : Length.Statement (.pref o) := .inr ⟨_, _, rfl, by rw [opcOf_packM]; rfl⟩
theorem Length.atom (o : OpM) : Length.Statement (.atom o) := .inr ⟨_, _, rfl, by rw [opcOf_packM]; rfl⟩
theorem Length.atomc (o : OpM) : Length.Statement (.atomc o) := .inr ⟨_, _, rfl, by rw [opcOf_packM]; rfl⟩
theorem Length.red (o : OpM) : Length.Statement (.red o) := .inr ⟨_, _, rfl, by rw [opcOf_packM]; rfl⟩
theorem Length.faddo (o : OpM) : Length.Statement (.faddo o) := .inr ⟨_, _, rfl, by rw [opcOf_packM]; rfl⟩
theorem Length.faddoApply (u : Nat) (at_ : Nat) : Length.Statement (.faddoApply u at_) := .inl rfl
theorem Length.chain (o : OpM) : Length.Statement (.chain o) := .inr ⟨_, _, rfl, by rw [opcOf_packM]; rfl⟩
theorem Length.chainTicketPerformed (u : Nat) (at_ : Nat) : Length.Statement (.chainTicketPerformed u at_) := .inl rfl
theorem Length.fence (o : OpM) : Length.Statement (.fence o) := .inr ⟨_, _, rfl, by rw [opcOf_packM]; rfl⟩
theorem Length.waitm (o : OpM) : Length.Statement (.waitm o) := .inr ⟨_, _, rfl, by rw [opcOf_packM]; rfl⟩
theorem Length.waitmPass (w lane : Nat) : Length.Statement (.waitmPass w lane) := .inl rfl
theorem Length.redb (o : OpM) : Length.Statement (.redb o) := .inr ⟨_, _, rfl, by rw [opcOf_packM]; rfl⟩
theorem Length.redbApply (w seq lane : Nat) : Length.Statement (.redbApply w seq lane) := .inl rfl
theorem Length.stt (o : OpM) : Length.Statement (.stt o) := .inr ⟨_, _, rfl, by rw [opcOf_packM]; rfl⟩
theorem Length.ldt (o : OpM) : Length.Statement (.ldt o) := .inr ⟨_, _, rfl, by rw [opcOf_packM]; rfl⟩
theorem Length.pubv (o : OpM) : Length.Statement (.pubv o) := .inr ⟨_, _, rfl, by rw [opcOf_packM]; rfl⟩
theorem Length.snuff (o : OpM) : Length.Statement (.snuff o) := .inr ⟨_, _, rfl, by rw [opcOf_packM]; rfl⟩
theorem Length.vwait (o : OpM) : Length.Statement (.vwait o) := .inr ⟨_, _, rfl, by rw [opcOf_packM]; rfl⟩
theorem Length.cctl (o : OpM) : Length.Statement (.cctl o) := .inr ⟨_, _, rfl, by rw [opcOf_packM]; rfl⟩
theorem Length.icinv (o : OpM) : Length.Statement (.icinv o) := .inr ⟨_, _, rfl, by rw [opcOf_packM]; rfl⟩
theorem Length.cpy (o : OpX) : Length.Statement (.cpy o) := .inr ⟨_, _, rfl, by rw [opcOf_packA]; rfl⟩
theorem Length.cpym (o : OpX) : Length.Statement (.cpym o) := .inr ⟨_, _, rfl, by rw [opcOf_packA]; rfl⟩
theorem Length.cpyg (o : OpX) : Length.Statement (.cpyg o) := .inr ⟨_, _, rfl, by rw [opcOf_packA]; rfl⟩
theorem Length.cpyz (o : OpX) : Length.Statement (.cpyz o) := .inr ⟨_, _, rfl, by rw [opcOf_packA]; rfl⟩
theorem Length.kvcmt (o : OpX) : Length.Statement (.kvcmt o) := .inr ⟨_, _, rfl, by rw [opcOf_packA]; rfl⟩
theorem Length.copyComplete (w seq : Nat) : Length.Statement (.copyComplete w seq) := .inl rfl
theorem Length.mma (o : OpX) : Length.Statement (.mma o) := .inr ⟨_, _, rfl, by rw [opcOf_packA]; rfl⟩
theorem Length.mmag (o : OpX) : Length.Statement (.mmag o) := .inr ⟨_, _, rfl, by rw [opcOf_packA]; rfl⟩
theorem Length.mmar (o : OpX) : Length.Statement (.mmar o) := .inr ⟨_, _, rfl, by rw [opcOf_packA]; rfl⟩
theorem Length.mperm (o : OpX) : Length.Statement (.mperm o) := .inr ⟨_, _, rfl, by rw [opcOf_packA]; rfl⟩
theorem Length.acld (o : OpX) : Length.Statement (.acld o) := .inr ⟨_, _, rfl, by rw [opcOf_packA]; rfl⟩
theorem Length.acst (o : OpX) : Length.Statement (.acst o) := .inr ⟨_, _, rfl, by rw [opcOf_packA]; rfl⟩
theorem Length.acz (o : OpX) : Length.Statement (.acz o) := .inr ⟨_, _, rfl, by rw [opcOf_packA]; rfl⟩
theorem Length.maskt (o : OpX) : Length.Statement (.maskt o) := .inr ⟨_, _, rfl, by rw [opcOf_packA]; rfl⟩
theorem Length.opfence (o : OpX) : Length.Statement (.opfence o) := .inr ⟨_, _, rfl, by rw [opcOf_packA]; rfl⟩
theorem Length.mwait (o : OpX) : Length.Statement (.mwait o) := .inr ⟨_, _, rfl, by rw [opcOf_packA]; rfl⟩
theorem Length.convergenceRoundIssue (g k : Nat) : Length.Statement (.convergenceRoundIssue g k) := .inl rfl
theorem Length.engineCommit (w : Nat) : Length.Statement (.engineCommit w) := .inl rfl
theorem Length.bra (o : OpC) : Length.Statement (.bra o) := .inr ⟨_, _, rfl, by rw [opcOf_packC]; rfl⟩
theorem Length.brx (o : OpC) : Length.Statement (.brx o) := .inr ⟨_, _, rfl, by rw [opcOf_packC]; rfl⟩
theorem Length.call (o : OpC) : Length.Statement (.call o) := .inr ⟨_, _, rfl, by rw [opcOf_packC]; rfl⟩
theorem Length.callt (o : OpC) : Length.Statement (.callt o) := .inr ⟨_, _, rfl, by rw [opcOf_packC]; rfl⟩
theorem Length.ret (o : OpC) : Length.Statement (.ret o) := .inr ⟨_, _, rfl, by rw [opcOf_packC]; rfl⟩
theorem Length.exit (o : OpC) : Length.Statement (.exit o) := .inr ⟨_, _, rfl, by rw [opcOf_packC]; rfl⟩
theorem Length.join (o : OpC) : Length.Statement (.join o) := .inr ⟨_, _, rfl, by rw [opcOf_packC]; rfl⟩
theorem Length.joinRelease (w : Nat) (pc : Word) : Length.Statement (.joinRelease w pc) := .inl rfl
theorem Length.joinDeadlockRelease (w : Nat) : Length.Statement (.joinDeadlockRelease w) := .inl rfl
theorem Length.arrv (o : OpC) : Length.Statement (.arrv o) := .inr ⟨_, _, rfl, by rw [opcOf_packC]; rfl⟩
theorem Length.kset (o : OpC) : Length.Statement (.kset o) := .inr ⟨_, _, rfl, by rw [opcOf_packC]; rfl⟩
theorem Length.sign (o : OpC) : Length.Statement (.sign o) := .inr ⟨_, _, rfl, by rw [opcOf_packC]; rfl⟩
theorem Length.bar (o : OpC) : Length.Statement (.bar o) := .inr ⟨_, _, rfl, by rw [opcOf_packC]; rfl⟩
theorem Length.barrierComplete (g n : Nat) : Length.Statement (.barrierComplete g n) := .inl rfl
theorem Length.gbar (o : OpC) : Length.Statement (.gbar o) := .inr ⟨_, _, rfl, by rw [opcOf_packC]; rfl⟩
theorem Length.yield (o : OpC) : Length.Statement (.yield o) := .inr ⟨_, _, rfl, by rw [opcOf_packC]; rfl⟩
theorem Length.waitp (o : OpC) : Length.Statement (.waitp o) := .inr ⟨_, _, rfl, by rw [opcOf_packC]; rfl⟩
theorem Length.promiseDue (w lane : Nat) : Length.Statement (.promiseDue w lane) := .inl rfl
theorem Length.acq (o : OpC) : Length.Statement (.acq o) := .inr ⟨_, _, rfl, by rw [opcOf_packC]; rfl⟩
theorem Length.acqGrant (core : Nat) : Length.Statement (.acqGrant core) := .inl rfl
theorem Length.acqPreemption (core : Nat) : Length.Statement (.acqPreemption core) := .inl rfl
theorem Length.rel (o : OpC) : Length.Statement (.rel o) := .inr ⟨_, _, rfl, by rw [opcOf_packC]; rfl⟩
theorem Length.rgn (o : OpX) : Length.Statement (.rgn o) := .inr ⟨_, _, rfl, by rw [opcOf_packA]; rfl⟩
theorem Length.launch (o : OpC) : Length.Statement (.launch o) := .inr ⟨_, _, rfl, by rw [opcOf_packC]; rfl⟩
theorem Length.draw (o : OpC) : Length.Statement (.draw o) := .inr ⟨_, _, rfl, by rw [opcOf_packC]; rfl⟩
theorem Length.frameb (o : OpC) : Length.Statement (.frameb o) := .inr ⟨_, _, rfl, by rw [opcOf_packC]; rfl⟩
theorem Length.framee (o : OpC) : Length.Statement (.framee o) := .inr ⟨_, _, rfl, by rw [opcOf_packC]; rfl⟩
theorem Length.sleep (o : OpC) : Length.Statement (.sleep o) := .inr ⟨_, _, rfl, by rw [opcOf_packC]; rfl⟩
theorem Length.sleepExpiry (w lane : Nat) : Length.Statement (.sleepExpiry w lane) := .inl rfl
theorem Length.qpush (o : OpA) : Length.Statement (.qpush o) := .inr ⟨_, _, rfl, by rw [opcOf_packA]; rfl⟩
theorem Length.qpop (o : OpA) : Length.Statement (.qpop o) := .inr ⟨_, _, rfl, by rw [opcOf_packA]; rfl⟩
theorem Length.qctl (o : OpA) : Length.Statement (.qctl o) := .inr ⟨_, _, rfl, by rw [opcOf_packA]; rfl⟩
theorem Length.tspawn (o : OpX) : Length.Statement (.tspawn o) := .inr ⟨_, _, rfl, by rw [opcOf_packA]; rfl⟩
theorem Length.tdep (o : OpA) : Length.Statement (.tdep o) := .inr ⟨_, _, rfl, by rw [opcOf_packA]; rfl⟩
theorem Length.tdepWatch (o : OpA) : Length.Statement (.tdepWatch o) := .inr ⟨_, _, rfl, by rw [opcOf_packA]; rfl⟩
theorem Length.tdec (o : OpA) : Length.Statement (.tdec o) := .inr ⟨_, _, rfl, by rw [opcOf_packA]; rfl⟩
theorem Length.ttime (o : OpA) : Length.Statement (.ttime o) := .inr ⟨_, _, rfl, by rw [opcOf_packA]; rfl⟩
theorem Length.timerWheelTick (lantern : Nat) : Length.Statement (.timerWheelTick lantern) := .inl rfl
theorem Length.taskDispatch (lantern : Nat) : Length.Statement (.taskDispatch lantern) := .inl rfl
theorem Length.taskHeadStarvation (lantern : Nat) : Length.Statement (.taskHeadStarvation lantern) := .inl rfl
theorem Length.heldInstanceAdmit (lantern : Nat) : Length.Statement (.heldInstanceAdmit lantern) := .inl rfl
theorem Length.settleDecrement (inst : Nat) : Length.Statement (.settleDecrement inst) := .inl rfl
theorem Length.hread (o : OpA) : Length.Statement (.hread o) := .inr ⟨_, _, rfl, by rw [opcOf_packA]; rfl⟩
theorem Length.hrel (o : OpA) : Length.Statement (.hrel o) := .inr ⟨_, _, rfl, by rw [opcOf_packA]; rfl⟩
theorem Length.interp (o : OpA) : Length.Statement (.interp o) := .inr ⟨_, _, rfl, by rw [opcOf_packA]; rfl⟩
theorem Length.ecull (o : OpA) : Length.Statement (.ecull o) := .inr ⟨_, _, rfl, by rw [opcOf_packA]; rfl⟩
theorem Length.tex (o : OpX) : Length.Statement (.tex o) := .inr ⟨_, _, rfl, by rw [opcOf_packA]; rfl⟩
theorem Length.boxt (o : OpA) : Length.Statement (.boxt o) := .inr ⟨_, _, rfl, by rw [opcOf_packA]; rfl⟩
theorem Length.trit (o : OpX) : Length.Statement (.trit o) := .inr ⟨_, _, rfl, by rw [opcOf_packA]; rfl⟩
theorem Length.rspawn (o : OpA) : Length.Statement (.rspawn o) := .inr ⟨_, _, rfl, by rw [opcOf_packA]; rfl⟩
theorem Length.pixlk (o : OpA) : Length.Statement (.pixlk o) := .inr ⟨_, _, rfl, by rw [opcOf_packA]; rfl⟩
theorem Length.pixul (o : OpA) : Length.Statement (.pixul o) := .inr ⟨_, _, rfl, by rw [opcOf_packA]; rfl⟩
theorem Length.pxout (o : OpA) : Length.Statement (.pxout o) := .inr ⟨_, _, rfl, by rw [opcOf_packA]; rfl⟩
theorem Length.fragmentTurnBegin (w lane : Nat) : Length.Statement (.fragmentTurnBegin w lane) := .inl rfl
theorem Length.sysr (o : OpI) : Length.Statement (.sysr o) := .inr ⟨_, _, rfl, by rw [opcOf_packI]; rfl⟩
theorem Length.sysw (o : OpI) : Length.Statement (.sysw o) := .inr ⟨_, _, rfl, by rw [opcOf_packI]; rfl⟩
theorem Length.syswHoldquota (o : OpI) : Length.Statement (.syswHoldquota o) := .inr ⟨_, _, rfl, by rw [opcOf_packI]; rfl⟩
theorem Length.syswSpillbase (o : OpI) : Length.Statement (.syswSpillbase o) := .inr ⟨_, _, rfl, by rw [opcOf_packI]; rfl⟩
theorem Length.syswSpillsize (o : OpI) : Length.Statement (.syswSpillsize o) := .inr ⟨_, _, rfl, by rw [opcOf_packI]; rfl⟩
theorem Length.syswFqbase (o : OpI) : Length.Statement (.syswFqbase o) := .inr ⟨_, _, rfl, by rw [opcOf_packI]; rfl⟩
theorem Length.syswFqctl (o : OpI) : Length.Statement (.syswFqctl o) := .inr ⟨_, _, rfl, by rw [opcOf_packI]; rfl⟩
theorem Length.syswTrapbase (o : OpI) : Length.Statement (.syswTrapbase o) := .inr ⟨_, _, rfl, by rw [opcOf_packI]; rfl⟩
theorem Length.syswPtroot (o : OpI) : Length.Statement (.syswPtroot o) := .inr ⟨_, _, rfl, by rw [opcOf_packI]; rfl⟩
theorem Length.syswFflags (o : OpI) : Length.Statement (.syswFflags o) := .inr ⟨_, _, rfl, by rw [opcOf_packI]; rfl⟩
theorem Length.tlbiVa (o : OpA) : Length.Statement (.tlbiVa o) := .inr ⟨_, _, rfl, by rw [opcOf_packA]; rfl⟩
theorem Length.tlbiAsid (o : OpA) : Length.Statement (.tlbiAsid o) := .inr ⟨_, _, rfl, by rw [opcOf_packA]; rfl⟩
theorem Length.tlbiAll (o : OpA) : Length.Statement (.tlbiAll o) := .inr ⟨_, _, rfl, by rw [opcOf_packA]; rfl⟩
theorem Length.wipe (o : OpA) : Length.Statement (.wipe o) := .inr ⟨_, _, rfl, by rw [opcOf_packA]; rfl⟩
theorem Length.prioXchg (o : OpA) : Length.Statement (.prioXchg o) := .inr ⟨_, _, rfl, by rw [opcOf_packA]; rfl⟩
theorem Length.prioSet (o : OpA) : Length.Statement (.prioSet o) := .inr ⟨_, _, rfl, by rw [opcOf_packA]; rfl⟩
theorem Length.prioCoreSwitch (core : Nat) : Length.Statement (.prioCoreSwitch core) := .inl rfl
theorem Length.trap (o : OpI) : Length.Statement (.trap o) := .inr ⟨_, _, rfl, by rw [opcOf_packI]; rfl⟩
theorem Length.brk (o : OpI) : Length.Statement (.brk o) := .inr ⟨_, _, rfl, by rw [opcOf_packI]; rfl⟩
theorem Length.tret (o : OpA) : Length.Statement (.tret o) := .inr ⟨_, _, rfl, by rw [opcOf_packA]; rfl⟩
theorem Length.frz (o : OpA) : Length.Statement (.frz o) := .inr ⟨_, _, rfl, by rw [opcOf_packA]; rfl⟩
theorem Length.thaw (o : OpA) : Length.Statement (.thaw o) := .inr ⟨_, _, rfl, by rw [opcOf_packA]; rfl⟩
theorem Length.jrnl (o : OpA) : Length.Statement (.jrnl o) := .inr ⟨_, _, rfl, by rw [opcOf_packA]; rfl⟩
theorem Length.emit (o : OpA) : Length.Statement (.emit o) := .inr ⟨_, _, rfl, by rw [opcOf_packA]; rfl⟩
theorem Length.jtrunc (o : OpA) : Length.Statement (.jtrunc o) := .inr ⟨_, _, rfl, by rw [opcOf_packA]; rfl⟩
theorem Length.jpart (o : OpA) : Length.Statement (.jpart o) := .inr ⟨_, _, rfl, by rw [opcOf_packA]; rfl⟩
theorem Length.ill : Length.Statement (.ill) := .inr ⟨_, _, rfl, by decide⟩
theorem Length.loadComplete (w seq : Nat) (bad : Lanes) : Length.Statement (.loadComplete w seq bad) := .inl rfl
theorem Length.storeAcknowledge (w seq : Nat) : Length.Statement (.storeAcknowledge w seq) := .inl rfl
theorem Length.deferredFaultArrival (w seq : Nat) (lanes : Lanes) (orig : Nat) : Length.Statement (.deferredFaultArrival w seq lanes orig) := .inl rfl
theorem Length.gangAdmission (part : Nat) : Length.Statement (.gangAdmission part) := .inl rfl
theorem Length.launchAging (u : Nat) : Length.Statement (.launchAging u) := .inl rfl
theorem Length.launchBlocking (u : Nat) : Length.Statement (.launchBlocking u) := .inl rfl
theorem Length.overdueGroup (w lane : Nat) : Length.Statement (.overdueGroup w lane) := .inl rfl
theorem Length.gangRetire (gang : Nat) : Length.Statement (.gangRetire gang) := .inl rfl
theorem Length.launchCompletion (u : Nat) : Length.Statement (.launchCompletion u) := .inl rfl
theorem Length.drawCompletion (u : Nat) : Length.Statement (.drawCompletion u) := .inl rfl
theorem Length.frameCompletion (ctx : Nat) : Length.Statement (.frameCompletion ctx) := .inl rfl
theorem Length.frameElementStart (u : Nat) : Length.Statement (.frameElementStart u) := .inl rfl
theorem Length.objectCreate (u : Nat) : Length.Statement (.objectCreate u) := .inl rfl
theorem Length.clusterCreate (u obj : Nat) : Length.Statement (.clusterCreate u obj) := .inl rfl
theorem Length.vertexCreate (u obj cls : Nat) : Length.Statement (.vertexCreate u obj cls) := .inl rfl
theorem Length.triangleSetup (u obj cls : Nat) : Length.Statement (.triangleSetup u obj cls) := .inl rfl
theorem Length.rayStart (u lantern : Nat) : Length.Statement (.rayStart u lantern) := .inl rfl
theorem Length.heldRecordRelease (rec : Nat) : Length.Statement (.heldRecordRelease rec) := .inl rfl
theorem Length.holdStorageExhausted (ctx : Nat) : Length.Statement (.holdStorageExhausted ctx) := .inl rfl
theorem Length.freezeStop (f : Nat) : Length.Statement (.freezeStop f) := .inl rfl
theorem Length.saveComplete (f : Nat) : Length.Statement (.saveComplete f) := .inl rfl
theorem Length.freezeDeadline (f : Nat) : Length.Statement (.freezeDeadline f) := .inl rfl
theorem Length.restore (f : Nat) : Length.Statement (.restore f) := .inl rfl
theorem Length.coreSparing (core : Nat) : Length.Statement (.coreSparing core) := .inl rfl
theorem Length.atomicResultReturn (w seq : Nat) : Length.Statement (.atomicResultReturn w seq) := .inl rfl
theorem Length.forecastUpdate (part : Nat) : Length.Statement (.forecastUpdate part) := .inl rfl
theorem Length.journalRecordArrival (r : JournalFlit) : Length.Statement (.journalRecordArrival r) := .inl rfl
theorem Length.journalAck (ctx index node : Nat) : Length.Statement (.journalAck ctx index node) := .inl rfl
theorem Length.partnerLost (ctx : Nat) : Length.Statement (.partnerLost ctx) := .inl rfl
theorem Length.remoteAccess (r : FabricReq) : Length.Statement (.remoteAccess r) := .inl rfl
theorem Length.postedWrite (r : FabricReq) : Length.Statement (.postedWrite r) := .inl rfl
theorem Length.rdmaWrite (r : RdmaReq) : Length.Statement (.rdmaWrite r) := .inl rfl
theorem Length.rdmaWriteImmediate (r : RdmaReq) (imm : BitVec 32) : Length.Statement (.rdmaWriteImmediate r imm) := .inl rfl
theorem Length.create (q : MgmtReq) (a : CreateArgs) : Length.Statement (.create q a) := .inl rfl
theorem Length.start (q : MgmtReq) (a : StartArgs) : Length.Statement (.start q a) := .inl rfl
theorem Length.destroy (q : MgmtReq) (ctx : Nat) : Length.Statement (.destroy q ctx) := .inl rfl
theorem Length.level (q : MgmtReq) (ctx level : Nat) : Length.Statement (.level q ctx level) := .inl rfl
theorem Length.freeze (q : MgmtReq) (ctx : Nat) (area : Nat) (deadlineUs : Nat) : Length.Statement (.freeze q ctx area deadlineUs) := .inl rfl
theorem Length.thawTransaction (q : MgmtReq) (ctx : Nat) (area : Nat) : Length.Statement (.thawTransaction q ctx area) := .inl rfl
theorem Length.journal (q : MgmtReq) (a : JournalArgs) : Length.Statement (.journal q a) := .inl rfl
theorem Length.alloc (q : MgmtReq) (a : AllocArgs) : Length.Statement (.alloc q a) := .inl rfl
theorem Length.free (q : MgmtReq) (ctx : Nat) (va size : Nat) : Length.Statement (.free q ctx va size) := .inl rfl
theorem Length.window (q : MgmtReq) (a : WindowArgs) : Length.Statement (.window q a) := .inl rfl
theorem Length.region (q : MgmtReq) (pbase log2slots node : Nat) : Length.Statement (.region q pbase log2slots node) := .inl rfl
theorem Length.division (q : MgmtReq) (a : DivisionArgs) : Length.Statement (.division q a) := .inl rfl
theorem Length.lifecycle (q : MgmtReq) (target : Nat) : Length.Statement (.lifecycle q target) := .inl rfl
theorem Length.spare (q : MgmtReq) (core : Nat) : Length.Statement (.spare q core) := .inl rfl
theorem Length.retire (q : MgmtReq) (stack channel : Nat) (dest : List Nat) : Length.Statement (.retire q stack channel dest) := .inl rfl
theorem Length.firmware (q : MgmtReq) (image : FirmwareImage) : Length.Statement (.firmware q image) := .inl rfl
theorem Length.telemetry (q : MgmtReq) : Length.Statement (.telemetry q) := .inl rfl
theorem Length.clockStop : Length.Statement (.clockStop) := .inl rfl
theorem Length.reset : Length.Statement (.reset) := .inl rfl
theorem Length.laneFailure (eth : Bool) (port lane : Nat) : Length.Statement (.laneFailure eth port lane) := .inl rfl
theorem Length.hbmRowRepair (stack channel row : Nat) : Length.Statement (.hbmRowRepair stack channel row) := .inl rfl
theorem Length.cxlLinkFailure (port : Nat) : Length.Statement (.cxlLinkFailure port) := .inl rfl
theorem Length.powerLimitExceeded : Length.Statement (.powerLimitExceeded) := .inl rfl
theorem Length.overtemperatureStop (die : Nat) : Length.Statement (.overtemperatureStop die) := .inl rfl
theorem Length.ptpOffsetCorrection (offset : Int) : Length.Statement (.ptpOffsetCorrection offset) := .inl rfl
theorem Length.laneRetrainComplete (eth : Bool) (port : Nat) : Length.Statement (.laneRetrainComplete eth port) := .inl rfl

end Sys2Proof.Laws
end

