-- ==== Sys2Proof/Tests/Kit.lean ====
section
/-!
SUPPORT. What the tests are built from: a machine with one control wave of the firmware context, an issue in it, and
checks on an issue that the kernel evaluates.
-/

namespace Sys2Proof.Tests

open Sys2Proof Sys2Proof.Machine

/-! ### Instructions -/

def hd : Hdr := ⟨0, 0, false⟩

/-- v1 from v2, v3 and v4, without a guard. -/
def opA (ty : Ty := .i64) (mod : BitVec 4 := 0) (d : BitVec 8 := 1) (sa : Src := .reg 2) (sb : Src := .reg 3)
    (sc : Src := .reg 0) : OpA := ⟨hd, d, sa, sb, sc, ty, mod, .always⟩

def opM (size : Size := .b32) (ord : Ord := .relaxed) (scope : Scope := .thread) (off : BitVec 10 := 0) (d : BitVec 8 := 8)
    (sa : Src := .reg 4) (sb : Src := .reg 0) : OpM := ⟨hd, d, sa, sb, off, size, ord, scope, .always⟩

def opC (d : BitVec 8 := 0) (sa : Src := .reg 0) (tgt : BitVec 27 := 0) (g : Guard := .always) : OpC := ⟨hd, d, sa, tgt, g⟩

def opI (d : BitVec 8 := 0) (sa : Src := .reg 0) (imm : BitVec 27 := 0) (g : Guard := .always) : OpI := ⟨hd, d, sa, imm, g⟩

def opCvt (ty dst : Ty) (part : BitVec 3 := 0) (mod : BitVec 4 := 0) (sc : Src := .reg 0) : OpCvt :=
  ⟨hd, 1, .reg 2, part, dst, sc, ty, mod, .always⟩

def opX (w1 : Word) (d : BitVec 8 := 0) (sa : Src := .reg 0) (sb : Src := .reg 0) (sc : Src := .reg 0) (mod : BitVec 4 := 0)
    (ty : Ty := .i64) : OpX := ⟨⟨hd, d, sa, sb, sc, ty, mod, .always⟩, w1⟩

/-- The word 1 of a matrix operation (R147). -/
def mmw (fa fb : Nat) (m n ks row col k asrc rb ia sc : Nat := 0) : Word := BitVec.ofNat 64
  (fa * 2 ^ 59 + fb * 2 ^ 54 + m * 2 ^ 51 + n * 2 ^ 48 + ks * 2 ^ 44 + row * 2 ^ 37 + col * 2 ^ 29 + k * 2 ^ 25 + asrc * 2 ^ 23 +
    rb * 2 ^ 22 + ia * 2 ^ 21 + sc * 2 ^ 17)

/-! ### Machines -/

/-- The machine after reset, with node 100 for its fused management node. -/
def blank : State := { State.reset with parts := State.reset.parts.map (fun p => { p with mgmt := 100 }) }

/-- One thread of a control wave of the firmware context stands at `bootPc`. -/
def here : State := blank.standIn

/-- The same wave with four threads. -/
def wide : State := here.modWave 0 (fun w => { w with threads := (List.range 32).map (fun l => w.thread (l / 4)) })

/-- The same machine with its wave in context 1 of partition 0, which has no privilege. -/
def tenant : State :=
  let c : Ctx := { part := 0, priv := false, level := 3, grant := [(0, 0, 4095)], nodes := [], parea := 0, ptroot := 0x1000
                   walkroot := 0x1000, control := some 1 }
  { here with
    ctxs := [(1, c)]
    launches := here.launches.map (fun e => (e.1, { e.2 with ctx := 1 }))
    gangs := here.gangs.map (fun e => (e.1, { e.2 with ctx := 1 }))
    wgs := here.wgs.map (fun e => (e.1, { e.2 with ctx := 1 }))
    waves := here.waves.map (fun e => (e.1, { e.2 with ctx := 1 })) }

/-- Fields of a record in memory: (offset, bytes, value). -/
def fields (s : State) (pa : Nat) (l : List (Nat × Nat × Nat)) : State :=
  l.foldl (fun s x => s.writePa (pa + x.1) (toBytes x.2.1 x.2.2)) s

/-- A code object for compute work at 0x40000: one entry, an allotment of 32 registers and a granule (R64, R65). -/
def computeObj (s : State) : State := fields s 0x40000
  [(0, 4, 0x33484B53), (4, 1, 3), (12, 4, 0x1000), (16, 4, 0x100), (20, 16, 2 ^ 128 - 1), (36, 12, 2 ^ 96 - 1), (0x30, 8, 2 ^ 64 - 1),
   (0x40, 8, 0x100080004), (0x50, 8, 0x100080004)]

/-- A launch record at 0x42000 for that object: one gang of one workgroup of one thread (R225). -/
def launchRec (s : State) : State := fields (computeObj s) 0x42000
  [(0, 8, 0x40000), (8, 3, 1), (0x0C, 1, 1), (0x0E, 2, 1), (0x1C, 4, 16)]

/-- The bytes that are not zero of a code object for draws at 0x44000: entries at the rates of clusters and samples, every
register at the vertex rate, v8 and v9 held (R64, R66). -/
def drawCells : List Host.Cell :=
  [(0x44000, 0x53), (0x44001, 0x4B), (0x44002, 0x48), (0x44003, 0x33), (0x44004, 0x03), (0x44005, 0x01), (0x4400D, 0x10), (0x44010, 0xFF), (0x44011, 0xFF), (0x44012, 0xFF), (0x44013, 0xFF), (0x44014, 0xFF)] ++ (
  [(0x44015, 0xFF), (0x44016, 0xFF), (0x44017, 0xFF), (0x44018, 0xFF), (0x44019, 0xFF), (0x4401A, 0xFF), (0x4401B, 0xFF), (0x4401D, 0x01), (0x44020, 0xFF), (0x44021, 0xFF), (0x44022, 0xFF), (0x44023, 0xFF)] ++ (
  [(0x44024, 0xFF), (0x44025, 0xFF), (0x44026, 0xFF), (0x44027, 0xFF), (0x44028, 0x80), (0x44029, 0x01), (0x4402C, 0xFF), (0x4402D, 0xFF), (0x4402E, 0xFF), (0x4402F, 0xFF), (0x44030, 0xFF), (0x44031, 0xFF)] ++ (
  [(0x44032, 0xFF), (0x44033, 0xFF), (0x44034, 0xFF), (0x44035, 0xFF), (0x44036, 0xFF), (0x44037, 0xFF), (0x44040, 0x04), (0x44042, 0x08), (0x44044, 0x01), (0x44050, 0x04), (0x44052, 0x08), (0x44054, 0x01)] ++ (
  [(0x44080, 0x24), (0x44081, 0x49), (0x44082, 0x92), (0x44083, 0x24), (0x44084, 0x49), (0x44085, 0x92), (0x44086, 0x24), (0x44087, 0x49), (0x44088, 0x92), (0x44089, 0x24), (0x4408A, 0x49), (0x4408B, 0x92)] ++ (
  [(0x4408C, 0x24), (0x4408D, 0x49), (0x4408E, 0x92), (0x4408F, 0x24), (0x44090, 0x49), (0x44091, 0x92), (0x44092, 0x24), (0x44093, 0x49), (0x44094, 0x92), (0x44095, 0x24), (0x44096, 0x49), (0x44097, 0x92)] ++ (
  [(0x44098, 0x24), (0x44099, 0x49), (0x4409A, 0x92), (0x4409B, 0x24), (0x4409C, 0x49), (0x4409D, 0x92), (0x4409E, 0x24), (0x4409F, 0x49), (0x440A0, 0x92), (0x440A1, 0x24), (0x440A2, 0x49), (0x440A3, 0x92)] ++ (
  [(0x440A4, 0x24), (0x440A5, 0x49), (0x440A6, 0x92), (0x440A7, 0x24), (0x440A8, 0x49), (0x440A9, 0x92), (0x440AA, 0x24), (0x440AB, 0x49), (0x440AC, 0x92), (0x440AD, 0x24), (0x440AE, 0x49), (0x440AF, 0x92)] ++ (
  [(0x440B0, 0x24), (0x440B1, 0x49), (0x440B2, 0x92), (0x440B3, 0x24), (0x440B4, 0x49), (0x440B5, 0x92), (0x440B6, 0x24), (0x440B7, 0x49), (0x440B8, 0x92), (0x440B9, 0x24), (0x440BA, 0x49), (0x440BB, 0x92)] ++ (
  [(0x440BC, 0x24), (0x440BD, 0x49), (0x440BE, 0x92), (0x440BF, 0x24), (0x440C0, 0x49), (0x440C1, 0x92), (0x440C2, 0x24), (0x440C3, 0x49), (0x440C4, 0x92), (0x440C5, 0x24), (0x440C6, 0x49), (0x440C7, 0x92)] ++ (
  [(0x440C8, 0x24), (0x440C9, 0x49), (0x440CA, 0x92), (0x440CB, 0x24), (0x440CC, 0x49), (0x440CD, 0x92), (0x440CE, 0x24), (0x440CF, 0x49), (0x440D0, 0x92), (0x440D1, 0x24), (0x440D2, 0x49), (0x440D3, 0x92)] ++ (
  [(0x440D4, 0x24), (0x440D5, 0x49), (0x440D6, 0x92), (0x440D7, 0x24), (0x440D8, 0x49), (0x440D9, 0x92), (0x440DA, 0x24), (0x440DB, 0x49), (0x440DC, 0x92), (0x440DD, 0x24), (0x440DE, 0x49), (0x440DF, 0x92)] ++ (
  [(0x440E9, 0x04), (0x440EC, 0x02), (0x44400, 0x08), (0x44401, 0x04), (0x44408, 0x09), (0x44409, 0x04), (0x4440C, 0x01)]))))))))))))

/-- Memory beyond every byte listed. -/
def drawObj (s : State) : State := { s with mem := s.mem ++ drawCells }

/-- A draw record at 0x42000 for that object: one object, 16 by 16 pixels (R258). -/
def drawRec (s : State) : State := fields (drawObj s) 0x42000
  [(0, 8, 0x44000), (8, 8, 0x46000), (0x10, 3, 1), (0x14, 2, 16), (0x16, 2, 16), (0x1B, 1, 8), (0x20, 8, 0x48000), (0x30, 4, 16)]

def modW (s : State) (f : Wave → Wave) : State := s.modWave 0 f

/-- Register r of thread l of the wave. -/
def setR (s : State) (r l : Nat) (v : Word) : State := modW s (fun w => w.setReg r l v)

/-- Register r of the first four threads of the wave. -/
def setAll (s : State) (r : Nat) (v : Word) : State := (List.range 4).foldl (fun s l => setR s r l v) s

def getR (s : State) (r l : Nat) : Word := ((s.wave? 0).map (fun w => w.reg r l)).getD 0

/-- The instruction lies at the wave's pc and is in issue for its threads. -/
def at0 (s : State) (i : Instr) : State :=
  let c : Issue :=
    { wid := 0, lanes := ((s.wave? 0).map Wave.live).getD 0, pc := ((s.wave? 0).map (fun w => (w.thread 0).pc)).getD 0
      w0 := (encode i).getD 0 0, w1 := (encode i).getD 1 0 }
  { s.writePa c.pc.toNat (encodeBytes i) with cur := some c }

def nextOr (s : State) (o : Host.Outcome State Fault Refusal) : State := match o with | .next t => t | _ => s

def isNext (o : Host.Outcome State Fault Refusal) : Bool := match o with | .next _ => true | _ => false

theorem isNext_spec {o : Host.Outcome State Fault Refusal} (h : isNext o = true) : ∃ t, o = .next t := by
  cases o <;> simp_all [isNext]

/-- The machine after the instruction has issued. -/
def go (s : State) (i : Instr) : State := nextOr s (exec i (at0 s i))

/-- The machine after an event. -/
def ev (s : State) (i : Instr) : State := nextOr s (exec i s)

/-! ### Checks -/

/-- The instruction issues, for some thread, and its run has the property. -/
def issues (s : State) (i : Instr) (p : State → Run → Bool := fun _ _ => true) : Bool :=
  match (at0 s i).run? i with
  | none => false
  | some r => ((at0 s i).decodeCheck r.c r.w i).isNone && !(at0 s i).commonWait i r && !waitOf i (at0 s i) r &&
    ((at0 s i).issueCheck i r).isNone && p (at0 s i) r

theorem issues_spec {s : State} {i : Instr} {p : State → Run → Bool} (h : issues s i p = true) :
    ∃ r, Issues (at0 s i) i r ∧ p (at0 s i) r = true := by
  unfold issues at h
  split at h
  · exact absurd h (by simp)
  · rename_i r hr
    simp only [Bool.and_eq_true, Bool.not_eq_true', Option.isNone_iff_eq_none] at h
    obtain ⟨⟨⟨⟨a, b⟩, c⟩, d⟩, e⟩ := h
    exact ⟨r, ⟨hr, a, b, c, d⟩, e⟩

/-- Some thread executes, and no flag is trapped. -/
def works (_ : State) (r : Run) : Bool := r.ex != 0 && r.w.fflags.extractLsb' 8 6 == 0

/-- Some thread executes, and the wave takes a trap. -/
def catches (r : Run) : Bool := r.ex != 0 && !r.w.trap.inHandler && r.w.trapbase != 0

theorem trapping_zero {w : Wave} (h : w.fflags.extractLsb' 8 6 = 0) (f : FFlags) : w.trapping f = 0 := by
  simp [Wave.trapping, h]

theorem issued {s : State} {i : Instr} (P : State → Run → Prop) [∀ s r, Decidable (P s r)]
    (h : issues s i (fun s r => decide (P s r)) = true) : ∃ r, Issues (at0 s i) i r ∧ P (at0 s i) r :=
  let ⟨r, hr, hp⟩ := issues_spec h
  ⟨r, hr, of_decide_eq_true hp⟩

/-- Every lane of a mask, by evaluation. -/
theorem lanes_all {m : Lanes} {P : Nat → Prop} [DecidablePred P]
    (h : (List.range 32).all (fun l => !m.getLsbD l || decide (P l)) = true) : ∀ l, m.getLsbD l = true → P l := by
  intro l hl
  have hlt : l < 32 := BitVec.lt_of_getLsbD hl
  have := List.all_eq_true.mp h l (List.mem_range.mpr hlt)
  simpa [hl] using this

theorem pair_of_fst {α β : Type} {x : List α × β} (h : x.1 = []) : x = ([], x.2) := by cases x; simp_all

theorem some_of_isSome {α : Type} {x : Option α} (h : x.isSome = true) : ∃ v, x = some v := Option.isSome_iff_exists.mp h

/-- The premises of a statement about a lane-wise result, for each of some instructions: it issues, some thread executes,
and no flag that any function gives is trapped. -/
def LaneWise (s : State) (l : List Instr) : Prop :=
  ∀ i ∈ l, ∃ r, Issues (at0 s i) i r ∧ r.ex ≠ 0 ∧ (∀ f, r.w.trapping f = 0) ∧ (∀ n f, Untrapped r n f)

theorem issues_all {l : List Instr} {s : State} (h : l.all (fun i => issues s i works) = true) : LaneWise s l := by
  intro i hi
  obtain ⟨r, hr, hp⟩ := issues_spec ((List.all_eq_true.mp h) i hi)
  simp only [works, Bool.and_eq_true, bne_iff_ne, ne_eq, beq_iff_eq] at hp
  exact ⟨r, hr, hp.1, trapping_zero hp.2, fun n f l j _ _ => trapping_zero hp.2 _⟩

/-- The instruction is in issue, and its run has the property. -/
def runs (s : State) (i : Instr) (P : State → Run → Prop) [∀ s r, Decidable (P s r)] : Bool :=
  match (at0 s i).run? i with
  | none => false
  | some r => decide (P (at0 s i) r)

theorem runs_spec {s : State} {i : Instr} {P : State → Run → Prop} [∀ s r, Decidable (P s r)] (h : runs s i P = true) :
    ∃ r, (at0 s i).run? i = some r ∧ P (at0 s i) r := by
  unfold runs at h
  split at h
  · simp at h
  · rename_i r hr
    exact ⟨r, hr, of_decide_eq_true h⟩

theorem some_spec {α : Type} {o : Option α} {P : α → Prop} [DecidablePred P] (h : o.any (fun x => decide (P x)) = true) :
    ∃ x, o = some x ∧ P x := by
  cases o with
  | none => simp at h
  | some x => exact ⟨x, rfl, by simpa using h⟩

/-- A Mitten entry of a wave, with a property. -/
def entryIs (s : State) (wid seq : Nat) (P : Wave → Entry → Prop) [∀ w e, Decidable (P w e)] : Bool :=
  (s.wave? wid).any (fun w => (w.entry? seq).any (fun e => decide (P w e)))

theorem entry_spec {s : State} {wid seq : Nat} (P : Wave → Entry → Prop) [∀ w e, Decidable (P w e)] (h : entryIs s wid seq P = true) :
    ∃ w e, s.wave? wid = some w ∧ w.entry? seq = some e ∧ P w e := by
  unfold entryIs at h
  obtain ⟨w, hw, h⟩ := (Option.any_eq_true _ _).mp h
  obtain ⟨e, he, h⟩ := (Option.any_eq_true _ _).mp h
  exact ⟨w, e, hw, he, of_decide_eq_true h⟩

def decodesTo (x : Word × Word × Instr) : Bool := match decodeWords x.1 x.2.1 with | .ok i => i == x.2.2 | .error _ => false

/-- v2 to v6 hold an address of mapped memory. -/
def mapped : State := [2, 3, 4, 5, 6].foldl (fun s r => setAll s r 0x20000) wide

/-- The same in space 0x4. -/
def mapped4 : State := setAll mapped 4 0x4000000000020000

/-- The accesses of an issue, resolved. -/
abbrev reached (s : State) (i : Instr) (r : Run) (acc : Acc) (spaces : List Nat) (n : Nat) (ptr : List Word → Word) :=
  s.resolveAll r.w acc spaces n n (s.addrs i r ptr)

end Sys2Proof.Tests
end

