-- ==== Sys2Proof/Tests/Slice0.lean ====
section
/-!
SUPPORT. Tests: decoding and the field rules, witnesses for the hypotheses of the statements, and single steps with
results taken from the spec.
-/

namespace Sys2Proof.Tests

open Sys2Proof Sys2Proof.Machine

-- one theorem after the other: their kernel evaluations together would fill the memory
set_option Elab.async false

/-! ### Decoding (R41-R54) -/

def refuses (w0 w1 : Word) (e : DecodeError) : Bool := match decodeWords w0 w1 with | .ok _ => false | .error x => x == e

/-- Words of the encodings of R43, with the opcodes of R54. -/
theorem test_decode_moves_and_integers : [
    (0xA200000000000009, 0x0, .nop ⟨⟨10, 1, false⟩, 0, .reg 0, .reg 0, .reg 0, .i64, 0, .cond false 1⟩),
    (0x14014FA280000C0E, 0x0, .mov ⟨⟨1, 2, false⟩, 79, .pop 5, .reg 0, .reg 0, .f19x2, 0, .cond true 2⟩),
    (0x860274007FFFF9C0, 0x0, .li ⟨⟨8, 3, false⟩, 116, .reg 0, 0x7FFFF9C, .always⟩),
    (0x50032C0000000009, 0xFEDCBA9876543210, .liw ⟨⟨5, 0, false⟩, 44, 0xFEDCBA9876543210, .cond false 1⟩),
    (0x6A04BE014FC00428, 0x0, .iadd ⟨⟨6, 5, false⟩, 190, .reg 2, .const 63, .reg 0, .i16x4, 2, .cond false 0⟩),
    (0xDC05E3C060400700, 0x0, .isub ⟨⟨13, 6, false⟩, 227, .lane, .tid, .reg 0, .n8x8, 0, .always⟩),
    (0x4E0608C160C00329, 0x0, .imul ⟨⟨4, 7, false⟩, 8, .wave, .elem, .reg 0, .n32x2, 2, .cond false 1⟩),
    (0xB0072D0100C0050E, 0x0, .imulh ⟨⟨11, 0, false⟩, 45, .reg 2, .reg 3, .reg 0, .n16x4, 0, .cond true 2⟩),
    (0x2208520100D90200, 0x0, .imad ⟨⟨2, 1, false⟩, 82, .reg 2, .reg 3, .reg 200, .i32x2, 0, .always⟩),
    (0x9409777FBFFFFFFF, 0x0, .iaddi ⟨⟨9, 2, false⟩, 119, .reg 255, 0x3FFFFFF, .cond true 3⟩),
    (0x060A9CA780C00108, 0x0, .imin ⟨⟨0, 3, false⟩, 156, .peek 7, .reg 3, .reg 0, .n64, 0, .cond false 0⟩),
    (0x780BC10100C00600, 0x0, .imax ⟨⟨7, 4, false⟩, 193, .reg 2, .reg 3, .reg 0, .i8x8, 0, .always⟩),
    (0xEA0CE60100000029, 0x0, .iabs ⟨⟨14, 5, false⟩, 230, .reg 2, .reg 0, .reg 0, .i64, 2, .cond false 1⟩),
    (0x5C0D0B010000040E, 0x0, .ineg ⟨⟨5, 6, false⟩, 11, .reg 2, .reg 0, .reg 0, .i16x4, 0, .cond true 2⟩),
    (0xCE0E300100C01900, 0x0, .and ⟨⟨12, 7, false⟩, 48, .reg 2, .reg 3, .reg 0, .x32x2, 0, .always⟩),
    (0x300F550100C0160F, 0x0, .or ⟨⟨3, 0, false⟩, 85, .reg 2, .reg 3, .reg 0, .b1x64, 0, .cond true 3⟩),
    (0xA3107A0100C01508, 0x0, .xor ⟨⟨10, 1, true⟩, 122, .reg 2, .reg 3, .reg 0, .t2x32, 0, .cond false 0⟩),
    (0x14119F0100C01700, 0x0, .andn ⟨⟨1, 2, false⟩, 159, .reg 2, .reg 3, .reg 0, .vq2x4, 0, .always⟩),
    (0x8612C40100C01409, 0x0, .shl ⟨⟨8, 3, false⟩, 196, .reg 2, .reg 3, .reg 0, .n4x16, 0, .cond false 1⟩),
    (0xF813E90100C0130E, 0x0, .shr ⟨⟨15, 4, false⟩, 233, .reg 2, .reg 3, .reg 0, .i4x16, 0, .cond true 2⟩),
    (0x6A140E0100E02400, 0x0, .bfe ⟨⟨6, 5, false⟩, 14, .reg 2, .reg 3, .const 1, .i16x4, 0, .always⟩),
    (0xDC15330100C1230F, 0x0, .bfi ⟨⟨13, 6, false⟩, 51, .reg 2, .reg 3, .reg 9, .n32x2, 0, .cond true 3⟩),
    (0x4E16580100001408, 0x0, .popc ⟨⟨4, 7, false⟩, 88, .reg 2, .reg 0, .reg 0, .n4x16, 0, .cond false 0⟩),
    (0xB0177D0100000600, 0x0, .clz ⟨⟨11, 0, false⟩, 125, .reg 2, .reg 0, .reg 0, .i8x8, 0, .always⟩),
    (0x2218A20100000509, 0x0, .brev ⟨⟨2, 1, false⟩, 162, .reg 2, .reg 0, .reg 0, .n16x4, 0, .cond false 1⟩),
    (0x9419020100C002DE, 0x0, .icmp ⟨⟨9, 2, false⟩, 2, .reg 2, .reg 3, .reg 0, .i32x2, 13, .cond true 2⟩),
    (0x061AEC0100C01230, 0x0, .sel ⟨⟨0, 3, false⟩, 236, .reg 2, .reg 3, .reg 0, .e2m1x16, 3, .always⟩),
    (0x781B110100C0E0FF, 0x0, .lea ⟨⟨7, 4, false⟩, 17, .reg 2, .reg 3, .reg 7, .i64, 15, .cond true 3⟩),
    (0xEA1C360100C00048, 0x0, .pspace ⟨⟨14, 5, false⟩, 54, .reg 2, .reg 3, .reg 0, .i64, 4, .cond false 0⟩),
    (0x5C1D5B0140800100, 0x0, .mkaff ⟨⟨5, 6, false⟩, 91, .reg 2, .const 2, .reg 0, .n64, 0, .always⟩),
    (0xCE1E800100C3C729, 0x0, .idot4 ⟨⟨12, 7, false⟩, 128, .reg 2, .reg 3, .reg 30, .n8x8, 2, .cond false 1⟩),
    (0x401F03010040009D, 0x0, .clog ⟨⟨4, 0, false⟩, 3, 2, 1, 9, .cond true 1⟩)].all decodesTo = true := by decide +kernel

/-- Words of the encodings of R43, with the opcodes of R54. -/
theorem test_decode_floats : [
    (0xA220CA0100C008F0, 0x0, .fadd ⟨⟨10, 1, false⟩, 202, .reg 2, .reg 3, .reg 0, .f64, 15, .always⟩),
    (0x1421EF0100C0094F, 0x0, .fsub ⟨⟨1, 2, false⟩, 239, .reg 2, .reg 3, .reg 0, .f32x2, 4, .cond true 3⟩),
    (0x8622140100C00C88, 0x0, .fmul ⟨⟨8, 3, false⟩, 20, .reg 2, .reg 3, .reg 0, .f19x2, 8, .cond false 0⟩),
    (0xF823390100E10BC0, 0x0, .ffma ⟨⟨15, 4, false⟩, 57, .reg 2, .reg 3, .const 8, .bf16x4, 12, .always⟩),
    (0x6A245E0100C00A19, 0x0, .fmin ⟨⟨6, 5, false⟩, 94, .reg 2, .reg 3, .reg 0, .f16x4, 1, .cond false 1⟩),
    (0xDC25830100C0080E, 0x0, .fmax ⟨⟨13, 6, false⟩, 131, .reg 2, .reg 3, .reg 0, .f64, 0, .cond true 2⟩),
    (0x4E26030100C00CE0, 0x0, .fcmp ⟨⟨4, 7, false⟩, 3, .reg 2, .reg 3, .reg 0, .f19x2, 14, .always⟩),
    (0xB027CD0100C0085F, 0x0, .fdiv ⟨⟨11, 0, false⟩, 205, .reg 2, .reg 3, .reg 0, .f64, 5, .cond true 3⟩),
    (0x2228F20100000888, 0x0, .fsqrt ⟨⟨2, 1, false⟩, 242, .reg 2, .reg 0, .reg 0, .f64, 8, .cond false 0⟩),
    (0x9429170100000930, 0x0, .frcp ⟨⟨9, 2, false⟩, 23, .reg 2, .reg 0, .reg 0, .f32x2, 3, .always⟩),
    (0x062A3C0100000A09, 0x0, .frsq ⟨⟨0, 3, false⟩, 60, .reg 2, .reg 0, .reg 0, .f16x4, 0, .cond false 1⟩),
    (0x782B610100000B1E, 0x0, .fexp2 ⟨⟨7, 4, false⟩, 97, .reg 2, .reg 0, .reg 0, .bf16x4, 1, .cond true 2⟩),
    (0xEA2C860100000900, 0x0, .flog2 ⟨⟨14, 5, false⟩, 134, .reg 2, .reg 0, .reg 0, .f32x2, 0, .always⟩),
    (0x5C2DAB0100000A2F, 0x0, .fsin ⟨⟨5, 6, false⟩, 171, .reg 2, .reg 0, .reg 0, .f16x4, 2, .cond true 3⟩),
    (0xCE2ED00100000B08, 0x0, .fcos ⟨⟨12, 7, false⟩, 208, .reg 2, .reg 0, .reg 0, .bf16x4, 0, .cond false 0⟩),
    (0x302F060100000900, 0x0, .fscs ⟨⟨3, 0, false⟩, 6, .reg 2, .reg 0, .reg 0, .f32x2, 0, .always⟩),
    (0xA2301A0100000A09, 0x0, .ftanh ⟨⟨10, 1, false⟩, 26, .reg 2, .reg 0, .reg 0, .f16x4, 0, .cond false 1⟩),
    (0x14313F01000008CE, 0x0, .frnd ⟨⟨1, 2, false⟩, 63, .reg 2, .reg 0, .reg 0, .f64, 12, .cond true 2⟩),
    (0x8632640100C16B60, 0x0, .fdot2 ⟨⟨8, 3, false⟩, 100, .reg 2, .reg 3, .reg 11, .bf16x4, 6, .always⟩),
    (0xF833890100C18C0F, 0x0, .fclamp ⟨⟨15, 4, false⟩, 137, .reg 2, .reg 3, .reg 12, .f19x2, 0, .cond true 3⟩),
    (0x6A34AE0100000A08, 0x0, .fclass ⟨⟨6, 5, false⟩, 174, .reg 2, .reg 0, .reg 0, .f16x4, 0, .cond false 0⟩),
    (0xDC35D30100C00840, 0x0, .fscale ⟨⟨13, 6, false⟩, 211, .reg 2, .reg 3, .reg 0, .f64, 4, .always⟩),
    (0x4E36F80100C00999, 0x0, .fsum ⟨⟨4, 7, false⟩, 248, .reg 2, .reg 3, .reg 0, .f32x2, 9, .cond false 1⟩),
    (0xB0371D0100C1A90E, 0x0, .flerp ⟨⟨11, 0, false⟩, 29, .reg 2, .reg 3, .reg 13, .f32x2, 0, .cond true 2⟩)].all decodesTo = true := by decide +kernel

/-- Words of the encodings of R43, with the opcodes of R54. -/
theorem test_decode_conversions_and_lanes : [
    (0x224042010A800E00, 0x0, .cvt ⟨⟨2, 1, false⟩, 66, .reg 2, 1, .f16x4, .reg 0, .e4m3x8, 0, .always⟩),
    (0x944067015B8B492F, 0x0, .cvtEf ⟨⟨9, 2, false⟩, 103, .reg 2, 3, .e4m3x8, .reg 90, .f32x2, 2, .cond true 3⟩),
    (0x06418C011A000488, 0x0, .cvti ⟨⟨0, 3, false⟩, 140, .reg 2, 3, .f64, .reg 0, .i16x4, 8, .cond false 0⟩),
    (0x7842B10400001020, 0x0, .pack ⟨⟨7, 4, false⟩, 177, .reg 8, .reg 0, .reg 0, .e3m2x8, 2, .always⟩),
    (0xEA43D60100C09139, 0x0, .unpk ⟨⟨14, 5, false⟩, 214, .reg 2, .reg 3, .reg 4, .e2m3x8, 3, .cond false 1⟩),
    (0x5C44FB0100C0B20E, 0x0, .swz ⟨⟨5, 6, false⟩, 251, .reg 2, .reg 3, .reg 5, .e2m1x16, 0, .cond true 2⟩),
    (0xCE45200100C00AE0, 0x0, .decb ⟨⟨12, 7, false⟩, 32, .reg 2, .reg 3, .reg 0, .f16x4, 14, .always⟩),
    (0x3046450100C0CB7F, 0x0, .vqdec ⟨⟨3, 0, false⟩, 69, .reg 2, .reg 3, .reg 6, .bf16x4, 7, .cond true 3⟩),
    (0xA2476A0600C04938, 0x0, .qnt ⟨⟨10, 1, false⟩, 106, .reg 12, .reg 3, .reg 2, .f32x2, 3, .cond false 0⟩),
    (0x14488F0100C00100, 0x0, .rand ⟨⟨1, 2, false⟩, 143, .reg 2, .reg 3, .reg 0, .n64, 0, .always⟩),
    (0x8649B40100C00C09, 0x0, .amax ⟨⟨8, 3, false⟩, 180, .reg 2, .reg 3, .reg 0, .f19x2, 0, .cond false 1⟩),
    (0xF84AD90100C0F83E, 0x0, .shfl ⟨⟨15, 4, false⟩, 217, .reg 2, .reg 3, .reg 7, .x16x4, 3, .cond true 2⟩),
    (0x6A4BFE0100C11310, 0x0, .shflx ⟨⟨6, 5, false⟩, 254, .reg 2, .reg 3, .reg 8, .i4x16, 1, .always⟩),
    (0xDC4C2301000001AF, 0x0, .vote ⟨⟨13, 6, false⟩, 35, .reg 2, .reg 0, .reg 0, .n64, 10, .cond true 3⟩),
    (0x4E4D480100C00108, 0x0, .peers ⟨⟨4, 7, false⟩, 72, .reg 2, .reg 3, .reg 0, .n64, 0, .cond false 0⟩),
    (0xB04E6D0100C00750, 0x0, .wred ⟨⟨11, 0, false⟩, 109, .reg 2, .reg 3, .reg 0, .n8x8, 5, .always⟩),
    (0x224F920100C008A9, 0x0, .wscan ⟨⟨2, 1, false⟩, 146, .reg 2, .reg 3, .reg 0, .f64, 10, .cond false 1⟩)].all decodesTo = true := by decide +kernel

/-- Words of the encodings of R43, with the opcodes of R54. -/
theorem test_decode_memory : [
    (0x9460A002402008AE, 0x0, .ld ⟨⟨9, 2, false⟩, 160, .reg 4, .const 0, 0x200, .b64x2, .acquire, .workgroup, .cond true 2⟩),
    (0x0661B002001FFB50, 0x0, .st ⟨⟨0, 3, false⟩, 176, .reg 4, .reg 0, 0x1FF, .b64x4, .release, .system, .always⟩),
    (0x786207020000020F, 0x0, .ldq ⟨⟨7, 4, false⟩, 7, .reg 4, .reg 0, 0x0, .b16, .relaxed, .thread, .cond true 3⟩),
    (0xEA63050200000018, 0x0, .pref ⟨⟨14, 5, false⟩, 5, .reg 4, .reg 0, 0x0, .b8, .relaxed, .wave, .cond false 0⟩),
    (0x5C64E002002C07B0, 0x0, .atom ⟨⟨5, 6, false⟩, 224, .reg 4, .reg 0, 0x2C0, .b64, .acqRel, .gang, .always⟩),
    (0xCE65F00200000549, 0x0, .atomc ⟨⟨12, 7, false⟩, 240, .reg 4, .reg 0, 0x0, .b32, .release, .device, .cond false 1⟩),
    (0x30660002001C060E, 0x0, .red ⟨⟨3, 0, false⟩, 0, .reg 4, .reg 0, 0x1C0, .b64, .relaxed, .thread, .cond true 2⟩),
    (0xA267100200000640, 0x0, .faddo ⟨⟨10, 1, false⟩, 16, .reg 4, .reg 0, 0x0, .b64, .relaxed, .device, .always⟩),
    (0x146820020000048F, 0x0, .chain ⟨⟨1, 2, false⟩, 32, .reg 4, .reg 0, 0x0, .b32, .acquire, .thread, .cond true 3⟩),
    (0x86690000000001A8, 0x0, .fence ⟨⟨8, 3, false⟩, 0, .reg 0, .reg 0, 0x0, .b8, .acqRel, .workgroup, .cond false 0⟩),
    (0xF86A4002001804D0, 0x0, .waitm ⟨⟨15, 4, false⟩, 64, .reg 4, .reg 0, 0x180, .b32, .acquire, .system, .always⟩),
    (0x6A6B500200240209, 0x0, .redb ⟨⟨6, 5, false⟩, 80, .reg 4, .reg 0, 0x240, .b16, .relaxed, .thread, .cond false 1⟩),
    (0xDC6C200218C00D3E, 0x0, .stt ⟨⟨13, 6, false⟩, 32, .reg 4, .reg 99, 0x0, .tile, .release, .gang, .cond true 2⟩),
    (0x4E6D300218800CC0, 0x0, .ldt ⟨⟨4, 7, false⟩, 48, .reg 4, .reg 98, 0x0, .tile, .acquire, .device, .always⟩),
    (0xB06E800200001D2F, 0x0, .pubv ⟨⟨11, 0, false⟩, 128, .reg 4, .reg 0, 0x1, .tile, .release, .workgroup, .cond true 3⟩),
    (0x226F900200000C08, 0x0, .snuff ⟨⟨2, 1, false⟩, 144, .reg 4, .reg 0, 0x0, .tile, .relaxed, .thread, .cond false 0⟩),
    (0x9470A00200C00CB0, 0x0, .vwait ⟨⟨9, 2, false⟩, 160, .reg 4, .reg 3, 0x0, .tile, .acquire, .gang, .always⟩),
    (0x06710002000C0009, 0x0, .cctl ⟨⟨0, 3, false⟩, 0, .reg 4, .reg 0, 0xC0, .b8, .relaxed, .thread, .cond false 1⟩),
    (0x787200020180000E, 0x0, .icinv ⟨⟨7, 4, false⟩, 0, .reg 4, .reg 6, 0x0, .b8, .relaxed, .thread, .cond true 2⟩)].all decodesTo = true := by decide +kernel

/-- Words of the encodings of R43, with the opcodes of R54. -/
theorem test_decode_control : [
    (0xEA8000007FFFFFB0, 0x0, .bra ⟨⟨14, 5, false⟩, 0, .reg 0, 0x7FFFFFB, .always⟩),
    (0x5C8100040000003F, 0x0, .brx ⟨⟨5, 6, false⟩, 0, .reg 8, 0x3, .cond true 3⟩),
    (0xCE82C0003FFFFFF8, 0x0, .call ⟨⟨12, 7, false⟩, 192, .reg 0, 0x3FFFFFF, .cond false 0⟩),
    (0x3083E50280012340, 0x0, .callt ⟨⟨3, 0, false⟩, 229, .reg 5, 0x1234, .always⟩),
    (0xA284001F00000009, 0x0, .ret ⟨⟨10, 1, false⟩, 0, .reg 62, 0x0, .cond false 1⟩),
    (0x148500000000000E, 0x0, .exit ⟨⟨1, 2, false⟩, 0, .reg 0, 0x0, .cond true 2⟩),
    (0x8686540000000000, 0x0, .join ⟨⟨8, 3, false⟩, 84, .reg 0, 0x0, .always⟩),
    (0xF88700004000000F, 0x0, .arrv ⟨⟨15, 4, false⟩, 0, .reg 0, 0x4000000, .cond true 3⟩),
    (0x6A880F0180000000, 0x0, .kset ⟨⟨6, 5, false⟩, 15, .reg 3, 0x0, .always⟩),
    (0xDC89090000000000, 0x0, .sign ⟨⟨13, 6, false⟩, 9, .reg 0, 0x0, .always⟩),
    (0x4E8A0E0080000000, 0x0, .bar ⟨⟨4, 7, false⟩, 14, .reg 1, 0x0, .always⟩),
    (0xB08B000000000000, 0x0, .gbar ⟨⟨11, 0, false⟩, 0, .reg 0, 0x0, .always⟩),
    (0x228C000000000000, 0x0, .yield ⟨⟨2, 1, false⟩, 0, .reg 0, 0x0, .always⟩),
    (0x948D00060000001F, 0x0, .waitp ⟨⟨9, 2, false⟩, 0, .reg 12, 0x1, .cond true 3⟩),
    (0x068E000000000000, 0x0, .acq ⟨⟨0, 3, false⟩, 0, .reg 0, 0x0, .always⟩),
    (0x788F000000000000, 0x0, .rel ⟨⟨7, 4, false⟩, 0, .reg 0, 0x0, .always⟩),
    (0xEA90000000000000, 0x9FE0280040801, .rgn ⟨⟨⟨14, 5, false⟩, 0, .reg 0, .reg 0, .reg 0, .i64, 0, .always⟩, 0x9FE0280040801⟩),
    (0x5C91EB038000000E, 0x0, .launch ⟨⟨5, 6, false⟩, 235, .reg 7, 0x0, .cond true 2⟩),
    (0xCE92100480000000, 0x0, .draw ⟨⟨12, 7, false⟩, 16, .reg 9, 0x0, .always⟩),
    (0x309335000000000F, 0x0, .frameb ⟨⟨3, 0, false⟩, 53, .reg 0, 0x0, .cond true 3⟩),
    (0xA2945A0100000008, 0x0, .framee ⟨⟨10, 1, false⟩, 90, .reg 2, 0x0, .cond false 0⟩),
    (0x1495008F00000000, 0x0, .sleep ⟨⟨1, 2, false⟩, 0, .const 30, 0x0, .always⟩)].all decodesTo = true := by decide +kernel

/-- Words of the encodings of R43, with the opcodes of R54. -/
theorem test_decode_matrix_and_copies : [
    (0x86A00A060601C000, 0x319310A0F2C60000, .mma ⟨⟨⟨8, 3, false⟩, 10, .reg 12, .reg 24, .reg 14, .i64, 0, .always⟩, 0x319310A0F2C60000⟩),
    (0xF8A1000A0585A000, 0x318A381001000000, .mmag ⟨⟨⟨15, 4, false⟩, 0, .reg 20, .reg 22, .reg 45, .i64, 0, .always⟩, 0x318A381001000000⟩),
    (0x6AA2000202078000, 0x6340FE1E1E240000, .mmar ⟨⟨⟨6, 5, false⟩, 0, .reg 4, .reg 8, .reg 60, .i64, 0, .always⟩, 0x6340FE1E1E240000⟩),
    (0xDCA3000804802000, 0xA4C4000000800000, .mperm ⟨⟨⟨13, 6, false⟩, 0, .reg 16, .reg 18, .reg 1, .i64, 0, .always⟩, 0xA4C4000000800000⟩),
    (0x4EA4002000000000, 0x818006200000000, .acld ⟨⟨⟨4, 7, false⟩, 0, .reg 64, .reg 0, .reg 0, .i64, 0, .always⟩, 0x818006200000000⟩),
    (0xB0A5800000000020, 0x7034080000200000, .acst ⟨⟨⟨11, 0, false⟩, 128, .reg 0, .reg 0, .reg 0, .i64, 2, .always⟩, 0x7034080000200000⟩),
    (0x22A6000000000000, 0x3C000000000000, .acz ⟨⟨⟨2, 1, false⟩, 0, .reg 0, .reg 0, .reg 0, .i64, 0, .always⟩, 0x3C000000000000⟩),
    (0x94A7000000000000, 0x0, .opfence ⟨⟨⟨9, 2, false⟩, 0, .reg 0, .reg 0, .reg 0, .i64, 0, .always⟩, 0x0⟩),
    (0x06A8000000000090, 0x0, .mwait ⟨⟨⟨0, 3, false⟩, 0, .reg 0, .reg 0, .reg 0, .i64, 9, .always⟩, 0x0⟩),
    (0x78A9002311C00000, 0xA020800000000, .maskt ⟨⟨⟨7, 4, false⟩, 0, .reg 70, .reg 71, .reg 0, .i64, 0, .always⟩, 0xA020800000000⟩),
    (0xEAAA160100C22008, 0xD8C0000000000000, .cpy ⟨⟨⟨14, 5, false⟩, 22, .reg 2, .reg 3, .reg 17, .i64, 0, .cond false 0⟩, 0xD8C0000000000000⟩),
    (0x5CAB3B0100C50000, 0x400000000ABCDEF, .cpym ⟨⟨⟨5, 6, false⟩, 59, .reg 2, .reg 3, .reg 40, .i64, 0, .always⟩, 0x400000000ABCDEF⟩),
    (0xCEAC600100C52009, 0xA008000000000000, .cpyg ⟨⟨⟨12, 7, false⟩, 96, .reg 2, .reg 3, .reg 41, .i64, 0, .cond false 1⟩, 0xA008000000000000⟩),
    (0x30AD850100C5400E, 0x8001000000000000, .cpyz ⟨⟨⟨3, 0, false⟩, 133, .reg 2, .reg 3, .reg 42, .i64, 0, .cond true 2⟩, 0x8001000000000000⟩),
    (0xA2AEAA0100C56000, 0x148A00000000000, .kvcmt ⟨⟨⟨10, 1, false⟩, 170, .reg 2, .reg 3, .reg 43, .i64, 0, .always⟩, 0x148A00000000000⟩)].all decodesTo = true := by decide +kernel

/-- Words of the encodings of R43, with the opcodes of R54. -/
theorem test_decode_queues_tasks_graphics : [
    (0x14C006010000000F, 0x0, .qpush ⟨⟨1, 2, false⟩, 6, .reg 2, .reg 0, .reg 0, .i64, 0, .cond true 3⟩),
    (0x86C1F4A180000008, 0x0, .qpop ⟨⟨8, 3, false⟩, 244, .pop 3, .reg 0, .reg 0, .i64, 0, .cond false 0⟩),
    (0xF8C2040100000000, 0x0, .qctl ⟨⟨15, 4, false⟩, 4, .reg 2, .reg 0, .reg 0, .i64, 0, .always⟩),
    (0x6AC33E0100C58009, 0xDC00000000000000, .tspawn ⟨⟨⟨6, 5, false⟩, 62, .reg 2, .reg 3, .reg 44, .i64, 0, .cond false 1⟩, 0xDC00000000000000⟩),
    (0xDCC463010200000E, 0x0, .tdep ⟨⟨13, 6, false⟩, 99, .reg 2, .reg 8, .reg 0, .i64, 0, .cond true 2⟩),
    (0x4EC4880100C5A010, 0x0, .tdepWatch ⟨⟨4, 7, false⟩, 136, .reg 2, .reg 3, .reg 45, .i64, 1, .always⟩),
    (0xB0C5AD010000000F, 0x0, .tdec ⟨⟨11, 0, false⟩, 173, .reg 2, .reg 0, .reg 0, .i64, 0, .cond true 3⟩),
    (0x22C6D20100C5C008, 0x0, .ttime ⟨⟨2, 1, false⟩, 210, .reg 2, .reg 3, .reg 46, .i64, 0, .cond false 0⟩),
    (0x94C7F7012F800000, 0x0, .hread ⟨⟨9, 2, false⟩, 247, .reg 2, .reg 190, .reg 0, .i64, 0, .always⟩),
    (0x06C8000100000009, 0x0, .hrel ⟨⟨0, 3, false⟩, 0, .reg 2, .reg 0, .reg 0, .i64, 0, .cond false 1⟩),
    (0x78C9410100000A7E, 0x0, .interp ⟨⟨7, 4, false⟩, 65, .reg 2, .reg 0, .reg 0, .f16x4, 7, .cond true 2⟩),
    (0xEACA000000000000, 0x0, .ecull ⟨⟨14, 5, false⟩, 0, .reg 0, .reg 0, .reg 0, .i64, 0, .always⟩),
    (0x5CCB080100C5E90F, 0x9800000000000000, .tex ⟨⟨⟨5, 6, false⟩, 8, .reg 2, .reg 3, .reg 47, .f32x2, 0, .cond true 3⟩, 0x9800000000000000⟩),
    (0xCECCB00200C00908, 0x0, .boxt ⟨⟨12, 7, false⟩, 176, .reg 4, .reg 3, .reg 0, .f32x2, 0, .cond false 0⟩),
    (0x30CD0E0400C00900, 0x8000000000000000, .trit ⟨⟨⟨3, 0, false⟩, 14, .reg 8, .reg 3, .reg 0, .f32x2, 0, .always⟩, 0x8000000000000000⟩),
    (0xA2CEFA0100000009, 0x0, .rspawn ⟨⟨10, 1, false⟩, 250, .reg 2, .reg 0, .reg 0, .i64, 0, .cond false 1⟩),
    (0x14CF00000000000E, 0x0, .pixlk ⟨⟨1, 2, false⟩, 0, .reg 0, .reg 0, .reg 0, .i64, 0, .cond true 2⟩),
    (0x86D0000000000000, 0x0, .pixul ⟨⟨8, 3, false⟩, 0, .reg 0, .reg 0, .reg 0, .i64, 0, .always⟩),
    (0xF8D1000C0000000F, 0x0, .pxout ⟨⟨15, 4, false⟩, 0, .reg 24, .reg 0, .reg 0, .i64, 0, .cond true 3⟩)].all decodesTo = true := by decide +kernel

/-- Words of the encodings of R43, with the opcodes of R54. -/
theorem test_decode_system : [
    (0x6AE08E0000000C78, 0x0, .sysr ⟨⟨6, 5, false⟩, 142, .reg 0, 0xC7, .cond false 0⟩),
    (0xDCE1000180000190, 0x0, .sysw ⟨⟨13, 6, false⟩, 0, .reg 3, 0x19, .always⟩),
    (0x4EE1002400000489, 0x0, .syswHoldquota ⟨⟨4, 7, false⟩, 0, .reg 72, 0x48, .cond false 1⟩),
    (0xB0E100248000049E, 0x0, .syswSpillbase ⟨⟨11, 0, false⟩, 0, .reg 73, 0x49, .cond true 2⟩),
    (0x22E10025000004A0, 0x0, .syswSpillsize ⟨⟨2, 1, false⟩, 0, .reg 74, 0x4A, .always⟩),
    (0x94E100480000090F, 0x0, .syswFqbase ⟨⟨9, 2, false⟩, 0, .reg 144, 0x90, .cond true 3⟩),
    (0x06E1004880000918, 0x0, .syswFqctl ⟨⟨0, 3, false⟩, 0, .reg 145, 0x91, .cond false 0⟩),
    (0x78E1002000000400, 0x0, .syswTrapbase ⟨⟨7, 4, false⟩, 0, .reg 64, 0x40, .always⟩),
    (0xEAE1002C00000589, 0x0, .syswPtroot ⟨⟨14, 5, false⟩, 0, .reg 88, 0x58, .cond false 1⟩),
    (0x5CE1000C0000018E, 0x0, .syswFflags ⟨⟨5, 6, false⟩, 0, .reg 24, 0x18, .cond true 2⟩),
    (0xCEE2000100C00000, 0x0, .tlbiVa ⟨⟨12, 7, false⟩, 0, .reg 2, .reg 3, .reg 0, .i64, 0, .always⟩),
    (0x30E2000000C0001F, 0x0, .tlbiAsid ⟨⟨3, 0, false⟩, 0, .reg 0, .reg 3, .reg 0, .i64, 1, .cond true 3⟩),
    (0xA2E2000000000028, 0x0, .tlbiAll ⟨⟨10, 1, false⟩, 0, .reg 0, .reg 0, .reg 0, .i64, 2, .cond false 0⟩),
    (0x14E36F0100C000D0, 0x0, .wipe ⟨⟨1, 2, false⟩, 111, .reg 2, .reg 3, .reg 0, .i64, 13, .always⟩),
    (0x86E4940100C00009, 0x0, .prioXchg ⟨⟨8, 3, false⟩, 148, .reg 2, .reg 3, .reg 0, .i64, 0, .cond false 1⟩),
    (0xF8E4B90100C0001E, 0x0, .prioSet ⟨⟨15, 4, false⟩, 185, .reg 2, .reg 3, .reg 0, .i64, 1, .cond true 2⟩),
    (0x6AE80000000002A0, 0x0, .trap ⟨⟨6, 5, false⟩, 0, .reg 0, 0x2A, .always⟩),
    (0xDCE9000000000000, 0x0, .tret ⟨⟨13, 6, false⟩, 0, .reg 0, .reg 0, .reg 0, .i64, 0, .always⟩),
    (0x4EEA00007FFFFFF8, 0x0, .brk ⟨⟨4, 7, false⟩, 0, .reg 0, 0x7FFFFFF, .cond false 0⟩),
    (0xB0EB4D0100C60000, 0x0, .frz ⟨⟨11, 0, false⟩, 77, .reg 2, .reg 3, .reg 48, .i64, 0, .always⟩),
    (0x22EC720100C00009, 0x0, .thaw ⟨⟨2, 1, false⟩, 114, .reg 2, .reg 3, .reg 0, .i64, 0, .cond false 1⟩),
    (0x94ED970100C6200E, 0x0, .jrnl ⟨⟨9, 2, false⟩, 151, .reg 2, .reg 3, .reg 49, .i64, 0, .cond true 2⟩),
    (0x06EE000100C64010, 0x0, .emit ⟨⟨0, 3, false⟩, 0, .reg 2, .reg 3, .reg 50, .i64, 1, .always⟩),
    (0x78EFE1010000000F, 0x0, .jtrunc ⟨⟨7, 4, false⟩, 225, .reg 2, .reg 0, .reg 0, .i64, 0, .cond true 3⟩),
    (0xEAF0061980C00008, 0x0, .jpart ⟨⟨14, 5, false⟩, 6, .reg 51, .reg 3, .reg 0, .i64, 0, .cond false 0⟩),
    (0x00FF123456789ABC, 0x0, .ill)].all decodesTo = true := by decide +kernel

def h0 : Hdr := ⟨0, 0, false⟩

/-- The encodings that the spec gives beside their text. -/
theorem test_decode_examples : [
    (0x3023050181210949, 0, .ffma ⟨⟨3, 0, false⟩, 5, .reg 3, .reg 4, .const 8, .f32x2, 4, .cond false 1⟩),
    (0x000907017FFFFFB0, 0, .iaddi ⟨h0, 7, .reg 2, -5, .always⟩),
    (0x00600804828034A0, 0, .ld ⟨h0, 8, .reg 9, .reg 10, 3, .b32, .acquire, .workgroup, .always⟩),
    (0x088000007FFFFFBE, 0, .bra ⟨⟨0, 4, false⟩, 0, .reg 0, -5, .cond true 2⟩),
    (0x00A0000A06000000, 0x3193101000000000, .mma ⟨⟨h0, 0, .reg 20, .reg 24, .reg 0, .i64, 0, .always⟩, 0x3193101000000000⟩),
    (0x00030C0000000000, 0x3FF0000000000000, .liw ⟨h0, 12, 0x3FF0000000000000, .always⟩),
    (0x3019020201400220, 0, .icmp ⟨⟨3, 0, false⟩, 2, .reg 4, .reg 5, .reg 0, .i32x2, 2, .always⟩),
    (0x000203007FFFF9C0, 0, .li ⟨h0, 3, .reg 0, -100, .always⟩),
    (0x00A100140B05A000, 0x318A300003000000, .mmag ⟨⟨h0, 0, .reg 40, .reg 44, .reg 45, .i64, 0, .always⟩, 0x318A300003000000⟩),
    (0x00A9000402400000, 0x0000020800000000, .maskt ⟨⟨h0, 0, .reg 8, .reg 9, .reg 0, .i64, 0, .always⟩, 0x0000020800000000⟩),
    (0x00640C0A055C0530, 0, .atom ⟨h0, 12, .reg 20, .reg 21, 0b0111000000, .b32, .release, .gang, .always⟩),
    (0x00AA1E0F88042000, 0xC000000000000000, .cpy ⟨⟨h0, 30, .reg 31, .reg 32, .reg 33, .i64, 0, .always⟩, 0xC000000000000000⟩),
    (0x008700000000003D, 0, .arrv ⟨h0, 0, .reg 0, 3, .cond true 1⟩),
    (0x0086050000000000, 0, .join ⟨h0, 5, .reg 0, 0, .always⟩),
    (0x00833E0280012340, 0, .callt ⟨h0, 62, .reg 5, 0x1234, .always⟩),
    (0x00C509040000000B, 0, .tdec ⟨h0, 9, .reg 8, .reg 0, .reg 0, .i64, 0, .cond false 3⟩),
    (0x00C3140A8582E000, 0xA000000000000000, .tspawn ⟨⟨h0, 20, .reg 21, .reg 22, .reg 23, .i64, 0, .always⟩, 0xA000000000000000⟩),
    (0x04E00A0000000070, 0, .sysr ⟨⟨0, 2, false⟩, 10, .reg 0, 7, .always⟩),
    (0x00E1000080000480, 0, .syswHoldquota ⟨h0, 0, .reg 1, 0x48, .always⟩),
    (0x00E80000000002A0, 0, .trap ⟨h0, 0, .reg 0, 42, .always⟩),
    (0x00ED28148A856000, 0, .jrnl ⟨h0, 40, .reg 41, .reg 42, .reg 43, .i64, 0, .always⟩),
    (0x00EB090401E00000, 0, .frz ⟨h0, 9, .reg 8, .reg 7, .const 0, .i64, 0, .always⟩)].all decodesTo = true := by
  decide +kernel

theorem test_decode_more_examples : [
    (0x00E0070000000100, 0, .sysr ⟨h0, 7, .reg 0, 0x10, .always⟩),
    (0x006A1F0D03C004A9, 0, .waitm ⟨h0, 31, .reg 26, .reg 15, 0, .b32, .acquire, .workgroup, .cond false 1⟩),
    (0x504029130AC00909, 0, .cvt ⟨⟨5, 0, false⟩, 41, .reg 38, 1, .bf16x4, .reg 0, .f32x2, 0, .cond false 1⟩),
    (0x0EC71D0085000000, 0, .hread ⟨⟨0, 7, false⟩, 29, .reg 1, .reg 20, .reg 0, .i64, 0, .always⟩),
    (0x0ECC1A0202400900, 0, .boxt ⟨⟨0, 7, false⟩, 26, .reg 4, .reg 9, .reg 0, .f32x2, 0, .always⟩),
    (0x0CCE0E0A80000000, 0, .rspawn ⟨⟨0, 6, false⟩, 14, .reg 21, .reg 0, .reg 0, .i64, 0, .always⟩),
    (0x0CD1000C00000000, 0, .pxout ⟨⟨0, 6, false⟩, 0, .reg 24, .reg 0, .reg 0, .i64, 0, .always⟩),
    (0x00C4220703046018, 0, .tdepWatch ⟨h0, 34, .reg 14, .reg 12, .reg 35, .i64, 1, .cond false 0⟩),
    (0x006E240600000D40, 0, .pubv ⟨h0, 36, .reg 12, .reg 0, 0, .tile, .release, .device, .always⟩),
    (0x00AE2D150AC58000, 0x0000100000000000, .kvcmt ⟨⟨h0, 45, .reg 42, .reg 43, .reg 44, .i64, 0, .always⟩, 0x0000100000000000⟩),
    (0x00EE001009A06000, 0, .emit ⟨h0, 0, .reg 32, .reg 38, .const 3, .i64, 0, .always⟩),
    (0x7000000000000000, 0, .nop ⟨⟨7, 0, false⟩, 0, .reg 0, .reg 0, .reg 0, .i64, 0, .always⟩)].all decodesTo = true := by
  decide +kernel

/-- Every program instruction's word is among the words above: reserved opcodes are refused, each of the others is some
instruction's. -/
theorem test_decode_opcodes : (List.range 256).all (fun n =>
    (match decodeWords (BitVec.ofNat 64 (n * 2 ^ 48)) 0 with | .error .reservedOpcode => true | _ => false) ==
      ((0x38 ≤ n && n ≤ 0x3F) || (0x50 ≤ n && n ≤ 0x5F) || (0x73 ≤ n && n ≤ 0x7F) || (0x96 ≤ n && n ≤ 0x9F) ||
       (0xAF ≤ n && n ≤ 0xBF) || (0xD2 ≤ n && n ≤ 0xDF) || (0xE5 ≤ n && n ≤ 0xE7) || (0xF1 ≤ n && n ≤ 0xFE))) = true := by
  decide +kernel

/-- A word is refused by the name of the field that is wrong: sources 0x184 and 0x1FF, type 0x1A, guard 0b0001, size 111,
scope 6, a bit in an unused field, an unaligned group. -/
theorem test_decode_refusals :
    refuses (0x0001 <<< 48 ||| 0x184 <<< 31) 0 .source ∧ refuses (0x0004 <<< 48 ||| 0x1FF <<< 22) 0 .source ∧
    refuses (0x0004 <<< 48 ||| 0x1A <<< 8) 0 .type ∧ refuses (0x0004 <<< 48 ||| 1) 0 .guard ∧
    refuses (0x0060 <<< 48 ||| 7 <<< 9) 0 .size ∧ refuses (0x0060 <<< 48 ||| 6 <<< 4) 0 .scope ∧
    refuses (0x0003 <<< 48 ||| 1 <<< 4) 0 .unusedField ∧ refuses (0x001F <<< 48 ||| 1 <<< 42) 0 .unusedField ∧
    refuses (0x0041 <<< 48 ||| 1 <<< 30) 0 .unusedField ∧ refuses (0x0060 <<< 48 ||| 1 <<< 40 ||| 4 <<< 9) 0 .illFormed ∧
    refuses (0x00E1 <<< 48 ||| 0x1000 <<< 4) 0 .illFormed := by decide +kernel

/-- Seven bytes, and the first word of an instruction of two, are no instruction. -/
theorem test_decode_short :
    (match decode (List.replicate 7 0) with | .error .short => true | _ => false) = true ∧
    (match decode (toBytes 8 (0x03 * 2 ^ 48)) with | .error .short => true | _ => false) = true ∧
    decode (toBytes 8 0 ++ [9]) = .ok (.nop ⟨h0, 0, .reg 0, .reg 0, .reg 0, .i64, 0, .always⟩, [9]) := by
  refine ⟨by decide +kernel, by decide +kernel, rfl⟩

/-- The host's word of a row: the second word's bits count on from the first's (R39, R43). -/
theorem test_decodeTableWord :
    decodeTableWord 128 (0x00030C0000000000 + 0x3FF0000000000000 * 2 ^ 64) =
      some (.liw ⟨h0, 12, 0x3FF0000000000000, .always⟩) ∧
    decodeTableWord 64 0x00A6000000000000 = some (.acz ⟨⟨h0, 0, .reg 0, .reg 0, .reg 0, .i64, 0, .always⟩, 0⟩) ∧
    decodeTableWord 64 0x00F1000000000000 = none := by decide +kernel

/-! ### Well-formedness (R44-R51): one term for each field rule that it breaks -/

def ill (i : Instr) : Bool := !i.wf

/-- R44, R45, R48, R49: types, modifiers and unused fields of format A. -/
theorem test_wf_formatA : [
    Instr.nop (opA (d := 1) (sa := .reg 0) (sb := .reg 0)), .nop (opA (d := 0) (sb := .reg 0)), .mov (opA (sb := .reg 1)),
    .mov (opA (mod := 1) (sb := .reg 0)), .iadd (opA .f64), .iadd (opA (mod := 1)), .iadd (opA (sc := .reg 1)), .imulh (opA (mod := 2)),
    .iabs (opA), .shl (opA .f64), .shl (opA (mod := 1)), .bfe (opA .i4x16), .popc (opA (sb := .lane)), .sel (opA (mod := 4)),
    .lea (opA .n64), .pspace (opA .n64), .mkaff (opA .i32x2), .idot4 (opA .i16x4), .idot4 (opA .i8x8 (mod := 1)),
    .icmp (opA (d := 4)), .icmp (opA (mod := 6)), .icmp (opA .f32x2), .fcmp (opA .f64 (d := 4)), .fcmp (opA .i64),
    .fadd (opA .e4m3x8), .fmin (opA .f64 (mod := 2)), .fdiv (opA .f19x2), .fdiv (opA .f32x2 (mod := 4)), .fsqrt (opA .f64),
    .frcp (opA .f64 (sb := .reg 0)), .frcp (opA .f32x2 (mod := 8) (sb := .reg 0)), .fscs (opA .f32x2 (d := 3) (sb := .reg 0)),
    .frnd (opA .f64 (mod := 1) (sb := .reg 0)), .fdot2 (opA .f32x2), .fclass (opA .f64 (mod := 1) (sb := .reg 0)),
    .pack (opA .e3m2x8 (sa := .reg 5) (sb := .reg 0)), .pack (opA .e3m2x8 (mod := 3) (sa := .reg 4) (sb := .reg 0)),
    .unpk (opA .e2m3x8 (mod := 4)), .unpk (opA .e4m3x8), .swz (opA .t2x32), .decb (opA .f32x2), .vqdec (opA .f16x4 (mod := 8)),
    .qnt (opA .f32x2 (sa := .reg 2)), .qnt (opA .bf16x4 (sa := .reg 3)), .qnt (opA .f32x2 (mod := 4) (sa := .reg 4)),
    .rand (opA .i64), .amax (opA .i64), .shfl (opA (mod := 4)), .shflx (opA .i8x8), .vote (opA .n64 (mod := 12) (sb := .reg 0)),
    .peers (opA .n64 (mod := 1)), .wred (opA .n64 (mod := 6)), .wred (opA .f64 (mod := 3)), .wscan (opA .f64 (mod := 11)),
    .wred (opA .e4m3x8)].all ill = true := by decide +kernel

/-- R127-R129: the pairs, parts and modifiers of the conversions. -/
theorem test_wf_conversions : [
    Instr.cvt (opCvt .f32x2 .f32x2), .cvt (opCvt .f64 .f16x4), .cvt (opCvt .i32x2 .f32x2), .cvt (opCvt .f32x2 .f16x4 (part := 2)),
    .cvt (opCvt .f32x2 .f16x4 (sc := .reg 1)), .cvtEf (opCvt .f16x4 .e4m3x8), .cvtEf (opCvt .f32x2 .f64),
    .cvtEf (opCvt .f32x2 .e4m3x8 (mod := 4)), .cvtEf (opCvt .f32x2 .e4m3x8 (sc := .const 1)), .cvtEf (opCvt .f32x2 .e4m3x8 (part := 4)),
    .cvti (opCvt .f32x2 .f16x4), .cvti (opCvt .i32x2 .i32x2), .cvti (opCvt .i32x2 .i16x4 (mod := 1)),
    .cvti (opCvt .i32x2 .i16x4 (sc := .reg 1)), .cvti (opCvt .i32x2 .i16x4 (part := 2))].all ill = true := by decide +kernel

/-- R188-R190: sizes, orders, scopes and unused fields of format M. -/
theorem test_wf_memory : [
    Instr.ld (opM .tile), .ld (opM (ord := .release)), .ld (opM .b64x2 (d := 9)), .ld (opM .b64x4 (d := 10)), .st (opM (ord := .acquire)),
    .ldq (opM .b64x2 (d := 1)), .ldq (opM (d := 8)), .pref (opM (ord := .acquire) (d := 1)), .pref (opM (d := 6)), .atom (opM .b8),
    .atom (opM (off := 1)), .atom (opM (off := 12 * 64)), .atomc (opM (off := 64)), .red (opM (ord := .acquire)),
    .red (opM (off := 8 * 64)), .red (opM (sb := .reg 1)), .faddo (opM), .faddo (opM (scope := .device) (ord := .release)),
    .faddo (opM .b16 (scope := .device)), .chain (opM .b8), .chain (opM (off := 1)), .fence (opM .b8 (d := 0) (sa := .reg 0)),
    .fence (opM .b32 .acqRel (d := 0) (sa := .reg 0)), .fence (opM .b8 .acqRel .gang 1 (d := 0) (sa := .reg 0)),
    .fence (opM .b8 .acqRel .device 2 (d := 0) (sa := .reg 0)), .waitm (opM (off := 7 * 64)), .waitm (opM .b16), .waitm (opM (ord := .release)),
    .redb (opM .b8), .redb (opM .b16 (off := 0)), .redb (opM .b64 (off := 9 * 64)), .redb (opM (scope := .wave)), .stt (opM .tile (d := 8)),
    .stt (opM .b64 (d := 16)), .ldt (opM .tile (d := 16) (sb := .const 0)), .pubv (opM .tile .release .wave), .pubv (opM .tile .relaxed .device),
    .pubv (opM .tile .release .device 2), .snuff (opM .tile (off := 1)), .vwait (opM .tile .acquire (off := 1)),
    .vwait (opM .b64 .acquire), .vwait (opM .b64 .acquire (off := 2)), .vwait (opM .tile), .cctl (opM .b8 (d := 0) (off := 4 * 64)),
    .cctl (opM .b8 (d := 1)), .icinv (opM .b8 (d := 0) (scope := .wave)), .icinv (opM .b32 (d := 0))].all ill = true := by
  decide +kernel

/-- R244-R256, R300-R312: control. -/
theorem test_wf_control : [
    Instr.bra (opC (d := 1)), .bra (opC (sa := .lane)), .brx (opC (d := 1)), .call (opC (sa := .reg 1)), .ret (opC (tgt := 1)), .exit (opC (tgt := 1)),
    .join (opC (g := .cond false 0)), .join (opC (sa := .reg 1)), .arrv (opC (d := 1)), .kset (opC (d := 16)), .kset (opC (g := .cond false 0)),
    .sign (opC (d := 16)), .sign (opC (sa := .reg 1)), .bar (opC (d := 16)), .bar (opC (tgt := 1)), .gbar (opC (d := 1)), .yield (opC (d := 1)),
    .waitp (opC (tgt := 2)), .waitp (opC (d := 1)), .acq (opC (g := .cond false 0)), .rel (opC (d := 1)), .rgn (opX 17), .rgn (opX 0x20),
    .rgn (opX 0xFE03), .rgn (opX 0x00090009), .rgn (opX 0 (d := 1)), .launch (opC (tgt := 1)), .draw (opC (tgt := 1)), .frameb (opC (sa := .reg 1)),
    .framee (opC (tgt := 1)), .sleep (opC (d := 1))].all ill = true := by decide +kernel

/-- R145-R167, R312: the matrix engine and the accumulator. -/
theorem test_wf_matrix : [
    Instr.mma (opX (mmw 6 6 (m := 4))), .mma (opX (mmw 6 6 (n := 5))), .mma (opX (mmw 6 6 (col := 255))), .mma (opX (mmw 6 6 (row := 113))),
    .mma (opX (mmw 6 6 (asrc := 2))), .mma (opX (mmw 6 6 (sc := 4))), .mma (opX (mmw 6 6 + 1)), .mma (opX (mmw 6 6) (sa := .reg 2)),
    .mma (opX (mmw 6 0x0B)), .mma (opX (mmw 0 6)), .mma (opX (mmw 6 0x13)), .mma (opX (mmw 6 6 (ia := 1))), .mma (opX (mmw 6 6) (d := 2)),
    .mma (opX (mmw 6 6 (sc := 3)) (d := 3)), .mma (opX (mmw 6 6) (sc := .reg 1)), .mma (opX (mmw 6 6) (mod := 1)), .mma (opX (mmw 6 6) (sa := .lane)),
    .mmag (opX (mmw 6 6)), .mmag (opX (mmw 6 6 (asrc := 2)) (sc := .const 1)), .mmar (opX (mmw 6 6 (rb := 1))), .mmar (opX (mmw 6 6 (sc := 3))),
    .mmar (opX (mmw 6 6 (asrc := 2))), .mperm (opX (mmw 6 6)), .mperm (opX (mmw 0x14 0x13 (sc := 1))), .mperm (opX (mmw 0x14 0x13) (d := 2)),
    .acld (opX (mmw 1 1 (m := 3))), .acld (opX (mmw 1 0 (n := 5))), .acld (opX (mmw 0x10 0 (m := 7) (n := 4))),
    .acld (opX (mmw 1 0 (m := 3)) (sa := .reg 65)), .acld (opX (mmw 1 0)), .acld (opX (mmw 1 0 (m := 3)) (d := 1)),
    .acst (opX (mmw 1 0 (m := 3)) (sa := .reg 1)), .acst (opX (mmw 0x0B 0 (m := 4) (ia := 1)) (mod := 1)), .acst (opX (mmw 0x0B 0 (m := 4))),
    .acz (opX (mmw 1 0)), .acz (opX (mmw 0 0 (ia := 1))), .acz (opX (mmw 0 0 (m := 7) (row := 1))), .opfence (opX 0 (mod := 1)), .opfence (opX 1),
    .mwait (opX 0 (d := 1)), .maskt (opX (mmw 0 0 (m := 4))), .maskt (opX (mmw 0 0) (sa := .lane)), .maskt (opX (mmw 0 0 (row := 113)))].all ill =
      true := by decide +kernel

/-- R209-R221: the copies. -/
theorem test_wf_copies : [
    Instr.cpy (opX 1), .cpy (opX 0 (mod := 1)), .cpy (opX (1 <<< 60)), .cpy (opX (0xE <<< 60)), .cpy (opX (6 <<< 57)), .cpy (opX (6 <<< 54)),
    .cpym (opX (1 <<< 24)), .cpyg (opX (9 <<< 48)), .cpyg (opX 1), .cpyz (opX (1 <<< 49)), .cpyz (opX 1), .kvcmt (opX (9 <<< 48)),
    .kvcmt (opX (21 <<< 43)), .kvcmt (opX 1),
    .cpy ⟨⟨⟨0, 0, true⟩, 0, .reg 0, .reg 0, .reg 0, .i64, 0, .always⟩, 0⟩].all ill = true := by decide +kernel

/-- R312-R336: queues, tasks and graphics. -/
theorem test_wf_work : [
    Instr.qpush (opA (d := 8) (sb := .reg 0)), .qpush (opA), .qctl (opA (d := 8) (sb := .reg 0)), .qpop (opA (sb := .reg 0)),
    .qpop (opA (mod := 1) (sa := .pop 0) (sb := .reg 0)), .qpop (opA (mod := 2) (d := 0) (sa := .pop 0) (sb := .reg 0)),
    .tspawn (opX 0 (sc := .reg 1)), .tspawn (opX (24 <<< 58)), .tspawn (opX 1), .tdep (opA (sc := .reg 1)), .tdepWatch (opA),
    .tdec (opA), .ttime (opA (mod := 1)), .hread (opA (sb := .const 0)), .hrel (opA (sb := .reg 0)), .interp (opA .f64 (sb := .reg 0)),
    .interp (opA .f32x2 (sa := .lane) (sb := .reg 0)), .ecull (opA), .tex (opX 0), .tex (opX 0 (d := 1) (ty := .f32x2)),
    .tex (opX (3 <<< 62) (ty := .f32x2)), .tex (opX (3 <<< 60) (ty := .f32x2)), .tex (opX (3 <<< 58) (ty := .f32x2)), .tex (opX 1 (ty := .f32x2)),
    .boxt (opA .f32x2), .boxt (opA (sa := .reg 4)), .trit (opX 0 (d := 1) (ty := .f32x2)), .trit (opX 0 (sa := .reg 2) (ty := .f32x2)),
    .trit (opX (3 <<< 62) (ty := .f32x2)), .trit (opX 1 (ty := .f32x2)), .rspawn (opA), .pixlk (opA), .pixul (opA (sb := .reg 0)),
    .pxout (opA (d := 0) (sa := .reg 3) (sb := .reg 0))].all ill = true := by decide +kernel

/-- R363-R423: the system registers, the system instructions and recovery. -/
theorem test_wf_system : [
    Instr.sysr (opI (imm := 0xA)), .sysr (opI (imm := 0x1000)), .sysr (opI (sa := .reg 1)), .sysw (opI (imm := 0xC8)), .sysw (opI (imm := 0x48)),
    .sysw (opI (d := 1) (imm := 0x19)), .syswHoldquota (opI (imm := 0x49)), .syswSpillbase (opI (imm := 0x48)), .syswSpillsize (opI),
    .syswFqbase (opI), .syswFqctl (opI), .syswTrapbase (opI), .syswPtroot (opI), .syswFflags (opI), .tlbiVa (opA), .tlbiAsid (opA (d := 0)),
    .tlbiAll (opA (mod := 2) (d := 0)), .wipe (opA (mod := 7)), .wipe (opA (mod := 14)), .prioXchg (opA (mod := 1)), .prioSet (opA),
    .trap (opI (d := 1)), .brk (opI (sa := .reg 1)), .tret (opA), .frz (opA (mod := 1)), .thaw (opA (sc := .reg 1)), .jrnl (opA (mod := 1)),
    .emit (opA (d := 1)), .emit (opA (mod := 2) (d := 0)), .jtrunc (opA), .jpart (opA (mod := 1)), .jpart (opA (mod := 2))].all ill = true := by
  decide +kernel

/-! ### Witnesses: the first statements -/

theorem witness_DecodeEncode :
    (∀ i ∈ [Instr.iaddi ⟨⟨15, 7, true⟩, 255, .elem, 0x7FFFFFF, .cond true 3⟩, .rgn (opX 0xF010),
      .ld (opM .b64x4 .acquire .system 0x200 (d := 252)), .ill], isProgram i = true ∧ i.wf = true) ∧
    decodeWords 0x3023050181210949 0 =
      .ok (.ffma ⟨⟨3, 0, false⟩, 5, .reg 3, .reg 4, .const 8, .f32x2, 4, .cond false 1⟩) ∧
    decodeWords 0x00FF000000000000 0 = .ok .ill := ⟨by decide, rfl, rfl⟩

theorem witness_SpecWordsDecode : ∀ w0 ∈ [0x00F1000000000000#64, 0x00FEFFFFFFFFFFFF#64],
    0xF1 ≤ (opcOf w0).toNat ∧ (opcOf w0).toNat ≤ 0xFE := by
  intro w h
  simp only [List.mem_cons, List.not_mem_nil, or_false] at h
  rcases h with rfl | rfl <;> exact ⟨by decide, by decide⟩

/-- A turn of the agenda: an event, and a reset while every clock is stopped. -/
theorem witness_StepRunsDecoded_event :
    (∃ s : State, s.agenda = .event (.overtemperatureStop 0) :: [] ∧ s.dev.stopped = false) ∧
    ∃ s : State, s.agenda = .event .reset :: [] ∧ s.dev.stopped = true :=
  ⟨⟨{ State.reset with agenda := [.event (.overtemperatureStop 0)] }, rfl, rfl⟩,
   ⟨{ State.reset with agenda := [.event .reset], dev := { State.reset.dev with stopped := true } }, rfl, rfl⟩⟩

/-- The premises of the second clause of StepRunsDecoded from the state in which the group is chosen. -/
def runsNext (s1 : State) : Bool :=
  match s1.nextIssue with
  | none => false
  | some (_, w, _, pc) => (s1.detGang w).isNone && match s1.wordsAt w pc with
    | .error _ => false
    | .ok (w0, w1, _) => match decodeWords w0 w1 with
      | .error _ => false
      | .ok _ => (decHdr w0).rate.toNat == w.rate && rateLegal (s1.isDrawProg w) w.rate &&
        !(twoWords (opcOf w0) && pc.toNat % 64 == 56)

theorem runsNext_spec {s1 : State} (h : runsNext s1 = true) :
    ∃ s2 wid w lanes pc w0 w1 i, s1.nextIssue = some (wid, w, lanes, pc) ∧ s1.detGang w = none ∧
      s1.wordsAt w pc = .ok (w0, w1, s2) ∧ decodeWords w0 w1 = .ok i ∧ (decHdr w0).rate.toNat = w.rate ∧
      rateLegal (s1.isDrawProg w) w.rate = true ∧ ¬(twoWords (opcOf w0) = true ∧ pc.toNat % 64 = 56) := by
  unfold runsNext at h
  split at h
  · simp at h
  · rename_i wid w lanes pc h1
    simp only [Bool.and_eq_true, Option.isNone_iff_eq_none] at h
    obtain ⟨h2, h⟩ := h
    split at h
    · simp at h
    · rename_i w0 w1 s2 h3
      split at h
      · simp at h
      · rename_i i h4
        simp only [Bool.and_eq_true, beq_iff_eq, Bool.not_eq_true', Bool.and_eq_false_iff, beq_eq_false_iff_ne] at h
        refine ⟨s2, wid, w, lanes, pc, w0, w1, i, h1, h2, h3, h4, h.1.1, h.1.2, ?_⟩
        rintro ⟨a, b⟩
        rcases h.2 with c | c
        · simp [a] at c
        · exact c b

/-- An issue that is due by itself, and one that the agenda names: an instruction of two words in the last place of a line
where it fits, and one of one word in the very last. -/
theorem witness_StepRunsDecoded_issue :
    (here.dev.stopped = false ∧ here.agenda = [] ∧ here.autoTurn = none ∧ runsNext here = true) ∧
    (let s := State.reset.withFetchWord 128 0x00030C0000000000
     s.dev.stopped = false ∧ s.agenda = [.issue] ∧ runsNext { s with agenda := [] } = true) ∧
    runsNext (modW here (fun w => w.modThread 0 (fun t => { t with pc := 0x10138 }))) = true ∧
    runsNext ((modW here (fun w => w.modThread 0 (fun t => { t with pc := 0x10130 }))).writePa 0x10130
      (toBytes 8 0x00030C0000000000)) = true := by decide +kernel

/-- The words of a line that no instruction cache holds: the second word of the line's first place, and its last place. -/
theorem witness_StepRunsDecoded_words : ∃ w, here.wave? 0 = some w ∧ ∀ pc ∈ [(0x10100 : Word), 0x10138],
    spaceOf pc = 0 ∧ pc.toNat / 2 ^ 57 % 8 < 5 ∧ pc.toNat % 8 = 0 ∧
    (∃ m, here.translate w.ctx (vaOf pc / 64 * 64) 64 = .ok m ∧ m.x = true ∧ here.served m.pa ≠ none ∧ here.badPa m.pa 64 = false) ∧
    ∀ l ∈ here.icache, ¬(l.core = w.core ∧ l.asid = w.ctx ∧ l.va = vaOf pc / 64 * 64) := by
  refine ⟨_, rfl, ?_⟩
  intro pc h
  simp only [List.mem_cons, List.not_mem_nil, or_false] at h
  rcases h with rfl | rfl
  all_goals exact ⟨by decide +kernel, by decide +kernel, by decide +kernel,
    ⟨_, rfl, by decide +kernel, by decide +kernel, by decide +kernel⟩, by decide +kernel⟩

theorem witness_StepRunsDecoded_stopped : ∃ s : State, s.dev.stopped = true ∧ ∀ rest, s.agenda ≠ .event .reset :: rest :=
  ⟨{ State.reset with dev := { State.reset.dev with stopped := true } }, rfl, by simp [State.reset]⟩

theorem witness_MemoryCanonical : Memory.wf here.mem = true ∧ here.mem ≠ [] ∧ ∃ t, step here = .next t :=
  ⟨by decide +kernel, by decide +kernel, isNext_spec (by decide +kernel)⟩

/-! ### Witnesses: waits and traps -/

/-- A wave with a trap handler. -/
def catching : State := modW here (fun w => { w with trapbase := 0x10200 })

/-- The same wave inside its handler. -/
def handling : State := modW catching (fun w => { w with trap := { w.trap with inHandler := true } })

/-- A wait that every instruction has (R46), and a wait of its own (R163). -/
theorem witness_WaitsHold :
    (∃ r, (at0 (go here (.qctl (opA (d := 0) (sa := .const 1) (sb := .reg 0)))) (.qpop (opA (sa := .pop 0) (sb := .reg 0)))).run?
        (.qpop (opA (sa := .pop 0) (sb := .reg 0))) = some r ∧
      (at0 (go here (.qctl (opA (d := 0) (sa := .const 1) (sb := .reg 0)))) (.qpop (opA (sa := .pop 0) (sb := .reg 0)))).decodeCheck
        r.c r.w (.qpop (opA (sa := .pop 0) (sb := .reg 0))) = none ∧
      (at0 (go here (.qctl (opA (d := 0) (sa := .const 1) (sb := .reg 0)))) (.qpop (opA (sa := .pop 0) (sb := .reg 0)))).commonWait
        (.qpop (opA (sa := .pop 0) (sb := .reg 0))) r = true) ∧
    (∃ r, (at0 (go here (.acz (opX 0))) (.mwait (opX 0))).run? (.mwait (opX 0)) = some r ∧
      (at0 (go here (.acz (opX 0))) (.mwait (opX 0))).decodeCheck r.c r.w (.mwait (opX 0)) = none ∧
      waitOf (.mwait (opX 0)) (at0 (go here (.acz (opX 0))) (.mwait (opX 0))) r = true) :=
  ⟨runs_spec (P := fun s r => s.decodeCheck r.c r.w _ = none ∧ s.commonWait _ r = true) (by decide +kernel),
   runs_spec (P := fun s r => s.decodeCheck r.c r.w _ = none ∧ waitOf _ s r = true) (by decide +kernel)⟩

/-- A wave that can take a trap, and compute waves that cannot: without a handler, and inside one. -/
theorem witness_Traps_taken :
    (∃ w, catching.wave? 0 = some w ∧ Catches w) ∧
    ∀ s ∈ [here, handling], ∃ w, s.wave? 0 = some w ∧ ¬Catches w ∧ w.kind = .compute ∧
      (∀ e ∈ s.waves, e.2.wg = w.wg → e.2.kind = .compute ∨ e.2.kind = .access) ∧ (s.ctx? w.ctx).isSome = true := by
  refine ⟨⟨_, rfl, rfl, by decide⟩, ?_⟩
  intro s h
  simp only [List.mem_cons, List.not_mem_nil, or_false] at h
  rcases h with rfl | rfl
  · exact ⟨_, rfl, fun h => h.2 rfl, by decide, by decide, by decide⟩
  · exact ⟨_, rfl, fun h => absurd h.1 (by decide), by decide, by decide, by decide⟩

/-- The same wave without privilege. -/
def plainly : State := modW tenant (fun w => { w with trapbase := 0x10200 })

/-- Instructions whose decode check fails: cause 0x01 of an ill-formed field, 0x02 of a privileged instruction without
privilege, 0x0E of an overlap, 0x13 of a wrong rate; and ILL. -/
theorem witness_Traps_decode :
    (∀ x ∈ [(Instr.iadd (opA .f64), 0x01), (.tlbiAll (opA .i64 2 (d := 0) (sa := .reg 0) (sb := .reg 0)), 0x02),
        (.ld (opM .b64x4 (d := 4)), 0x0E), (.ldq (opM (d := 0)), 0x01)],
      ∃ r, (at0 plainly x.1).run? x.1 = some r ∧ encode x.1 ≠ [] ∧ (at0 plainly x.1).decodeCheck r.c r.w x.1 = some x.2 ∧
        r.w.trap.inHandler = false ∧ r.w.trapbase ≠ 0) ∧
    (∃ r, (at0 catching .ill).run? .ill = some r ∧ r.w.trap.inHandler = false ∧ r.w.trapbase ≠ 0) := by
  refine ⟨?_, runs_spec (P := fun _ r => r.w.trap.inHandler = false ∧ r.w.trapbase ≠ 0) (by decide +kernel)⟩
  intro x h
  simp only [List.mem_cons, List.not_mem_nil, or_false] at h
  rcases h with rfl | rfl | rfl | rfl <;>
    exact runs_spec (P := fun s r => encode _ ≠ [] ∧ s.decodeCheck r.c r.w _ = some _ ∧ r.w.trap.inHandler = false ∧
      r.w.trapbase ≠ 0) (by decide +kernel)

/-- TRAP and BRK with an executing thread and without one; TRET outside a handler and inside one. -/
theorem witness_Traps_instructions :
    (∀ i ∈ [Instr.trap (opI (imm := 5)), .brk (opI (imm := 0x7FFFFFF))],
      ∃ r, Issues (at0 catching i) i r ∧ r.ex ≠ 0 ∧ r.w.trap.inHandler = false ∧ r.w.trapbase ≠ 0) ∧
    (∀ i ∈ [Instr.trap (opI (g := .cond false 0)), .brk (opI (g := .cond false 0))],
      ∃ r, Issues (at0 here i) i r ∧ r.ex = 0) ∧
    (∃ r, Issues (at0 catching (.tret (opA (d := 0) (sa := .reg 0) (sb := .reg 0)))) (.tret (opA (d := 0) (sa := .reg 0) (sb := .reg 0))) r ∧
      r.w.trap.inHandler = false ∧ r.w.trapbase ≠ 0) ∧
    (∃ r, Issues (at0 handling (.tret (opA (d := 0) (sa := .reg 0) (sb := .reg 0)))) (.tret (opA (d := 0) (sa := .reg 0) (sb := .reg 0))) r ∧
      r.w.trap.inHandler = true) := by
  refine ⟨?_, ?_, issued (fun _ r => r.w.trap.inHandler = false ∧ r.w.trapbase ≠ 0) (by decide +kernel),
    issued (fun _ r => r.w.trap.inHandler = true) (by decide +kernel)⟩
  · intro i h
    simp only [List.mem_cons, List.not_mem_nil, or_false] at h
    rcases h with rfl | rfl <;>
      exact issued (fun _ r => r.ex ≠ 0 ∧ r.w.trap.inHandler = false ∧ r.w.trapbase ≠ 0) (by decide +kernel)
  · intro i h
    simp only [List.mem_cons, List.not_mem_nil, or_false] at h
    rcases h with rfl | rfl <;> exact issued (fun _ r => r.ex = 0) (by decide +kernel)

/-- Every thread of a wave at TRET, with a resume address that can be fetched. -/
theorem witness_Traps_return : ∃ (s : State) (w : Wave), s.wave? 0 = some w ∧ w.allAtTret = true ∧ w.frozen = false ∧
    ∀ l, w.live.getLsbD l = true → spaceOf (w.thread l).tepc = 0 ∧ (w.thread l).tepc.toNat % 8 = 0 :=
  ⟨modW handling (fun w => w.modThread 0 (fun t => { t with wait := .tret, tepc := 0x10108 })), _, rfl, by decide +kernel,
    by decide +kernel, lanes_all (by decide +kernel)⟩

/-! ### Witnesses: lane-wise instructions -/

theorem witness_IntegerArithmetic : LaneWise here
  [.iadd (opA .i64), .iadd (opA .n8x8 2), .isub (opA .i16x4), .imul (opA .n32x2 2), .imulh (opA .i64), .imad (opA .i8x8 2 (sc := .reg 4)),
   .imin (opA .i32x2), .imax (opA .n64), .iabs (opA .i64 2 (sb := .reg 0)), .ineg (opA .n16x4 (sb := .reg 0))] := issues_all (by decide +kernel)

theorem witness_ByteDotProduct : LaneWise here
  [.idot4 (opA .i8x8 0 (sc := .reg 4)), .idot4 (opA .n8x8 2 (sc := .reg 4))] := issues_all (by decide +kernel)

theorem witness_ByteDotProduct_wf : (Instr.idot4 (opA .i8x8 0 (sc := .reg 4))).wf = true ∧
    (Instr.idot4 (opA .n8x8 2 (sc := .reg 4))).wf = true := by decide

theorem witness_WordResults : LaneWise here
  [.nop (opA (d := 0) (sa := .reg 0) (sb := .reg 0)), .mov (opA .b1x64 (sb := .reg 0)), .li (opI (d := 255) (imm := 0x4000000)),
   .liw ⟨hd, 1, 0xFFFFFFFFFFFFFFFF, .always⟩, .iaddi (opI (d := 1) (sa := .reg 255) (imm := 0x3FFFFFF)), .and (opA), .or (opA .f64),
   .xor (opA .t2x32), .andn (opA .x32x2), .sel (opA .i64 3), .lea (opA .i64 15 (sc := .reg 4)), .rand (opA .n64)] := issues_all (by decide +kernel)

theorem witness_SpacePointers : LaneWise here
  [.pspace (opA .i64 0), .pspace (opA .i64 15 (sb := .const 0))] := issues_all (by decide +kernel)

theorem witness_SpacePointers_operands : (Instr.pspace (opA .i64 15 (sb := .const 0))).wf = true ∧
    (opA .i64 15 (sb := .const 0)).sb = .const 0 ∧
    (∀ p ∈ [(0x6000000000000000 : Word), 0xEFFFFFFFFFFFFFFF], 6 ≤ spaceOf p ∧ spaceOf p ≤ 14) ∧
    (∀ p ∈ [(0x0A00000000000000 : Word), 0x4E00000000000000], (spaceOf p = 0 ∨ spaceOf p = 4) ∧ 5 ≤ p.toNat / 2 ^ 57 % 8) := by
  refine ⟨by decide, rfl, ?_, ?_⟩ <;>
  · intro p h
    simp only [List.mem_cons, List.not_mem_nil, or_false] at h
    rcases h with rfl | rfl <;> decide

/-- A machine whose register v2 has tag G. -/
def taggedG : State := modW here (fun w => w.setTag 2 .g)

/-- MKAFF with both operands uniform, with one that is not, and under a guard that holds. -/
theorem witness_AffineValues :
    (∃ r, Issues (at0 here (.mkaff (opA))) (.mkaff (opA)) r ∧ r.ex ≠ 0 ∧ r.ex = r.w.present ∧
      (at0 here (.mkaff (opA))).srcTag r.w (.reg 2) .i64 = .u 0 ∧ (at0 here (.mkaff (opA))).srcTag r.w (.reg 3) .i64 = .u 0) ∧
    (∃ r, Issues (at0 taggedG (.mkaff (opA .n64))) (.mkaff (opA .n64)) r ∧ r.ex ≠ 0 ∧
      (at0 taggedG (.mkaff (opA .n64))).srcTag r.w (.reg 2) .n64 = .g) ∧
    (∃ r, Issues (at0 here (.mkaff ⟨hd, 1, .reg 2, .reg 3, .reg 0, .i64, 0, .cond true 0⟩))
      (.mkaff ⟨hd, 1, .reg 2, .reg 3, .reg 0, .i64, 0, .cond true 0⟩) r ∧ r.ex ≠ 0) :=
  ⟨issued (fun s r => r.ex ≠ 0 ∧ r.ex = r.w.present ∧ s.srcTag r.w (.reg 2) .i64 = .u 0 ∧ s.srcTag r.w (.reg 3) .i64 = .u 0)
     (by decide +kernel),
   issued (fun s r => r.ex ≠ 0 ∧ s.srcTag r.w (.reg 2) .n64 = .g) (by decide +kernel),
   issued (fun _ r => r.ex ≠ 0) (by decide +kernel)⟩

theorem witness_BitPatterns : LaneWise here
  [.shl (opA .n4x16), .shr (opA .i64), .shr (opA .n64), .bfe (opA .i8x8 0 (sc := .reg 4)), .bfi (opA .n64 0 (sc := .reg 4)),
   .popc (opA .i4x16 (sb := .reg 0)), .clz (opA .i64 (sb := .reg 0)), .brev (opA .n16x4 (sb := .reg 0)), .fclass (opA .f64 (sb := .reg 0)),
   .frnd (opA .f32x2 12 (sb := .reg 0)), .pack (opA .e3m2x8 2 (sa := .reg 4) (sb := .reg 0)), .unpk (opA .e2m3x8 3 (sc := .reg 4)),
   .swz (opA .e2m1x16 (sc := .reg 4))] := issues_all (by decide +kernel)

theorem witness_Conditions : LaneWise here
  [.icmp (opA .i64 0 (d := 0)), .icmp (opA .n8x8 13 (d := 3)), .clog ⟨hd, 3, 2, 1, 9, .always⟩, .fcmp (opA .f64 0 (d := 0)),
   .fcmp (opA .bf16x4 15 (d := 3))] := issues_all (by decide +kernel)

theorem witness_FloatArithmetic : LaneWise here
  [.fadd (opA .f64 15), .fsub (opA .f32x2), .fmul (opA .f19x2 4), .ffma (opA .bf16x4 8 (sc := .reg 4)), .fmin (opA .f16x4 1), .fmax (opA .f64),
   .fclamp (opA .f32x2 0 (sc := .reg 4)), .fscale (opA .f64 3), .flerp (opA .f64 12 (sc := .reg 4)), .fdot2 (opA .f16x4 2 (sc := .reg 4))] := issues_all (by decide +kernel)

theorem witness_SpecialFunctions : LaneWise here
  [.fdiv (opA .f64 12), .fdiv (opA .f16x4 3), .fsqrt (opA .f64 8 (sb := .reg 0)), .frcp (opA .f32x2 (sb := .reg 0)), .frsq (opA .bf16x4 (sb := .reg 0)),
   .fexp2 (opA .f16x4 1 (sb := .reg 0)), .flog2 (opA .f32x2 (sb := .reg 0)), .fsin (opA .f32x2 (sb := .reg 0)), .fcos (opA .f32x2 (sb := .reg 0)),
   .ftanh (opA .f32x2 (sb := .reg 0)), .fscs (opA .f32x2 2 (d := 4) (sb := .reg 0))] := issues_all (by decide +kernel)

theorem witness_Conversions : LaneWise here
  [.cvt (opCvt .f64 .f32x2 1), .cvt (opCvt .e2m1x16 .f32x2 7), .cvti (opCvt .i4x16 .f64 15), .cvti (opCvt .f64 .i64), .cvti (opCvt .i64 .n8x8 7 2),
   .cvtEf (opCvt .f32x2 .e4m3x8 3 3 (.reg 5)), .decb (opA .f16x4 15), .decb (opA .bf16x4)] := issues_all (by decide +kernel)

/-! ### Witnesses: exchanges -/

/-- v3 and v4 of every thread name every thread. -/
def named : State := setAll (setAll wide 3 0xFFFFFFFF) 4 0xFFFFFFFF

def crossInstrs : List Instr :=
  [.shfl (opA .i64 3 (sc := .reg 4)), .shflx (opA .i16x4 0 (sc := .reg 4)), .vote (opA .n64 11 (sa := .reg 3) (sb := .reg 0)), .peers (opA .n64),
   .wred (opA .n64 5), .wscan (opA .f64 10), .fsum (opA .f64 12), .amax (opA .f16x4)]

/-- A thread that its own mask does not name, and threads that their masks name. -/
theorem witness_CrossLaneIssue :
    (∀ i ∈ crossInstrs, ∃ r, Issues (at0 here i) i r ∧ (at0 here i).aloneLanes i r ≠ 0 ∧ ∀ f, r.w.trapping f = 0) ∧
    ∀ i ∈ crossInstrs, ∃ r, Issues (at0 named i) i r ∧ (at0 named i).aloneLanes i r = 0 := by
  have h1 : crossInstrs.all (fun i => issues here i (fun s r => decide (s.aloneLanes i r ≠ 0 ∧ r.w.fflags.extractLsb' 8 6 = 0))) = true := by
    decide +kernel
  have h2 : crossInstrs.all (fun i => issues named i (fun s r => decide (s.aloneLanes i r = 0))) = true := by decide +kernel
  refine ⟨fun i hi => ?_, fun i hi => issued (fun s r => s.aloneLanes i r = 0) (List.all_eq_true.mp h2 i hi)⟩
  obtain ⟨r, hr, a, b⟩ := issued (fun s r => s.aloneLanes i r ≠ 0 ∧ r.w.fflags.extractLsb' 8 6 = 0) (List.all_eq_true.mp h1 i hi)
  exact ⟨r, hr, a, trapping_zero b⟩

theorem witness_Exchanges : (∀ i ∈ crossInstrs, ∃ j s' r, (go named i).exchangeReady 0 0 = some (j, s', r) ∧ r.ex ≠ 0 ∧ ∀ f, r.w.trapping f = 0) ∧
    ∃ (o : OpA) (t : Nat), t < 32 ∧ tyIsFloat o.ty = false ∧ o.mod.toNat % 8 = 0 := by
  refine ⟨?_, opA .n8x8 8, 31, by decide, by decide, by decide⟩
  have h : crossInstrs.all (fun i => ((go named i).exchangeReady 0 0).any (fun x => decide (x.2.2.ex ≠ 0 ∧ x.2.2.w.fflags.extractLsb' 8 6 = 0))) =
    true := by decide +kernel
  intro i hi
  obtain ⟨⟨j, s', r⟩, a, b, c⟩ := some_spec (P := fun (x : Instr × State × Run) => x.2.2.ex ≠ 0 ∧ x.2.2.w.fflags.extractLsb' 8 6 = 0) (List.all_eq_true.mp h i hi)
  exact ⟨j, s', r, a, b, trapping_zero c⟩

/-! ### Witnesses: loads and stores -/

/-- LD and ST of every size, and in space 0x4 with the tag register. -/
theorem witness_LoadsAndStoresIssue :
    (∀ x ∈ [(mapped, opM .b8), (mapped, opM .b64x4 .relaxed .thread 0x1FF), (mapped4, opM .b16 .relaxed .thread 0 7),
        (mapped, opM .b64x2 .acquire .system 0x200)],
      ∃ r locs, Issues (at0 x.1 (.ld x.2)) (.ld x.2) r ∧ (at0 x.1 (.ld x.2)).tagRegFault (.ld x.2) r = none ∧ r.ex ≠ 0 ∧
        Reaches (at0 x.1 (.ld x.2)) (.ld x.2) r accLoad ldSpaces x.2.size.bytes x.2.size.bytes (eaOf x.2) locs ∧
        ∀ y ∈ locs, ((at0 x.1 (.ld x.2)).laneLoad (.ld x.2) r ((at0 x.1 (.ld x.2)).addrs (.ld x.2) r (eaOf x.2)) x.2.size.bytes y).isSome = true) ∧
    (∀ x ∈ [(mapped, opM .b8), (mapped, opM .b64x4 .relaxed .thread 0x1FF), (mapped4, opM .b16 .relaxed .thread 0 7),
        (mapped, opM .b64x2 .release .system 0x200)],
      ∃ r locs, Issues (at0 x.1 (.st x.2)) (.st x.2) r ∧ (at0 x.1 (.st x.2)).tagRegFault (.st x.2) r = none ∧ r.ex ≠ 0 ∧
        Reaches (at0 x.1 (.st x.2)) (.st x.2) r accStore stSpaces x.2.size.bytes x.2.size.bytes (eaOf x.2) locs) := by
  constructor
  · intro x hx
    obtain ⟨r, hr, a, b, c, d⟩ := issued (s := x.1) (i := .ld x.2) (fun s r => s.tagRegFault (.ld x.2) r = none ∧ r.ex ≠ 0 ∧
      (reached s (.ld x.2) r accLoad ldSpaces x.2.size.bytes (eaOf x.2)).1 = [] ∧
      ∀ y ∈ (reached s (.ld x.2) r accLoad ldSpaces x.2.size.bytes (eaOf x.2)).2,
        (s.laneLoad (.ld x.2) r (s.addrs (.ld x.2) r (eaOf x.2)) x.2.size.bytes y).isSome = true) (by
        simp only [List.mem_cons, List.not_mem_nil, or_false] at hx
        rcases hx with rfl | rfl | rfl | rfl <;> decide +kernel)
    exact ⟨r, _, hr, a, b, pair_of_fst c, d⟩
  · intro x hx
    obtain ⟨r, hr, a, b, c⟩ := issued (s := x.1) (i := .st x.2) (fun s r => s.tagRegFault (.st x.2) r = none ∧ r.ex ≠ 0 ∧
      (reached s (.st x.2) r accStore stSpaces x.2.size.bytes (eaOf x.2)).1 = []) (by
        simp only [List.mem_cons, List.not_mem_nil, or_false] at hx
        rcases hx with rfl | rfl | rfl | rfl <;> decide +kernel)
    exact ⟨r, _, hr, a, b, pair_of_fst c⟩

/-- An access wave and the compute wave that it loads for, whose queue 7 has a depth. -/
def paired : State :=
  { mapped with waves := mapped.waves.flatMap (fun e =>
      [(0, { e.2 with kind := .access, pair := some 1 }),
       (1, { e.2 with slot := 1, pair := some 0, queues := lmod e.2.queues 7 (fun q => { q with depth := 2 }) })]) }

def oLdq : OpM := opM .b16 (d := 7)

/-- LDQ and PREF with executing threads and without one. -/
theorem witness_QueueLoadsAndPrefetches :
    (∃ r locs v, Issues (at0 paired (.ldq oLdq)) (.ldq oLdq) r ∧ r.w.pair = some 1 ∧ 1 ≠ r.c.wid ∧
      (at0 paired (.ldq oLdq)).wave? 1 = some v ∧ (v.queue 7).depth ≠ 0 ∧ r.ex ≠ 0 ∧
      Reaches (at0 paired (.ldq oLdq)) (.ldq oLdq) r accLoad [0, 1, 2, 3, 4, 5] 2 2 (eaOf oLdq) locs ∧
      ∀ x ∈ locs, ((at0 paired (.ldq oLdq)).laneLoad (.ldq oLdq) r [] 2 x).isSome = true) ∧
    (∀ o ∈ [opM .b8 (d := 0), opM .b64x4 (off := 0x200) (d := 5)], ∃ r, Issues (at0 mapped (.pref o)) (.pref o) r ∧ r.ex ≠ 0) ∧
    ∀ i ∈ [Instr.ldq { oLdq with g := .cond false 0 }, .pref { opM .b8 (d := 0) with g := .cond false 0 }],
      ∃ r, Issues (at0 paired i) i r ∧ r.ex = 0 := by
  refine ⟨?_, ?_, ?_⟩
  · obtain ⟨r, hr, a, b, c, d, e, f⟩ := issued (s := paired) (i := .ldq oLdq) (fun s r => r.w.pair = some 1 ∧ 1 ≠ r.c.wid ∧
      (s.wave? 1).any (fun v => (v.queue 7).depth != 0) = true ∧ r.ex ≠ 0 ∧
      (reached s (.ldq oLdq) r accLoad [0, 1, 2, 3, 4, 5] 2 (eaOf oLdq)).1 = [] ∧
      ∀ x ∈ (reached s (.ldq oLdq) r accLoad [0, 1, 2, 3, 4, 5] 2 (eaOf oLdq)).2,
        (s.laneLoad (.ldq oLdq) r [] 2 x).isSome = true) (by decide +kernel)
    obtain ⟨v, hv, hd⟩ := Option.any_eq_true _ _ |>.mp c
    exact ⟨r, _, v, hr, a, b, hv, by simpa using hd, d, pair_of_fst e, f⟩
  · intro o h
    simp only [List.mem_cons, List.not_mem_nil, or_false] at h
    rcases h with rfl | rfl <;> exact issued (fun _ r => r.ex ≠ 0) (by decide +kernel)
  · intro i h
    simp only [List.mem_cons, List.not_mem_nil, or_false] at h
    rcases h with rfl | rfl <;> exact issued (fun _ r => r.ex = 0) (by decide +kernel)

/-- The premises of the end of an entry of wave 0: it is the oldest of its wave, and has the property. -/
def ends (s : State) (P : Wave → Entry → Prop) : Prop :=
  ∃ w e, s.wave? 0 = some w ∧ w.entry? 0 = some e ∧ e.seq = 0 ∧ P w e

theorem ends_spec {s : State} (P : Wave → Entry → Prop) [∀ w e, Decidable (P w e)]
    (h : entryIs s 0 0 (fun w e => e.seq = 0 ∧ P w e) = true) : ends s P := entry_spec (fun w e => e.seq = 0 ∧ P w e) h

/-- A load, one with a tag register and a prefetch, whose data is due; a store that has been sent; a reduction, in every
executing lane of which a fault may come. -/
theorem witness_PendingAccesses :
    (∀ x ∈ [(mapped, Instr.ld (opM .b8)), (mapped4, .ld (opM .b64x4 (off := 0x1FF))), (mapped, .pref (opM .b8 (d := 0)))],
      ends (go x.1 x.2) (fun w e => e.queue = none ∧ completes e.ins = true ∧ e.st = .issued ∧ w.frozen = false ∧ e.dest.Nodup ∧
        e.exec = 0xF ∧ (go x.1 x.2).farBusy w e = false)) ∧
    ends ((go mapped (.st (opM .b64))).drainOne 0) (fun w e => e.st = .sent ∧ ackedKind e = true ∧
      ((go mapped (.st (opM .b64))).drainOne 0).returns w e = true) ∧
    ends (go mapped (.redb (opM .b32 (sb := .reg 0)))) (fun w e => e.ins = .redb (opM .b32 (sb := .reg 0)) ∧
      8#32 &&& (go mapped (.redb (opM .b32 (sb := .reg 0)))).faultable w e ≠ 0 ∧
      (go mapped (.redb (opM .b32 (sb := .reg 0)))).returns w e = true ∧ w.live ≠ 0 ∧ e.inFifo = false ∧
      ∀ l, e.exec.getLsbD l = true → aget? e.loc l = some (.mem 0x20000) ∧
        (go mapped (.redb (opM .b32 (sb := .reg 0)))).badLoc (.mem 0x20000) 4 = false) := by
  refine ⟨?_, ends_spec _ (by decide +kernel), ?_⟩
  · intro x h
    simp only [List.mem_cons, List.not_mem_nil, or_false] at h
    rcases h with rfl | rfl | rfl <;> exact ends_spec _ (by decide +kernel)
  · obtain ⟨w, e, hw, he, h0, a, b, c, d, f, g⟩ := ends_spec (s := go mapped (.redb (opM .b32 (sb := .reg 0)))) (fun w e =>
      e.ins = .redb (opM .b32 (sb := .reg 0)) ∧
      8#32 &&& (go mapped (.redb (opM .b32 (sb := .reg 0)))).faultable w e ≠ 0 ∧
      (go mapped (.redb (opM .b32 (sb := .reg 0)))).returns w e = true ∧ w.live ≠ 0 ∧ e.inFifo = false ∧
      (List.range 32).all (fun l => !e.exec.getLsbD l || decide (aget? e.loc l = some (.mem 0x20000) ∧
        (go mapped (.redb (opM .b32 (sb := .reg 0)))).badLoc (.mem 0x20000) 4 = false)) = true) (by decide +kernel)
    exact ⟨w, e, hw, he, h0, a, b, c, d, f, lanes_all g⟩

/-- A store in the FIFO whose lanes name one address: the highest lane wins, the others lose. -/
theorem witness_PendingAccesses_drain : ∃ w e, (go mapped (.st (opM .b64))).wave? 0 = some w ∧ w.mitten.find? Entry.inFifo = some e ∧
    (e.ins = .st (opM .b64) ∧ w.frozen = false ∧ (go mapped (.st (opM .b64))).sendable w e = true) ∧ (e.exec.getLsbD 3 = true ∧ aget? e.loc 3 = some (.mem 0x20000)) ∧
    (∀ l, e.exec.getLsbD l = true → (e.storeBytes l).length = 8 ∧
      ∃ pa, aget? e.loc l = some (.mem pa) ∧ (go mapped (.st (opM .b64))).badLoc (.mem pa) 8 = false) := by
  have h : ((go mapped (.st (opM .b64))).wave? 0).any (fun w => (w.mitten.find? Entry.inFifo).any (fun e => decide ((e.ins = .st (opM .b64) ∧
      w.frozen = false ∧ (go mapped (.st (opM .b64))).sendable w e = true) ∧ (e.exec.getLsbD 3 = true ∧ aget? e.loc 3 = some (.mem 0x20000)) ∧
      (List.range 32).all (fun l => !e.exec.getLsbD l || decide ((e.storeBytes l).length = 8 ∧ aget? e.loc l = some (.mem 0x20000) ∧
        (go mapped (.st (opM .b64))).badLoc (.mem 0x20000) 8 = false)) = true))) = true := by decide +kernel
  obtain ⟨w, hw, h⟩ := (Option.any_eq_true _ _).mp h
  obtain ⟨e, he, h⟩ := (Option.any_eq_true _ _).mp h
  obtain ⟨a, b, c⟩ := of_decide_eq_true h
  exact ⟨w, e, hw, he, a, b, fun l hl => let ⟨p, q, t⟩ := lanes_all c l hl; ⟨p, _, q, t⟩⟩

theorem witness_MemorySide :
    (∀ n ∈ [1, 2, 4, 8], 0 < n ∧ 2 ^ (8 * n) - 1 < 2 ^ (8 * n)) ∧
    ∀ x ∈ [(0xFFF8, 8), (0xFFFF, 1), (0, 2)], x.1 % 65536 + x.2 ≤ 65536 ∧ here.badLoc (.mem x.1) x.2 = false := by decide +kernel

/-- The premises of an atomic. -/
def atomicOk (i : Instr) (o : OpM) (op : Nat) (data : Nat → State → Run → List Word) (operand : List Word → Word)
    (f : List Word → Nat → Nat) (s : State) (r : Run) : Bool :=
  let n := o.size.bytes
  let ptr := fun v => List.getD v 0 0
  let locs := s.resolveAll r.w accAtomic [0, 1, 2, 3, 4] n n (s.addrs i r ptr)
  let m := s.atMemory i o r ptr locs.2
  let p := m.rmwAll r.w.ctx (m.writer r.w) n op locs.2 (fun l => toBytes n (operand (data l s r)).toNat) (fun l => f (data l s r))
  r.ex != 0 && s.isDet r.w == false && locs.1.isEmpty && (m.wave? r.c.wid).isSome && p.2.2.1 == 0

def oA : OpM := opM .b64 .acqRel .system (11 * 64) (sb := .reg 2)
def oC : OpM := opM .b32 .relaxed .wave (sb := .reg 2)
def oR : OpM := opM .b64 .release .device (7 * 64)

theorem witness_AtomicsIssue :
    (∃ r, Issues (at0 mapped (.atom oA)) (.atom oA) r ∧ atomicOk (.atom oA) oA oA.op (fun l s r => [(s.srcVals r.w (.atom oA) l).getD 1 0])
      (fun v => v.getD 0 0) (fun v old => atomFn oA.op 8 old ((v.getD 0 0).toNat % 2 ^ 64)) (at0 mapped (.atom oA)) r = true) ∧
    (∃ r, Issues (at0 mapped (.atomc oC)) (.atomc oC) r ∧ atomicOk (.atomc oC) oC 12
      (fun l s r => [(s.srcVals r.w (.atomc oC) l).getD 1 0, s.regVal r.w l oC.d.toNat]) (fun v => v.getD 1 0)
      (fun v old => if old = (v.getD 0 0).toNat % 2 ^ 32 then (v.getD 1 0).toNat % 2 ^ 32 else old) (at0 mapped (.atomc oC)) r = true) ∧
    (∃ r, Issues (at0 mapped (.red oR)) (.red oR) r ∧ atomicOk (.red oR) oR oR.op (fun l s r => [s.regVal r.w l oR.d.toNat])
      (fun v => v.getD 0 0) (fun v old => atomFn oR.op 8 old ((v.getD 0 0).toNat % 2 ^ 64)) (at0 mapped (.red oR)) r = true) ∧
    (∃ w e, (go mapped (.atom oA)).wave? 0 = some w ∧ w.entry? 0 = some e ∧ e.ins = .atom oA ∧ e.st = .sent ∧
      (go mapped (.atom oA)).returns w e = true ∧ e.dest.Nodup ∧ e.exec = 0xF) :=
  ⟨issues_spec (by decide +kernel), issues_spec (by decide +kernel), issues_spec (by decide +kernel),
   entry_spec (fun w e => e.ins = .atom oA ∧ e.st = .sent ∧ (go mapped (.atom oA)).returns w e = true ∧ e.dest.Nodup ∧ e.exec = 0xF)
     (by decide +kernel)⟩

/-- A launch of an ordered program, with two workgroups before the next. -/
def ordered : State := mapped.modLaunch 1 (fun l => { l with control := false, obj := { l.obj with ordered := true } })

def oF : OpM := opM .b64 .relaxed .device
def oH : OpM := opM .b32 (sb := .reg 2)

/-- A contribution that is the next at its address and whose turn has come (thread 0 of workgroup 0), and one whose turn
has not (thread 1, while the workgroup runs). -/
theorem witness_OrderedAddsAndChains_faddo :
    (∃ r, Issues (at0 ordered (.faddo oF)) (.faddo oF) r ∧ r.ex ≠ 0 ∧
      (reached (at0 ordered (.faddo oF)) (.faddo oF) r accAtomic [0, 4] 8 (fun v => List.getD v 0 0)).1 = [] ∧
      (((at0 ordered (.faddo oF)).afterStores (.faddo oF) r (fun v => List.getD v 0 0)).wave? r.c.wid).isSome = true ∧
      (((at0 ordered (.faddo oF)).afterStores (.faddo oF) r (fun v => List.getD v 0 0)).launch? 1).isSome = true ∧
      ∀ x ∈ (reached (at0 ordered (.faddo oF)) (.faddo oF) r accAtomic [0, 4] 8 (fun v => List.getD v 0 0)).2,
        ((at0 ordered (.faddo oF)).afterStores (.faddo oF) r (fun v => List.getD v 0 0)).badLoc x.2 8 = false) ∧
    (∃ l c, (go ordered (.faddo oF)).launch? 1 = some l ∧ l.nextFaddo 0x20000 = some c ∧ (go ordered (.faddo oF)).faddoTurn 1 c = true ∧
      Plain (go ordered (.faddo oF)) 0x20000 8) ∧
    (∃ l c, (ev (go ordered (.faddo oF)) (.faddoApply 1 0x20000)).launch? 1 = some l ∧ l.nextFaddo 0x20000 = some c ∧
      (ev (go ordered (.faddo oF)) (.faddoApply 1 0x20000)).faddoTurn 1 c = false) := by
  have h1 : ((go ordered (.faddo oF)).launch? 1).any (fun l => (l.nextFaddo 0x20000).any (fun c =>
    (go ordered (.faddo oF)).faddoTurn 1 c)) = true := by decide +kernel
  have h2 : ((ev (go ordered (.faddo oF)) (.faddoApply 1 0x20000)).launch? 1).any (fun l => (l.nextFaddo 0x20000).any (fun c =>
    !(ev (go ordered (.faddo oF)) (.faddoApply 1 0x20000)).faddoTurn 1 c)) = true := by decide +kernel
  obtain ⟨l, hl, h1⟩ := (Option.any_eq_true _ _).mp h1
  obtain ⟨c, hc, h1⟩ := (Option.any_eq_true _ _).mp h1
  obtain ⟨l2, hl2, h2⟩ := (Option.any_eq_true _ _).mp h2
  obtain ⟨c2, hc2, h2⟩ := (Option.any_eq_true _ _).mp h2
  exact ⟨issued (fun s r => r.ex ≠ 0 ∧ (reached s (.faddo oF) r accAtomic [0, 4] 8 (fun v => List.getD v 0 0)).1 = [] ∧
      ((s.afterStores (.faddo oF) r (fun v => List.getD v 0 0)).wave? r.c.wid).isSome = true ∧
      ((s.afterStores (.faddo oF) r (fun v => List.getD v 0 0)).launch? 1).isSome = true ∧
      ∀ x ∈ (reached s (.faddo oF) r accAtomic [0, 4] 8 (fun v => List.getD v 0 0)).2,
        (s.afterStores (.faddo oF) r (fun v => List.getD v 0 0)).badLoc x.2 8 = false) (by decide +kernel),
    ⟨l, c, hl, hc, h1, by unfold Plain; decide +kernel⟩, l2, c2, hl2, hc2, by simpa using h2⟩

/-- CHAIN that finds no chain of its address, and its ticket whose turn has come. -/
theorem witness_OrderedAddsAndChains_chain :
    (∃ r, Issues (at0 ordered (.chain oH)) (.chain oH) r ∧ r.ex ≠ 0 ∧
      (∀ y ∈ (at0 ordered (.chain oH)).addrs (.chain oH) r (fun v => List.getD v 0 0), y.2 = 0x20000) ∧
      (reached (at0 ordered (.chain oH)) (.chain oH) r accAtomic [0, 4] 4 (fun v => List.getD v 0 0)).1 = [] ∧
      (reached (at0 ordered (.chain oH)) (.chain oH) r accAtomic [0, 4] 4 (fun v => List.getD v 0 0)).2.head? = some (0, .mem 0x20000) ∧
      ((at0 ordered (.chain oH)).launchOf r.w).any (fun x => !x.2.chainBroken (.mem 0x20000) && (x.2.chain? (.mem 0x20000)).isNone) = true ∧
      (((at0 ordered (.chain oH)).afterStores (.chain oH) r (fun v => List.getD v 0 0)).wave? r.c.wid).isSome = true ∧
      (((at0 ordered (.chain oH)).afterStores (.chain oH) r (fun v => List.getD v 0 0)).launch? 1).isSome = true) ∧
    ((go ordered (.chain oH)).launch? 1).any (fun l => (l.chain? (.mem 0x20000)).any (fun c => !l.chainBroken (.mem 0x20000) &&
      ((go ordered (.chain oH)).chainTurn 1 c).any (fun k => l.terminated.all (fun x => x.1 != k.wg) && k.wid == 0 &&
        ((go ordered (.chain oH)).wave? k.wid).isSome))) = true ∧
    Plain (go ordered (.chain oH)) 0x20000 4 :=
  ⟨issued (fun s r => r.ex ≠ 0 ∧ (∀ y ∈ s.addrs (.chain oH) r (fun v => List.getD v 0 0), y.2 = 0x20000) ∧
      (reached s (.chain oH) r accAtomic [0, 4] 4 (fun v => List.getD v 0 0)).1 = [] ∧
      (reached s (.chain oH) r accAtomic [0, 4] 4 (fun v => List.getD v 0 0)).2.head? = some (0, .mem 0x20000) ∧
      (s.launchOf r.w).any (fun x => !x.2.chainBroken (.mem 0x20000) && (x.2.chain? (.mem 0x20000)).isNone) = true ∧
      ((s.afterStores (.chain oH) r (fun v => List.getD v 0 0)).wave? r.c.wid).isSome = true ∧
      ((s.afterStores (.chain oH) r (fun v => List.getD v 0 0)).launch? 1).isSome = true) (by decide +kernel),
   by decide +kernel, by unfold Plain; decide +kernel⟩

/-! ### Witnesses: waits for memory, tiles, caches, copies -/

def oB : OpM := opM .b16 .relaxed .thread (10 * 64)
def oW : OpM := opM .b64 .acquire .system (d := 7) (sb := .reg 9)

/-- A wave that waits at WAITM for 0 to be 5 is not passed; v9 is 5 there. -/
def waiting : State := go (setAll mapped 9 5) (.waitm oW)

/-- A tile's version that is not yet reached. -/
def oV : OpM := opM .tile .acquire .gang (d := 7) (sb := .reg 9)
def tiled : State := setAll (setAll mapped 9 5) 4 0x21000

theorem witness_ReductionsAndMemoryWaits_redb :
    (∃ r, Issues (at0 mapped (.redb oB)) (.redb oB) r ∧ (at0 mapped (.redb oB)).isDet r.w = false ∧ r.ex ≠ 0 ∧
      (reached (at0 mapped (.redb oB)) (.redb oB) r accAtomic [0, 4] 2 (fun v => List.getD v 0 0)).1 = []) ∧
    (∃ w e, (go mapped (.redb oB)).wave? 0 = some w ∧ w.entry? 0 = some e ∧ e.ins = .redb oB ∧ w.frozen = false ∧ e.st ≠ .fault ∧
      e.exec.getLsbD 3 = true ∧ e.done.getLsbD 3 = false ∧ aget? e.loc 3 = some (.mem 0x20000)) ∧
    Plain (go mapped (.redb oB)) 0x20000 2 :=
  ⟨issued (fun s r => s.isDet r.w = false ∧ r.ex ≠ 0 ∧ (reached s (.redb oB) r accAtomic [0, 4] 2 (fun v => List.getD v 0 0)).1 = [])
     (by decide +kernel),
   entry_spec (fun w e => e.ins = .redb oB ∧ w.frozen = false ∧ e.st ≠ .fault ∧ e.exec.getLsbD 3 = true ∧ e.done.getLsbD 3 = false ∧
     aget? e.loc 3 = some (.mem 0x20000)) (by decide +kernel), by unfold Plain; decide +kernel⟩

/-- Fences of each kind; WAITM and VWAIT whose accesses pass their checks; a group that waits at each. -/
theorem witness_ReductionsAndMemoryWaits :
    (∀ o ∈ [opM .b8 .acqRel .thread 0 0 (.reg 0), opM .b8 .relaxed .system 1 0 (.reg 0)], ∃ r, Issues (at0 mapped (.fence o)) (.fence o) r ∧
      r.w.mitten.find? (fun e => fenceCovers o r.ex e && r.w.deliverable e) = none ∧
      ((((at0 mapped (.fence o)).releaseBy r.w o).acquireBy r.w o).wave? r.c.wid).isSome = true) ∧
    (∃ r, Issues (at0 (setAll mapped 9 5) (.waitm oW)) (.waitm oW) r ∧ r.ex ≠ 0 ∧
      (reached (at0 (setAll mapped 9 5) (.waitm oW)) (.waitm oW) r accLoad [0, 1, 2, 3, 4, 5] 8 (fun v => List.getD v 0 0)).1 = []) ∧
    (∃ r, Issues (at0 tiled (.vwait oV)) (.vwait oV) r ∧ r.ex ≠ 0 ∧
      ((at0 tiled (.vwait oV)).resolveAll r.w accLoad [0, 4] 4096 4096 ((at0 tiled (.vwait oV)).lowTile (.vwait oV) r)).1 = []) ∧
    ((go (setAll mapped 9 5) (.waitm oW)).waiters 0 0 isMemWait).any (fun x => x.1 == .waitm oW &&
      (go (setAll mapped 9 5) (.waitm oW)).memDue 0 x.2.2) = true ∧
    ((go tiled (.vwait oV)).waiters 0 0 isMemWait).any (fun x => x.1 == .vwait oV && (go tiled (.vwait oV)).memDue 0 x.2.2) = true ∧
    (∃ r, (at0 (setAll mapped 9 0) (.waitm oW)).run? (.waitm oW) = some r ∧ ((at0 (setAll mapped 9 0) (.waitm oW)).waitmTest oW r.w 3).isSome = true) := by
  refine ⟨?_, issued (fun s r => r.ex ≠ 0 ∧ (reached s (.waitm oW) r accLoad [0, 1, 2, 3, 4, 5] 8 (fun v => List.getD v 0 0)).1 = [])
      (by decide +kernel),
    issued (fun s r => r.ex ≠ 0 ∧ (s.resolveAll r.w accLoad [0, 4] 4096 4096 (s.lowTile (.vwait oV) r)).1 = []) (by decide +kernel),
    by decide +kernel, by decide +kernel, runs_spec (P := fun s r => (s.waitmTest oW r.w 3).isSome = true) (by decide +kernel)⟩
  intro o h
  simp only [List.mem_cons, List.not_mem_nil, or_false] at h
  rcases h with rfl | rfl <;> exact issued (fun s r => r.w.mitten.find? (fun e => fenceCovers _ r.ex e && r.w.deliverable e) = none ∧
    (((s.releaseBy r.w _).acquireBy r.w _).wave? r.c.wid).isSome = true) (by decide +kernel)

def oT : OpM := opM .tile .relaxed .thread (d := 32) (sb := .reg 50)

/-- PUBV and SNUFF at some scopes. -/
def versionOps : List (Instr × OpM) :=
  let a := opM .tile .release .workgroup 0 7
  let b := opM .tile .release .system 1 7
  let c := opM .tile .release .gang 0 7
  [(.pubv a, a), (.pubv b, b), (.snuff c, c)]

/-- The state in which a version operation acts. -/
def versionState (s : State) (i : Instr) (o : OpM) (r : Run) : Option State :=
  some (((s.touch r.w.ctx ((s.lowTile i r).map Prod.snd)).drainWave r.c.wid).releaseBy r.w o)

theorem witness_TilesAndVersions :
    (∃ r, Issues (at0 tiled (.stt oT)) (.stt oT) r ∧ wholeWave (.stt oT) r = true ∧ r.ex ≠ 0 ∧
      (at0 tiled (.stt oT)).resolveAll r.w accStore [0, 4] 4096 4096 [(r.low, (at0 tiled (.stt oT)).tileAddr (.stt oT) oT r)] =
        ([], [(0, .mem 0x21000)])) ∧
    (∃ r, Issues (at0 tiled (.ldt oT)) (.ldt oT) r ∧ wholeWave (.ldt oT) r = true ∧ r.ex ≠ 0 ∧
      (at0 tiled (.ldt oT)).resolveAll r.w accLoad [0, 4] 4096 4096 [(r.low, (at0 tiled (.ldt oT)).tileAddr (.ldt oT) oT r)] =
        ([], [(0, .mem 0x21000)])) ∧
    (∀ x ∈ versionOps, ∃ r, Issues (at0 tiled x.1) x.1 r ∧ r.ex ≠ 0 ∧
      (at0 tiled x.1).resolveAll r.w accAtomic [0, 4] 4096 4096 ((at0 tiled x.1).lowTile x.1 r) = ([], [(0, .mem 0x21000)]) ∧
      (versionState (at0 tiled x.1) x.1 x.2 r).any (fun s => (s.wave? r.c.wid).isSome && !s.badLoc (.mem 0x21000) 4096 &&
        s.watchesOn (0x21000 / 4096) == []) = true) := by
  refine ⟨issued (fun s r => wholeWave _ r = true ∧ r.ex ≠ 0 ∧ s.resolveAll r.w accStore [0, 4] 4096 4096 [(r.low, s.tileAddr _ oT r)] =
      ([], [(0, .mem 0x21000)])) (by decide +kernel),
    issued (fun s r => wholeWave _ r = true ∧ r.ex ≠ 0 ∧ s.resolveAll r.w accLoad [0, 4] 4096 4096 [(r.low, s.tileAddr _ oT r)] =
      ([], [(0, .mem 0x21000)])) (by decide +kernel), ?_⟩
  intro x h
  simp only [versionOps, List.mem_cons, List.not_mem_nil, or_false] at h
  rcases h with rfl | rfl | rfl <;> exact issued (fun s r => r.ex ≠ 0 ∧
    s.resolveAll r.w accAtomic [0, 4] 4096 4096 (s.lowTile _ r) = ([], [(0, .mem 0x21000)]) ∧
    (versionState s _ _ r).any (fun s => (s.wave? r.c.wid).isSome && !s.badLoc (.mem 0x21000) 4096 &&
      s.watchesOn (0x21000 / 4096) == []) = true) (by decide +kernel)

/-- Each operation of CCTL; ICINV of a range and of everything; VQDEC and QNT of each type. -/
theorem witness_CachesAndCodebooks :
    (∀ o ∈ [opM .b8 .relaxed .thread 0 0, opM .b8 .relaxed .thread 64 0, opM .b8 .relaxed .thread 128 0, opM .b8 .relaxed .thread 192 0],
      ∃ r, Issues (at0 mapped (.cctl o)) (.cctl o) r ∧ r.ex ≠ 0 ∧
        (reached (at0 mapped (.cctl o)) (.cctl o) r accLoad [0, 4, 5] 1 (fun v => List.getD v 0 0)).1 = []) ∧
    (∀ s ∈ [setAll mapped 9 64, setAll mapped 9 0x100001], ∃ r, Issues (at0 s (.icinv (opM .b8 (d := 0) (sb := .reg 9))))
      (.icinv (opM .b8 (d := 0) (sb := .reg 9))) r ∧ r.ex ≠ 0 ∧
      spaceOf (((at0 s (.icinv (opM .b8 (d := 0) (sb := .reg 9)))).srcVals r.w (.icinv (opM .b8 (d := 0) (sb := .reg 9))) r.low).getD 0 0) = 0) ∧
    (∀ o ∈ [opA .f16x4 7 (sc := .reg 9), opA .bf16x4 0 (sc := .reg 9)], ∃ r, Issues (at0 mapped (.vqdec o)) (.vqdec o) r ∧ r.ex ≠ 0 ∧
      (reached (at0 mapped (.vqdec o)) (.vqdec o) r accLoad [0, 1, 2, 4] 1024 (fun v => v.getD 1 0)).1 = [] ∧
      r.w.fflags.extractLsb' 8 6 = 0) ∧
    (∀ o ∈ [opA .f32x2 3 (sa := .reg 12) (sc := .reg 9), opA .bf16x4 0 (sa := .reg 12) (sc := .reg 9)], ∃ r, Issues (at0 mapped (.qnt o)) (.qnt o) r ∧
      r.ex ≠ 0 ∧ (reached (at0 mapped (.qnt o)) (.qnt o) r accLoad [0, 1, 2, 4] 1024 (fun v => v.getD 0 0)).1 = [] ∧
      r.w.fflags.extractLsb' 8 6 = 0) := by
  refine ⟨?_, ?_, ?_, ?_⟩ <;> intro o h <;> simp only [List.mem_cons, List.not_mem_nil, or_false] at h
  · rcases h with rfl | rfl | rfl | rfl <;> exact issued (fun s r => r.ex ≠ 0 ∧
      (reached s _ r accLoad [0, 4, 5] 1 (fun v => List.getD v 0 0)).1 = []) (by decide +kernel)
  · rcases h with rfl | rfl <;> exact issued (fun s r => r.ex ≠ 0 ∧ spaceOf ((s.srcVals r.w _ r.low).getD 0 0) = 0) (by decide +kernel)
  · rcases h with rfl | rfl <;> exact issued (fun s r => r.ex ≠ 0 ∧ (reached s _ r accLoad [0, 1, 2, 4] 1024 (fun v => v.getD 1 0)).1 = [] ∧
      r.w.fflags.extractLsb' 8 6 = 0) (by decide +kernel)
  · rcases h with rfl | rfl <;> exact issued (fun s r => r.ex ≠ 0 ∧ (reached s _ r accLoad [0, 1, 2, 4] 1024 (fun v => v.getD 0 0)).1 = [] ∧
      r.w.fflags.extractLsb' 8 6 = 0) (by decide +kernel)

/-- v2 a source, v3 a destination, v4 a size or list. -/
def copying (a b c : Word) : State := setAll (setAll (setAll wide 2 a) 3 b) 4 c

def xCpy : OpX := opX (1 <<< 63) (d := 1) (sa := .reg 2) (sb := .reg 3) (sc := .reg 4)
def xCpyPlain : OpX := opX 0 (d := 1) (sa := .reg 2) (sb := .reg 3) (sc := .reg 4)
def xCpym : OpX := opX 1 (d := 1) (sa := .reg 2) (sb := .reg 3) (sc := .reg 4)
def xCpyg : OpX := opX (8 <<< 48) (d := 1) (sa := .reg 2) (sb := .reg 3) (sc := .reg 4)
def xCpyz : OpX := opX (1 <<< 48) (d := 1) (sa := .reg 2) (sb := .reg 3) (sc := .reg 4)
def xKv : OpX := opX (2 <<< 43) (d := 1) (sa := .reg 2) (sb := .reg 3) (sc := .reg 4)

/-- A CPY whose ends both lie in space 0x4, and one of no bytes. -/
theorem witness_Copies_cpy :
    ∀ s ∈ [copying 0x20000 0x30010 32, copying 0x4000000000020000 0x4000000000030000 64, copying 0x20000 0x30000 0],
      ∃ r, Issues (at0 s (.cpy xCpy)) (.cpy xCpy) r ∧ r.ex ≠ 0 ∧
        (let v := fun k => ((at0 s (.cpy xCpy)).srcVals r.w (.cpy xCpy) r.low).getD k 0
         Points (at0 s (.cpy xCpy)) r accCopyFrom fromSpaces ((v 2).toNat % 2 ^ 40) 16 (v 0) ∧
         Points (at0 s (.cpy xCpy)) r accCopyTo toSpaces ((v 2).toNat % 2 ^ 40) 16 (v 1) ∧ (v 2).toNat % 2 ^ 40 % 16 = 0 ∧
         FourAligned (v 0) (v 1) ((v 2).toNat % 2 ^ 40)) := by
  intro s h
  simp only [List.mem_cons, List.not_mem_nil, or_false] at h
  rcases h with rfl | rfl | rfl <;> exact issued (fun s r => r.ex ≠ 0 ∧
    (let v := fun k => (s.srcVals r.w (.cpy xCpy) r.low).getD k 0
     s.ptrFault r.w accCopyFrom fromSpaces ((v 2).toNat % 2 ^ 40) 16 (v 0) = [] ∧
     s.ptrFault r.w accCopyTo toSpaces ((v 2).toNat % 2 ^ 40) 16 (v 1) = [] ∧ (v 2).toNat % 2 ^ 40 % 16 = 0 ∧
     (spaceOf (v 0) = 4 → spaceOf (v 1) = 4 → (v 0).toNat % 64 = 0 ∧ (v 1).toNat % 64 = 0 ∧ (v 2).toNat % 2 ^ 40 % 64 = 0))) (by decide +kernel)

/-- CPYM to one member's scratchpad. -/
theorem witness_Copies_cpym : ∃ r, Issues (at0 (copying 0x20000 0x2000000000000000 32) (.cpym xCpym)) (.cpym xCpym) r ∧ r.ex ≠ 0 ∧
    (let s := at0 (copying 0x20000 0x2000000000000000 32) (.cpym xCpym)
     let v := fun k => (s.srcVals r.w (.cpym xCpym) r.low).getD k 0
     Points s r accCopyFrom fromSpaces ((v 2).toNat % 2 ^ 40) 16 (v 0) ∧ spaceOf (v 1) = 2 ∧ (v 1).toNat % 16 = 0 ∧
     (∀ m ∈ cpymMembers xCpym, Points s r accCopyTo [2] ((v 2).toNat % 2 ^ 40) 16 (withMember (v 1) m)) ∧ (v 2).toNat % 2 ^ 40 % 16 = 0) :=
  issued (fun s r => r.ex ≠ 0 ∧
    (let v := fun k => (s.srcVals r.w (.cpym xCpym) r.low).getD k 0
     s.ptrFault r.w accCopyFrom fromSpaces ((v 2).toNat % 2 ^ 40) 16 (v 0) = [] ∧ spaceOf (v 1) = 2 ∧ (v 1).toNat % 16 = 0 ∧
     (∀ m ∈ cpymMembers xCpym, s.ptrFault r.w accCopyTo [2] ((v 2).toNat % 2 ^ 40) 16 (withMember (v 1) m) = []) ∧
     (v 2).toNat % 2 ^ 40 % 16 = 0)) (by decide +kernel)

/-- CPYG, CPYZ both ways, KVCMT, and WIPE. -/
theorem witness_Copies_others :
    (∃ r, Issues (at0 (copying 0x20000 0x30000 0x40000) (.cpyg xCpyg)) (.cpyg xCpyg) r ∧ r.ex ≠ 0 ∧
      (let s := at0 (copying 0x20000 0x30000 0x40000) (.cpyg xCpyg)
       let v := fun k => (s.srcVals r.w (.cpyg xCpyg) r.low).getD k 0
       Points s r accCopyFrom fromSpaces 0 16 (v 0) ∧ Points s r accCopyTo toSpaces 0 16 (v 1) ∧ Points s r accCopyFrom listSpaces 0 16 (v 2) ∧
       FourAligned (v 0) (v 1) (elemSize xCpyg))) ∧
    (∃ r, Issues (at0 (copying 0x20000 0x5000000000030000 1) (.cpyz xCpy)) (.cpyz xCpy) r ∧ r.ex ≠ 0 ∧
      (let s := at0 (copying 0x20000 0x5000000000030000 1) (.cpyz xCpy)
       let v := fun k => (s.srcVals r.w (.cpyz xCpy) r.low).getD k 0
       field xCpy.w1 48 48 = 0 ∧ Points s r accCopyFrom toSpaces 4096 16 (v 0) ∧ Points s r accCopyTo [5] 4096 4096 (v 1))) ∧
    (∃ r, Issues (at0 (copying 0x5000000000030000 0x20000 1) (.cpyz xCpyz)) (.cpyz xCpyz) r ∧ r.ex ≠ 0 ∧
      (let s := at0 (copying 0x5000000000030000 0x20000 1) (.cpyz xCpyz)
       let v := fun k => (s.srcVals r.w (.cpyz xCpyz) r.low).getD k 0
       field xCpyz.w1 48 48 = 1 ∧ Points s r accCopyFrom [5] 4096 4096 (v 0) ∧ Points s r accCopyTo toSpaces 4096 16 (v 1))) ∧
    (∃ r, Issues (at0 (copying 0x20000 0x30000 0x40000) (.kvcmt xKv)) (.kvcmt xKv) r ∧ r.ex ≠ 0 ∧
      (let s := at0 (copying 0x20000 0x30000 0x40000) (.kvcmt xKv)
       let v := fun k => (s.srcVals r.w (.kvcmt xKv) r.low).getD k 0
       Points s r accCopyFrom fromSpaces 0 16 (v 0) ∧ Points s r accCopyFrom listSpaces 0 16 (v 1) ∧ Points s r accCopyFrom listSpaces 0 16 (v 2))) ∧
    (∃ r, Issues (at0 (copying 0x20000 128 0) (.wipe (opA .i64 13))) (.wipe (opA .i64 13)) r ∧ r.ex ≠ 0 ∧
      (let s := at0 (copying 0x20000 128 0) (.wipe (opA .i64 13))
       let v := fun k => (s.srcVals r.w (.wipe (opA .i64 13)) r.low).getD k 0
       Points s r accCopyTo [0, 4, 15] ((v 1).toNat % 2 ^ 48) 64 (v 0) ∧ (v 1).toNat % 2 ^ 48 % 64 = 0)) :=
  ⟨issued (fun s r => r.ex ≠ 0 ∧ (let v := fun k => (s.srcVals r.w (.cpyg xCpyg) r.low).getD k 0
     s.ptrFault r.w accCopyFrom fromSpaces 0 16 (v 0) = [] ∧ s.ptrFault r.w accCopyTo toSpaces 0 16 (v 1) = [] ∧
     s.ptrFault r.w accCopyFrom listSpaces 0 16 (v 2) = [] ∧
     (spaceOf (v 0) = 4 → spaceOf (v 1) = 4 → (v 0).toNat % 64 = 0 ∧ (v 1).toNat % 64 = 0 ∧ elemSize xCpyg % 64 = 0))) (by decide +kernel),
   issued (fun s r => r.ex ≠ 0 ∧ (let v := fun k => (s.srcVals r.w (.cpyz xCpy) r.low).getD k 0
     field xCpy.w1 48 48 = 0 ∧ s.ptrFault r.w accCopyFrom toSpaces 4096 16 (v 0) = [] ∧ s.ptrFault r.w accCopyTo [5] 4096 4096 (v 1) = []))
     (by decide +kernel),
   issued (fun s r => r.ex ≠ 0 ∧ (let v := fun k => (s.srcVals r.w (.cpyz xCpyz) r.low).getD k 0
     field xCpyz.w1 48 48 = 1 ∧ s.ptrFault r.w accCopyFrom [5] 4096 4096 (v 0) = [] ∧ s.ptrFault r.w accCopyTo toSpaces 4096 16 (v 1) = []))
     (by decide +kernel),
   issued (fun s r => r.ex ≠ 0 ∧ (let v := fun k => (s.srcVals r.w (.kvcmt xKv) r.low).getD k 0
     s.ptrFault r.w accCopyFrom fromSpaces 0 16 (v 0) = [] ∧ s.ptrFault r.w accCopyFrom listSpaces 0 16 (v 1) = [] ∧
     s.ptrFault r.w accCopyFrom listSpaces 0 16 (v 2) = [])) (by decide +kernel),
   issued (fun s r => r.ex ≠ 0 ∧ (let v := fun k => (s.srcVals r.w (.wipe (opA .i64 13)) r.low).getD k 0
     s.ptrFault r.w accCopyTo [0, 4, 15] ((v 1).toNat % 2 ^ 48) 64 (v 0) = [] ∧ (v 1).toNat % 2 ^ 48 % 64 = 0)) (by decide +kernel)⟩

/-- A copy of 16 bytes in flight, whose completion ends well; its promise (whose due count the spec leaves open) with
due count 1. -/
def copied : State :=
  setAll (modW (go (copying 0x20000 0x30000 16) (.cpy xCpyPlain)) (fun w =>
    { w with regs := (((copying 0x20000 0x30000 16).wave? 0).map (·.regs)).getD [], tags := []
             mitten := w.mitten.map (fun e => { e with addr := 1 }) })) 1 1

theorem witness_Copies_complete : ∃ w e, copied.wave? 0 = some w ∧ w.entry? 0 = some e ∧ (e.seq = 0 ∧ copied.farBusy w e = false) ∧
    w.frozen = false ∧ e.isCopy = true ∧ e.st ≠ .fault ∧ e.ins = .cpy xCpyPlain ∧
    (∃ v, e.vals = [v] ∧ v.2.drop 1 = [0x20000, 0x30000, 16]) ∧
    (copied.heardFrom w e).resolve w accCopyFrom fromSpaces 16 1 0x20000 900 = .ok (.mem 0x20000) ∧
    (copied.heardFrom w e).resolve w accCopyTo toSpaces 16 1 0x30000 0 = .ok (.mem 0x30000) ∧ Plain (copied.heardFrom w e) 0x20000 16 ∧ Plain (copied.heardFrom w e) 0x30000 16 ∧
    ((copied.heardFrom w e).runCopy w e).1.2 = none ∧ (((copied.heardFrom w e).runCopy w e).1.1.wave? 0).isSome = true := by
  have isMem : ∀ (x : Except Flt Loc) (pa : Nat), (match x with | .ok l => l == .mem pa | .error _ => false) = true → x = .ok (.mem pa) := by
    intro x pa h
    cases x <;> simp_all
  obtain ⟨w, e, hw, he, z, a, b, c, d, f, g, h, p, q, i, j⟩ := entry_spec (s := copied) (wid := 0) (seq := 0) (fun w e => (e.seq = 0 ∧ copied.farBusy w e = false) ∧ w.frozen = false ∧ e.isCopy = true ∧
    e.st ≠ .fault ∧ e.ins = .cpy xCpyPlain ∧ e.vals.map (fun v => v.2.drop 1) = [[0x20000, 0x30000, 16]] ∧
    (match (copied.heardFrom w e).resolve w accCopyFrom fromSpaces 16 1 0x20000 900 with | .ok l => l == .mem 0x20000 | .error _ => false) = true ∧
    (match (copied.heardFrom w e).resolve w accCopyTo toSpaces 16 1 0x30000 0 with | .ok l => l == .mem 0x30000 | .error _ => false) = true ∧
    (0x20000 % 65536 + 16 ≤ 65536 ∧ (copied.heardFrom w e).badPa 0x20000 16 = false) ∧
    (0x30000 % 65536 + 16 ≤ 65536 ∧ (copied.heardFrom w e).badPa 0x30000 16 = false) ∧
    ((copied.heardFrom w e).runCopy w e).1.2 = none ∧ (((copied.heardFrom w e).runCopy w e).1.1.wave? 0).isSome = true) (by decide +kernel)
  refine ⟨w, e, hw, he, z, a, b, c, d, ?_, isMem _ _ g, isMem _ _ h, p, q, i, j⟩
  obtain ⟨v, hv, hx⟩ := List.map_eq_singleton_iff.mp f
  exact ⟨v, hv, hx⟩

/-- A copy whose source has gone bad ends with the cause it met; and a fault may come to a copy in flight. -/
def spoilt : State := { copied with bad := [0x20000 / 64] }

theorem witness_Copies_fails : ends spoilt (fun w e => w.frozen = false ∧ spoilt.farBusy w e = false ∧ e.isCopy = true ∧ e.st ≠ .fault ∧
    ((spoilt.heardFrom w e).runCopy w e).1.2.isSome = true ∧ (((spoilt.heardFrom w e).runCopy w e).1.1.wave? 0).any (fun v => v.live != 0) = true) :=
  ends_spec _ (by decide +kernel)

theorem witness_PendingAccesses_copy : ends copied (fun w e => e.ins = .cpy xCpyPlain ∧ 1#32 &&& copied.faultable w e ≠ 0 ∧
    copied.returns w e = true ∧ w.live ≠ 0 ∧ e.inFifo = false) := ends_spec _ (by decide +kernel)

/-- WAITP of a promise that names no copy; and of one that names a copy whose due count has passed. -/
def oP : OpC := opC (sa := .reg 1)

/-- The copy long past that due count, and a wave with a handler. -/
def late : State :=
  let s := modW copied (fun w => { w with trapbase := 0x10200 })
  { (at0 s (.waitp oP)) with dev := { s.dev with clk := 100000 }, cur := none }

/-- The same copy with a fault. -/
def faulted : State := modW late (fun w => { w with mitten := w.mitten.map (fun e => { e with st := .fault, orig := 0x16 }) })

theorem witness_Promises :
    (∃ r, Issues (at0 mapped (.waitp oP)) (.waitp oP) r ∧ r.ex ≠ 0 ∧ (at0 mapped (.waitp oP)).waitpCopy oP r = none) ∧
    (∃ r, Issues (at0 faulted (.waitp oP)) (.waitp oP) r ∧ Catches r.w ∧
      ∃ e, (at0 faulted (.waitp oP)).waitpCopy oP r = some e ∧ e.st = .fault) ∧
    (late.standers 0 0).any (fun x => x.1 == .waitp oP && !x.2.1.commonWait (.waitp oP) x.2.2 && !x.2.2.w.trap.inHandler &&
      x.2.2.w.trapbase != 0 && (x.2.1.waitpCopy oP x.2.2).any (fun e => e.st != .fault && !x.2.1.waitsHard oP x.2.2.w e &&
        x.2.1.duePassed (x.2.1.promiseOf oP x.2.2))) = true := by
  refine ⟨issued (fun s r => r.ex ≠ 0 ∧ s.waitpCopy oP r = none) (by decide +kernel), ?_, by decide +kernel⟩
  obtain ⟨r, hr, a, b, c⟩ := issued (s := faulted) (i := .waitp oP) (fun s r => r.w.trap.inHandler = false ∧ r.w.trapbase ≠ 0 ∧
    (s.waitpCopy oP r).any (fun e => decide (e.st = .fault)) = true) (by decide +kernel)
  exact ⟨r, hr, ⟨a, b⟩, some_spec c⟩

/-! ### Witnesses: the matrix engine -/

/-- v6 points to mapped memory, v7 to the scratchpad; v3 is a count or an index; v8 to v15 are A's group; an OPFENCE has
followed. -/
def matrixed : State :=
  modW (setAll (setAll (setAll wide 6 0x20000) 7 0x1000000000000000) 3 1) (fun w => { w with fenced := w.regs })

def matrixInstrs : List (Instr × OpX) :=
  let a := opX (mmw 1 1) (sa := .reg 8) (sb := .reg 6)
  let b := opX (mmw 1 1 (asrc := 2) (k := 15)) (sa := .reg 7) (sb := .reg 6) (sc := .reg 3)
  let c := opX (mmw 0x0B 0x0B (ia := 1)) (sa := .reg 8) (sb := .reg 7) (sc := .reg 3)
  let d := opX (mmw 0x13 0x13) (sa := .reg 8) (sb := .reg 6)
  [(.mma a, a), (.mmag b, b), (.mmar c, c), (.mperm d, d)]

theorem witness_MatrixRounds : ∀ x ∈ matrixInstrs,
    (x.1 = .mma x.2 ∨ x.1 = .mmag x.2 ∨ x.1 = .mmar x.2 ∨ x.1 = .mperm x.2) ∧
    ∃ r, Issues (at0 matrixed x.1) x.1 r ∧ r.ex ≠ 0 ∧ r.w.wg = 3 ∧
      ((at0 matrixed x.1).wg? 3).any (fun g => !roundConflict (convOf g (mmKreg x.2.w1)) r) = true := by
  have h : matrixInstrs.all (fun x => (x.1 == .mma x.2 || x.1 == .mmag x.2 || x.1 == .mmar x.2 || x.1 == .mperm x.2) &&
    issues matrixed x.1 (fun s r => decide (r.ex ≠ 0 ∧ r.w.wg = 3 ∧
      (s.wg? 3).any (fun g => !roundConflict (convOf g (mmKreg x.2.w1)) r) = true))) = true := by decide +kernel
  intro x hx
  have hh := List.all_eq_true.mp h x hx
  simp only [Bool.and_eq_true, Bool.or_eq_true, beq_iff_eq] at hh
  refine ⟨?_, issued (fun s r => r.ex ≠ 0 ∧ r.w.wg = 3 ∧ (s.wg? 3).any (fun g => !roundConflict (convOf g (mmKreg x.2.w1)) r) = true) hh.2⟩
  rcases hh.1 with ((a | a) | a) | a <;> simp [a]

/-- Each operation's round is full once the wave's threads stand at it, and its operands have no faults. -/
theorem witness_MatrixRounds_issue : matrixInstrs.all (fun x =>
    let s := go matrixed x.1
    let k := mmKreg x.2.w1
    (s.wg? 3).any (fun g => let c := convOf g k
      c.isOpen && c.wave == 0 && s.roundFull c 3 && (s.wave? 0).any (fun v =>
        (List.range 32).find? (fun l => (v.thread l).wait == .conv k && !(v.thread l).exited) == some 0) &&
      (s.waiters 0 0 (· == .conv k)).any (fun y => y.1 == x.1 && !y.2.1.commonWait y.1 y.2.2 && (y.2.1.issueCheck y.1 y.2.2).isNone &&
        (y.2.1.issueParts y.2.2.w y.1 x.2).1.all (fun p => p.faults.isEmpty)))) = true := by decide +kernel

/-- The accumulator's instructions, with their smallest tile and their largest. -/
def accInstrs : List (Instr × OpX) :=
  let a := opX (mmw 1 0 (m := 2)) (sa := .reg 8)
  let b := opX (mmw 0x0B 0 (m := 4) (ia := 1)) (d := 8)
  let c := opX (mmw 0 0 (m := 7) (n := 4))
  let d := opX (mmw 0 0 (m := 1)) (sa := .reg 8) (sb := .reg 9)
  [(.acld a, a), (.acst b, b), (.acz c, c), (.maskt d, d)]

theorem witness_Accumulators : accInstrs.all (fun x => issues matrixed x.1 (fun _ r => r.ex != 0) &&
    (let s := go matrixed x.1
     (s.wave? 0).any (fun w => !w.frozen && w.uncommitted.head?.any (fun e => e.ins == x.1 && fieldsOk e.ins)))) = true := by
  decide +kernel

/-- A matrix operation in flight, with its operands as they were. -/
theorem witness_MatrixCommitsAndWaits : (matrixInstrs.drop 3).all (fun x =>
    let s := ev (go matrixed x.1) (.convergenceRoundIssue 3 (mmKreg x.2.w1))
    (s.wave? 0).any (fun w => !w.frozen && !w.latchA.valid && !w.latchB.valid && w.uncommitted.head?.any (fun e => e.ins == x.1 && fieldsOk e.ins &&
      e.snap != [] && (let p := s.matParts w e.ins x.2 e.snap[0]?
        e.snap == p.map (·.words) && p.all (fun y => !y.bad))))) = true := by decide +kernel

/-- OPFENCE with nothing uncommitted; MWAIT for nothing, and for an operation that owes flags. -/
theorem witness_MatrixCommitsAndWaits_waits :
    (∃ r, Issues (at0 matrixed (.opfence (opX 0))) (.opfence (opX 0)) r ∧ r.ex ≠ 0) ∧
    (∀ m ∈ [(0 : BitVec 4), 15], ∃ r, Issues (at0 matrixed (.mwait (opX 0 (mod := m)))) (.mwait (opX 0 (mod := m))) r ∧ r.ex ≠ 0 ∧
      (∀ e ∈ r.w.mitten, isEngine e.ins = true → e.engNum + m.toNat < r.w.engines → e.st ≠ .fault) ∧
      ∀ x ∈ r.w.owed, x.num + m.toNat < r.w.engines → r.w.trapping x.flags = 0) ∧
    (let s := modW matrixed (fun w => { w with engines := 1, owed := [⟨0, 0, 0, 0, 0xF, 0x3F, true⟩] })
     ∃ r, Issues (at0 s (.mwait (opX 0))) (.mwait (opX 0)) r ∧ r.w.owed ≠ [] ∧
      (∀ e ∈ r.w.mitten, isEngine e.ins = true → e.engNum + 0 < r.w.engines → e.st ≠ .fault) ∧
      ∀ x ∈ r.w.owed, x.num + 0 < r.w.engines → r.w.trapping x.flags = 0) := by
  refine ⟨issued (fun _ r => r.ex ≠ 0) (by decide +kernel), ?_, issued (fun _ r => r.w.owed ≠ [] ∧
      (∀ e ∈ r.w.mitten, isEngine e.ins = true → e.engNum + 0 < r.w.engines → e.st ≠ .fault) ∧
      ∀ x ∈ r.w.owed, x.num + 0 < r.w.engines → r.w.trapping x.flags = 0) (by decide +kernel)⟩
  intro m h
  simp only [List.mem_cons, List.not_mem_nil, or_false] at h
  rcases h with rfl | rfl <;> exact issued (fun _ r => r.ex ≠ 0 ∧
      (∀ e ∈ r.w.mitten, isEngine e.ins = true → e.engNum + _ < r.w.engines → e.st ≠ .fault) ∧
      ∀ x ∈ r.w.owed, x.num + _ < r.w.engines → r.w.trapping x.flags = 0) (by decide +kernel)

/-! ### Witnesses: control -/

/-- v8 points to the first instruction; the function table of the object has one entry, of type 0x1234, at its base + 0x200. -/
def linked : State :=
  let s := setAll (fields wide 0x10200 [(0, 8, 0x10138), (8, 4, 0x1234), (12, 4, 1)]) 8 0x10138
  s.modLaunch 1 (fun l => { l with obj := { l.obj with ftablen := 1, ftaboff := 0x200 } })

theorem witness_TransfersOfControl :
    (∀ o ∈ [opC (tgt := 0), opC (tgt := -3)], ∃ r, Issues (at0 linked (.bra o)) (.bra o) r ∧ r.ex ≠ 0 ∧
      (at0 linked (.bra o)).otherRate r.w (pcPlus r.c.pc o.tgt) r.w.rate = false) ∧
    (∀ o ∈ [opC (sa := .reg 8), opC (sa := .reg 8) (tgt := 5)], ∃ r, Issues (at0 linked (.brx o)) (.brx o) r ∧ r.ex ≠ 0 ∧
      ∀ l, r.ex.getLsbD l = true → spaceOf (operand (at0 linked (.brx o)) r (.brx o) l 0) = 0 ∧
        (operand (at0 linked (.brx o)) r (.brx o) l 0).toNat % 8 = 0 ∧
        (at0 linked (.brx o)).otherRate r.w (addrAdd (operand (at0 linked (.brx o)) r (.brx o) l 0) (o.tgt.signExtend 64 * 8)) r.w.rate = false) ∧
    (∃ r, Issues (at0 linked (.ret (opC (sa := .reg 8)))) (.ret (opC (sa := .reg 8))) r ∧ r.ex ≠ 0 ∧
      ∀ l, r.ex.getLsbD l = true → spaceOf (operand (at0 linked (.ret (opC (sa := .reg 8)))) r (.ret (opC (sa := .reg 8))) l 0) = 0 ∧
        (operand (at0 linked (.ret (opC (sa := .reg 8)))) r (.ret (opC (sa := .reg 8))) l 0).toNat % 8 = 0 ∧
        (at0 linked (.ret (opC (sa := .reg 8)))).otherRate r.w (operand (at0 linked (.ret (opC (sa := .reg 8)))) r (.ret (opC (sa := .reg 8))) l 0)
          r.w.rate = false) ∧
    (∃ r, Issues (at0 linked (.call (opC (d := 62) (tgt := 7)))) (.call (opC (d := 62) (tgt := 7))) r ∧ r.ex ≠ 0 ∧
      (at0 linked (.call (opC (d := 62) (tgt := 7)))).otherRate r.w (pcPlus r.c.pc 7) r.w.rate = false) := by
  refine ⟨?_, ?_, ?_, issued (fun s r => r.ex ≠ 0 ∧ s.otherRate r.w (pcPlus r.c.pc 7) r.w.rate = false) (by decide +kernel)⟩
  · intro o h
    simp only [List.mem_cons, List.not_mem_nil, or_false] at h
    rcases h with rfl | rfl <;> exact issued (fun s r => r.ex ≠ 0 ∧ s.otherRate r.w (pcPlus r.c.pc _) r.w.rate = false) (by decide +kernel)
  · intro o h
    simp only [List.mem_cons, List.not_mem_nil, or_false] at h
    rcases h with rfl | rfl
    · obtain ⟨r, hr, a, b⟩ := issued (s := linked) (i := .brx (opC (sa := .reg 8))) (fun s r => r.ex ≠ 0 ∧ (List.range 32).all (fun l => !r.ex.getLsbD l ||
        decide (spaceOf (operand s r (.brx (opC (sa := .reg 8))) l 0) = 0 ∧ (operand s r (.brx (opC (sa := .reg 8))) l 0).toNat % 8 = 0 ∧
          s.otherRate r.w (addrAdd (operand s r (.brx (opC (sa := .reg 8))) l 0) ((opC (sa := .reg 8)).tgt.signExtend 64 * 8)) r.w.rate = false)) = true)
        (by decide +kernel)
      exact ⟨r, hr, a, lanes_all b⟩
    · obtain ⟨r, hr, a, b⟩ := issued (s := linked) (i := .brx (opC (sa := .reg 8) (tgt := 5))) (fun s r => r.ex ≠ 0 ∧ (List.range 32).all (fun l =>
        !r.ex.getLsbD l || decide (spaceOf (operand s r (.brx (opC (sa := .reg 8) (tgt := 5))) l 0) = 0 ∧
          (operand s r (.brx (opC (sa := .reg 8) (tgt := 5))) l 0).toNat % 8 = 0 ∧ s.otherRate r.w (addrAdd
            (operand s r (.brx (opC (sa := .reg 8) (tgt := 5))) l 0) ((opC (sa := .reg 8) (tgt := 5)).tgt.signExtend 64 * 8)) r.w.rate = false)) = true)
        (by decide +kernel)
      exact ⟨r, hr, a, lanes_all b⟩
  · obtain ⟨r, hr, a, b⟩ := issued (s := linked) (i := .ret (opC (sa := .reg 8))) (fun s r => r.ex ≠ 0 ∧ (List.range 32).all (fun l => !r.ex.getLsbD l ||
      decide (spaceOf (operand s r (.ret (opC (sa := .reg 8))) l 0) = 0 ∧ (operand s r (.ret (opC (sa := .reg 8))) l 0).toNat % 8 = 0 ∧
        s.otherRate r.w (operand s r (.ret (opC (sa := .reg 8))) l 0) r.w.rate = false)) = true) (by decide +kernel)
    exact ⟨r, hr, a, lanes_all b⟩

/-- CALLT through the table's only entry; EXIT of a compute wave and of an access wave; YIELD. -/
theorem witness_TransfersOfControl_others :
    (∃ r, Issues (at0 linked (.callt (opC (d := 62) (tgt := 0x1234)))) (.callt (opC (d := 62) (tgt := 0x1234))) r ∧ r.ex ≠ 0 ∧
      ∀ l, r.ex.getLsbD l = true → (match (at0 linked (.callt (opC (d := 62) (tgt := 0x1234)))).calltEntry r.w (opC (d := 62) (tgt := 0x1234)) (operand
        (at0 linked (.callt (opC (d := 62) (tgt := 0x1234)))) r (.callt (opC (d := 62) (tgt := 0x1234))) l 0) l with
        | .ok a => a == 0x10138 | .error _ => false) = true) ∧
    (∀ s ∈ [linked, modW linked (fun w => { w with kind := .access })], ∃ r, Issues (at0 s (.exit (opC))) (.exit (opC)) r ∧ r.ex ≠ 0 ∧
      (∀ e ∈ r.w.mitten, e.st ≠ .fault) ∧ r.w.trap.inHandler = false ∧ (r.w.kind = .access ∨ (r.w.kind = .compute ∧ r.w.rate ≠ 4))) ∧
    (∃ r, Issues (at0 linked (.yield (opC))) (.yield (opC)) r ∧ r.ex ≠ 0) := by
  refine ⟨?_, ?_, issued (fun _ r => r.ex ≠ 0) (by decide +kernel)⟩
  · obtain ⟨r, hr, a, b⟩ := issued (s := linked) (i := .callt (opC (d := 62) (tgt := 0x1234))) (fun s r => r.ex ≠ 0 ∧
      (List.range 32).all (fun l => !r.ex.getLsbD l || decide ((match s.calltEntry r.w (opC (d := 62) (tgt := 0x1234))
        (operand s r (.callt (opC (d := 62) (tgt := 0x1234))) l 0) l with | .ok a => a == 0x10138 | .error _ => false) = true)) = true) (by decide +kernel)
    exact ⟨r, hr, a, lanes_all b⟩
  · intro s h
    simp only [List.mem_cons, List.not_mem_nil, or_false] at h
    rcases h with rfl | rfl <;> exact issued (fun _ r => r.ex ≠ 0 ∧ (∀ e ∈ r.w.mitten, e.st ≠ .fault) ∧ r.w.trap.inHandler = false ∧
      (r.w.kind = .access ∨ (r.w.kind = .compute ∧ r.w.rate ≠ 4))) (by decide +kernel)

/-- v5 names the four threads; a JOIN lies three words on. -/
def joining : State := (setAll wide 5 0xF).writePa 0x10118 (encodeBytes (.join (opC (d := 5))))

/-- Two threads wait at each of two JOINs for all four. -/
def stuck : State := modW joining (fun w =>
  { w with joins := [{ pc := 0x10100, arrived := 3, isOpen := true }, { pc := 0x10118, arrived := 12, isOpen := true }]
           threads := w.threads.mapIdx (fun l t => if l < 4 then { t with wait := .join 5, pc := if l < 2 then 0x10100 else 0x10118 } else t) })

theorem witness_JoinsAndConvergence :
    (∃ r, Issues (at0 joining (.join (opC (d := 5)))) (.join (opC (d := 5))) r ∧ r.ex ≠ 0) ∧
    (∃ r, Issues (at0 joining (.arrv (opC (tgt := 3)))) (.arrv (opC (tgt := 3))) r ∧ r.ex ≠ 0 ∧
      (match (at0 joining (.arrv (opC (tgt := 3)))).wordsAt r.w (r.c.pc + (3 : BitVec 27).signExtend 64 * 8) with
       | .ok (w0, w1, _) => decodesTo (w0, w1, .join (opC (d := 5))) | .error _ => false) = true) ∧
    ((go joining (.join (opC (d := 5)))).wave? 0).any (fun w => !w.frozen && (w.joins.find? (fun j => j.pc == 0x10100)).any (fun j =>
      (go joining (.join (opC (d := 5)))).joinable w j == [0, 1, 2, 3])) = true ∧
    (stuck.wave? 0).any (fun w => w.lowestJoin.any (fun j => j.pc == 0x10100) && stuck.joinDeadlock 0 w) = true ∧
    (∀ d ∈ [(0 : BitVec 8), 15], (∃ r, Issues (at0 joining (.kset (opC (d := d) (sa := .reg 5)))) (.kset (opC (d := d) (sa := .reg 5))) r ∧ r.ex ≠ 0 ∧
        r.w.wg = 3 ∧ ((at0 joining (.kset (opC (d := d) (sa := .reg 5)))).wg? 3).any (fun g => !(convOf g d.toNat).isOpen) = true) ∧
      ∃ r, Issues (at0 joining (.sign (opC (d := d)))) (.sign (opC (d := d))) r ∧ r.ex ≠ 0 ∧ r.w.wg = 3 ∧
        ((at0 joining (.sign (opC (d := d)))).wg? 3).isSome = true) := by
  refine ⟨issued (fun _ r => r.ex ≠ 0) (by decide +kernel), issued (fun s r => r.ex ≠ 0 ∧
    (match s.wordsAt r.w (r.c.pc + (3 : BitVec 27).signExtend 64 * 8) with
      | .ok (w0, w1, _) => decodesTo (w0, w1, .join (opC (d := 5))) | .error _ => false) = true) (by decide +kernel),
    by decide +kernel, by decide +kernel, ?_⟩
  intro d h
  simp only [List.mem_cons, List.not_mem_nil, or_false] at h
  rcases h with rfl | rfl
  all_goals exact ⟨issued (fun s r => r.ex ≠ 0 ∧ r.w.wg = 3 ∧ (s.wg? 3).any (fun g => !(convOf g _).isOpen) = true) (by decide +kernel),
    issued (fun s r => r.ex ≠ 0 ∧ r.w.wg = 3 ∧ (s.wg? 3).isSome = true) (by decide +kernel)⟩

/-- BAR of the least and the greatest count, GBAR, and barriers that are complete. -/
theorem witness_Barriers :
    (∀ v ∈ [(0 : Word), 1024], ∃ r, Issues (at0 (setAll wide 1 v) (.bar (opC (d := 15) (sa := .reg 1)))) (.bar (opC (d := 15) (sa := .reg 1))) r ∧ r.ex ≠ 0 ∧
      r.w.wg = 3 ∧ (operand (at0 (setAll wide 1 v) (.bar (opC (d := 15) (sa := .reg 1)))) r (.bar (opC (d := 15) (sa := .reg 1))) r.low 0).toNat ≤ 1024) ∧
    (∃ r, Issues (at0 wide (.gbar (opC))) (.gbar (opC)) r ∧ r.ex ≠ 0 ∧
      ((at0 wide (.gbar (opC))).wg? r.w.wg).any (fun g => ((at0 wide (.gbar (opC))).gang? g.gang).isSome) = true) ∧
    (∃ x, (go wide (.bar (opC (d := 15) (sa := .reg 1)))).barReady 3 15 = some x ∧ (x.arrivals.map Prod.fst).Nodup ∧ x.arrivals ≠ []) ∧
    (∃ a, (go wide (.gbar (opC))).gang? 2 = some a ∧ (go wide (.gbar (opC))).gbarReady 2 = true ∧ (a.gbar.map Prod.fst).Nodup ∧ a.gbar ≠ []) := by
  refine ⟨?_, issued (fun s r => r.ex ≠ 0 ∧ (s.wg? r.w.wg).any (fun g => (s.gang? g.gang).isSome) = true) (by decide +kernel),
    some_spec (P := fun (x : BarGen) => (x.arrivals.map Prod.fst).Nodup ∧ x.arrivals ≠ []) (by decide +kernel),
    some_spec (P := fun (a : Gang) => (go wide (.gbar (opC))).gbarReady 2 = true ∧ (a.gbar.map Prod.fst).Nodup ∧ a.gbar ≠ []) (by decide +kernel)⟩
  intro v h
  simp only [List.mem_cons, List.not_mem_nil, or_false] at h
  rcases h with rfl | rfl <;> exact issued (fun s r => r.ex ≠ 0 ∧ r.w.wg = 3 ∧
    (operand s r (.bar (opC (d := 15) (sa := .reg 1))) r.low 0).toNat ≤ 1024) (by decide +kernel)

/-! ### Witnesses: work -/

/-- v4 points to the record; a frame is open, and the quota is set. -/
def recorded (s : State) : State := (setAll s 4 0x42000).modCtx 0 (fun c => { c with frame := some { id := 9 }, holdquota := 64 })

def oL : OpC := opC (d := 1) (sa := .reg 4)

/-- Records that describe work (status 0), and records of zeros, that do not. -/
theorem witness_LaunchDrawAndFrames : [(recorded (launchRec wide), true), (recorded wide, false)].all (fun x =>
    issues x.1 (.launch oL) (fun s r => r.ex != 0 && (s.deviceRelease r).resolveAll r.w accLoad [0, 1, 4] 256 256 [(r.low, 0x42000)] == ([], [(0, .mem 0x42000)]) &&
      !(s.afterRecord r 0x42000).badLoc (.mem 0x42000) 256 && ((s.afterRecord r 0x42000).wave? r.c.wid).isSome && ((s.afterRecord r 0x42000).ctx? r.w.ctx).isSome &&
      (let b := ((s.afterRecord r 0x42000).readLoc r.w.ctx (.mem 0x42000) 256 0).getD []
       (((s.afterRecord r 0x42000).launchStatus r.w.ctx b).1 == 0) == x.2 && !(s.afterRecord r 0x42000).ctrClosed r.w.ctx (launchActions b)))) = true := by
  decide +kernel

theorem witness_LaunchDrawAndFrames_draw : [(recorded (drawRec wide), true), (recorded wide, false)].all (fun x =>
    issues x.1 (.draw oL) (fun s r => r.ex != 0 && (s.deviceRelease r).resolveAll r.w accLoad [0, 1, 4] 256 256 [(r.low, 0x42000)] == ([], [(0, .mem 0x42000)]) &&
      !(s.afterRecord r 0x42000).badLoc (.mem 0x42000) 256 && ((s.afterRecord r 0x42000).wave? r.c.wid).isSome &&
      ((s.afterRecord r 0x42000).ctx? r.w.ctx).any (fun c => c.frame.isSome) &&
      (let b := ((s.afterRecord r 0x42000).readLoc r.w.ctx (.mem 0x42000) 256 0).getD []
       (((s.afterRecord r 0x42000).drawStatus r.w.ctx b).1 == 0) == x.2 && !(s.afterRecord r 0x42000).ctrClosed r.w.ctx (drawActions b)))) = true := by
  decide +kernel

/-- Each of the four in threads whose guard fails. -/
theorem witness_LaunchDrawAndFrames_idle :
    let o := opC (d := 1) (sa := .reg 4) (g := .cond false 1)
    [Instr.launch o, .draw o, .frameb (opC (d := 1) (g := .cond false 1)), .framee o].all (fun i => issues wide i (fun _ r => r.ex == 0)) = true := by
  decide +kernel

/-- FRAMEB and FRAMEE, with a frame open and without one, with a frame word and without one. -/
theorem witness_LaunchDrawAndFrames_frames :
    (∀ x ∈ [(recorded wide, true), (wide, false)], ∃ r, Issues (at0 x.1 (.frameb (opC (d := 1)))) (.frameb (opC (d := 1))) r ∧ r.ex ≠ 0 ∧
      ((at0 x.1 (.frameb (opC (d := 1)))).ctx? r.w.ctx).any (fun c => c.frame.isSome == x.2) = true) ∧
    (∀ x ∈ [(recorded wide, true), (wide, false), (setAll wide 4 0x4000000000000008, false)], ∃ r, Issues (at0 x.1 (.framee oL)) (.framee oL) r ∧ r.ex ≠ 0 ∧
      ((at0 x.1 (.framee oL)).ctx? r.w.ctx).any (fun c => c.frame.isSome == x.2) = true ∧
      (operand (at0 x.1 (.framee oL)) r (.framee oL) r.low 0 = 0 ∨ ((operand (at0 x.1 (.framee oL)) r (.framee oL) r.low 0).toNat % 8 = 0 ∧
        (spaceOf (operand (at0 x.1 (.framee oL)) r (.framee oL) r.low 0) = 0 ∨ spaceOf (operand (at0 x.1 (.framee oL)) r (.framee oL) r.low 0) = 3 ∨
          spaceOf (operand (at0 x.1 (.framee oL)) r (.framee oL) r.low 0) = 4)))) := by
  constructor <;> intro x h <;> simp only [List.mem_cons, List.not_mem_nil, or_false] at h
  · rcases h with rfl | rfl <;> exact issued (fun s r => r.ex ≠ 0 ∧ (s.ctx? r.w.ctx).any (fun c => c.frame.isSome == _) = true) (by decide +kernel)
  · rcases h with rfl | rfl | rfl <;> exact issued (fun s r => r.ex ≠ 0 ∧ (s.ctx? r.w.ctx).any (fun c => c.frame.isSome == _) = true ∧
      (operand s r (.framee oL) r.low 0 = 0 ∨ ((operand s r (.framee oL) r.low 0).toNat % 8 = 0 ∧ (spaceOf (operand s r (.framee oL) r.low 0) = 0 ∨
        spaceOf (operand s r (.framee oL) r.low 0) = 3 ∨ spaceOf (operand s r (.framee oL) r.low 0) = 4)))) (by decide +kernel)

/-- The wave's workgroup holds its prologue allotment, of fewer registers than the full one; and the full one. -/
def small (full : Bool) : State :=
  (wide.modWg 3 (fun g => { g with full })).modLaunch 1 (fun l => { l with obj := { l.obj with prologue := { l.obj.prologue with n := 64, spad := 1 } } })

theorem witness_AllotmentsPalmAndSleep_acq :
    (∃ r, Issues (at0 wide (.acq (opC))) (.acq (opC)) r ∧ (at0 wide (.acq (opC))).acqActs r.w = false) ∧
    (∃ r, Issues (at0 (small false) (.acq (opC))) (.acq (opC)) r ∧ r.ex ≠ 0 ∧ (at0 (small false) (.acq (opC))).acqActs r.w = true ∧
      ((at0 (small false) (.acq (opC))).wg? r.w.wg).isSome = true) ∧
    (((go (small false) (.acq (opC))).waves.map Prod.fst).Nodup ∧ ((go (small false) (.acq (opC))).oldestRequest 0).any (fun x =>
      x.1 == 2 && (go (small false) (.acq (opC))).acqFits x.2 (fun _ => false)) = true) := by
  exact ⟨issued (fun s r => s.acqActs r.w = false) (by decide +kernel),
    issued (fun s r => r.ex ≠ 0 ∧ s.acqActs r.w = true ∧ (s.wg? r.w.wg).isSome = true) (by decide +kernel),
    by decide +kernel, by decide +kernel⟩

/-- REL without effect, and with; a gang whose threads all stand at REL. -/
theorem witness_AllotmentsPalmAndSleep_rel :
    (∀ s ∈ [wide, small false], ∃ r, Issues (at0 s (.rel (opC))) (.rel (opC)) r ∧ (r.w.kind = .compute ∨ r.w.kind = .coarse) ∧ r.ex ≠ 0 ∧
      ((at0 s (.rel (opC))).wg? r.w.wg).any (fun g => !g.full || ((at0 s (.rel (opC))).objOfWg g).prologue == ((at0 s (.rel (opC))).objOfWg g).full) = true) ∧
    (∃ r, Issues (at0 (small true) (.rel (opC))) (.rel (opC)) r ∧ (r.w.kind = .compute ∨ r.w.kind = .coarse) ∧ r.ex ≠ 0 ∧
      ((at0 (small true) (.rel (opC))).wg? r.w.wg).any (fun g => g.full &&
        ((at0 (small true) (.rel (opC))).objOfWg g).prologue != ((at0 (small true) (.rel (opC))).objOfWg g).full) = true) ∧
    (let s := modW (small true) (fun w => { w with threads := w.threads.map (fun t => { t with wait := .rel }) })
     (s.gang? 2).any (fun a => s.relReady a && a.st == .admitted && a.members == [3]) = true ∧
     (s.wg? 3).any (fun g => !g.finished && g.full) = true ∧ (s.wave? 0).any (fun v => v.wg == 3 && v.kind != .access) = true) := by
  refine ⟨?_, issued (fun s r => (r.w.kind = .compute ∨ r.w.kind = .coarse) ∧ r.ex ≠ 0 ∧ (s.wg? r.w.wg).any (fun g => g.full &&
    (s.objOfWg g).prologue != (s.objOfWg g).full) = true) (by decide +kernel), by decide +kernel⟩
  intro s h
  simp only [List.mem_cons, List.not_mem_nil, or_false] at h
  rcases h with rfl | rfl <;> exact issued (fun s r => (r.w.kind = .compute ∨ r.w.kind = .coarse) ∧ r.ex ≠ 0 ∧
    (s.wg? r.w.wg).any (fun g => !g.full || (s.objOfWg g).prologue == (s.objOfWg g).full) = true) (by decide +kernel)

/-- RGN of the greatest set; SLEEP of the longest time and of none; threads whose time has and has not come. -/
theorem witness_AllotmentsPalmAndSleep_others :
    (∀ i ∈ [Instr.rgn (opX 0xFF01000E00010000), .sleep (opC (sa := .reg 1)), .sleep (opC (sa := .reg 0))],
      ∃ r, Issues (at0 (setAll wide 1 0xFFFFFFFF) i) i r ∧ r.ex ≠ 0) ∧
    (∃ w, (go (setAll wide 1 5) (.sleep (opC (sa := .reg 1)))).wave? 0 = some w ∧ (w.thread 3).wait = .sleep 5 ∧ w.frozen = false ∧ (∀ t ∈ w.threads, t.stood ≠ .sleep 5) ∧
      (go (setAll wide 1 5) (.sleep (opC (sa := .reg 1)))).dev.ptp < 5) ∧
    (∃ w, (go wide (.sleep (opC (sa := .reg 1)))).wave? 0 = some w ∧ (w.thread 3).wait = .sleep 0 ∧ w.frozen = false ∧ (∀ t ∈ w.threads, t.stood ≠ .sleep 0) ∧
      0 ≤ (go wide (.sleep (opC (sa := .reg 1)))).dev.ptp) := by
  refine ⟨?_, some_spec (P := fun (w : Wave) => (w.thread 3).wait = .sleep 5 ∧ w.frozen = false ∧ (∀ t ∈ w.threads, t.stood ≠ .sleep 5) ∧
      (go (setAll wide 1 5) (.sleep (opC (sa := .reg 1)))).dev.ptp < 5) (by decide +kernel),
    some_spec (P := fun (w : Wave) => (w.thread 3).wait = .sleep 0 ∧ w.frozen = false ∧ (∀ t ∈ w.threads, t.stood ≠ .sleep 0) ∧
      0 ≤ (go wide (.sleep (opC (sa := .reg 1)))).dev.ptp) (by decide +kernel)⟩
  intro i h
  simp only [List.mem_cons, List.not_mem_nil, or_false] at h
  rcases h with rfl | rfl | rfl <;> exact issued (fun _ r => r.ex ≠ 0) (by decide +kernel)

/-- A queue with room for one more entry; one with an entry, to pop, to peek at and to drop; an empty queue of each depth. -/
def queued : State :=
  let a : Queue := { depth := 2, entries := [some []] }
  let b : Queue := { depth := 1, entries := [some (List.replicate 32 5)] }
  modW (setAll wide 2 64) (fun w => { w with queues := lmod (lmod w.queues 7 (fun _ => a)) 3 (fun _ => b) })

theorem witness_Queues :
    (∃ r, Issues (at0 queued (.qpush (opA (d := 7) (sb := .reg 0)))) (.qpush (opA (d := 7) (sb := .reg 0))) r ∧ r.ex ≠ 0 ∧
      (r.w.queue 7).entries.length < (r.w.queue 7).depth) ∧
    (∀ o ∈ [opA .i64 0 (sa := .pop 3) (sb := .reg 0), opA .i64 1 (d := 0) (sa := .pop 3) (sb := .reg 0)], ∃ r, Issues (at0 queued (.qpop o)) (.qpop o) r ∧ r.ex ≠ 0) ∧
    (∀ s ∈ [queued, wide], ∃ r, Issues (at0 s (.qctl (opA (d := 0) (sb := .reg 0)))) (.qctl (opA (d := 0) (sb := .reg 0))) r ∧ r.ex ≠ 0 ∧
      (operand (at0 s (.qctl (opA (d := 0) (sb := .reg 0)))) r (.qctl (opA (d := 0) (sb := .reg 0))) r.low 0).toNat % 128 ≤ 64 ∧
      (r.w.queue 0).entries = []) ∧
    (∃ r, Issues (at0 queued (.qctl (opA (d := 0) (sa := .const 1) (sb := .reg 0)))) (.qctl (opA (d := 0) (sa := .const 1) (sb := .reg 0))) r ∧
      r.w.boundDepth 0 1 ≤ ((at0 queued (.qctl (opA (d := 0) (sa := .const 1) (sb := .reg 0)))).allot r.w).q) := by
  refine ⟨issued (fun _ r => r.ex ≠ 0 ∧ (r.w.queue 7).entries.length < (r.w.queue 7).depth) (by decide +kernel), ?_, ?_,
    issued (fun s r => r.w.boundDepth 0 1 ≤ (s.allot r.w).q) (by decide +kernel)⟩ <;> intro o h <;>
    simp only [List.mem_cons, List.not_mem_nil, or_false] at h
  · rcases h with rfl | rfl <;> exact issued (fun _ r => r.ex ≠ 0) (by decide +kernel)
  · rcases h with rfl | rfl <;> exact issued (fun s r => r.ex ≠ 0 ∧ (operand s r (.qctl (opA (d := 0) (sb := .reg 0))) r.low 0).toNat % 128 ≤ 64 ∧
      (r.w.queue 0).entries = []) (by decide +kernel)

/-! ### Witnesses: tasks -/

/-- An unprivileged wave that may use lantern 0's counters; v2 names the entry of a task code object, v3 counter 7, v4 a tile. -/
def tasking : State := setAll (setAll (setAll (computeObj tenant) 2 0x40000) 3 7) 4 0x20000

def oQ (w1 : Word) (sc : Src) : OpX := opX w1 (d := 1) (sa := .reg 2) (sb := .reg 3) (sc := sc)

/-- TSPAWN of a bound task, and of a Ready task whose status is not 0; TTIME at priority 5, and at one that no task has. -/
theorem witness_TasksAndCounters_spawn :
    [(oQ 0xDC00000000000000 (.reg 3), tasking, 0), (oQ 0x1400000000000000 (.reg 0), setAll tasking 2 0x40008, 1)].all (fun x =>
      issues x.2.1 (.tspawn x.1) (fun s r => r.ex != 0 && ((s.deviceRelease r).wave? r.c.wid).isSome && (s.tspawnFault x.1 r).isNone && (s.spawns x.1 r).all (fun y => y.status == x.2.2 &&
        (s.lanterns[y.lan]?).any (fun l => l.freeTask == some 0)))) &&
    [((0x40045 : Word), 2), (0x4001F, 4)].all (fun x => let o := opA .i64 0 (sc := .reg 3)
      issues (setAll tasking 2 x.1) (.ttime o) (fun s r =>
        r.ex != 0 && (s.ttimeFault o r).isNone && (s.timedSpawns o r).all (fun y => y.status == x.2))) = true := by
  decide +kernel

/-- TDEP; TDEC of a counter above 0 and of one at 0. -/
theorem witness_TasksAndCounters_counters :
    issues tasking (.tdep (opA .i64 0 (sa := .reg 3) (sb := .const 3))) (fun s r => r.ex != 0 &&
      s.ungranted r ((s.counterOps (.tdep (opA .i64 0 (sa := .reg 3) (sb := .const 3))) r).map (fun x => (x.1, x.2.1))) == 0) &&
    [(1, none), (0, some (0, 7))].all (fun (x : BitVec 16 × Option (Nat × Nat)) => let o := opA .i64 0 (sa := .reg 3) (sb := .reg 0)
      issues (modW (tasking.putCounter 7 x.1) (fun w => { w with trapbase := 0x10200 })) (.tdec o) (fun s r =>
        let l := (s.counterOps (.tdec o) r).map (fun x => (x.1, x.2.1))
        r.ex != 0 && s.ungranted r l == 0 && ((s.deviceRelease r).decAll o.d.toNat l).2.2 == x.2 &&
          ((s.deviceRelease r).wave? r.c.wid).any (fun w => !w.trap.inHandler && w.trapbase != 0))) &&
    [(0 : Word), 0x4000000000020008].all (fun x => let o := opA .i64 1 (sa := .reg 3) (sb := .reg 4) (sc := .reg 5)
      issues (setAll tasking 5 x) (.tdepWatch o) (fun s r =>
        let p := s.watchLocs o r
        r.ex != 0 && p.1.isEmpty && p.2.1.isEmpty && p.2.2 == [(0, .mem 0x20000)] &&
          s.ungranted r ((s.watchOps o r).map (fun x => (x.1, x.2.1))) == 0)) &&
    decide (7 / 4096 % 16 < tasking.lanterns.length) = true := by
  decide +kernel

/-- A lantern with a timed task that is due and one that is not, two Ready tasks of one entry, and a held instance. -/
def mustered : State :=
  let k := fun (n : Nat) (st : TState) => ({ slot := n, gen := 0, ctx := 1, entry := 0x40000, arg := 0, prio := 5, st, order := n,
                                             obj := bootObj } : Task)
  { tasking.modLantern 0 (fun l => { l with tasks := [k 0 (.timed 0), k 1 (.timed 9), k 2 .ready, k 3 .ready, k 4 .held] }) with nextKey := 10 }

theorem witness_TasksAndCounters_events : (mustered.lanterns[0]?).any (fun l =>
    decide (l.tasks.map (·.order)).Nodup && l.tasks.all (fun k => decide (k.order < mustered.nextKey)) &&
    l.tasks.any (fun k => k.st == .timed 0 && decide (0 ≤ mustered.dev.ptp) && mustered.taskRuns k) &&
    (mustered.headTask l).any (fun h => h.order == 2 && (l.gather h).length == 2 && (mustered.placeFor 0 h.obj).isSome &&
      mustered.slotsLeft h.ctx != 0 && (mustered.freeSlot h.ctx).any (fun n => (mustered.wave? (widOf h.ctx n)).isNone)) &&
    mustered.dev.wheelAt == mustered.dev.clk &&
    ((sortTasks (mustered.heldOn l)).head?).any (fun k => k.order == 4) && l.freeTask == some 4) = true := by
  decide +kernel

/-- An instance of a settle group has exited, and its wave has no write outstanding. -/
def settling : State := { setAll mapped 4 0 with settling := [{ id := 6, ctx := 0, wid := 0, seqs := [3], word := 0x4000000000020008 }] }

theorem witness_TasksAndCounters_settle :
    (settling.settling.find? (fun x => x.id == 6)).any (fun x => settling.settled x && x.word != 0 &&
      (match settling.agentLoc x.ctx accAtomic [0, 4] 8 8 x.word with | .ok l => l == .mem 0x20008 | .error _ => false)) = true ∧
    Plain settling 0x20008 8 := by
  exact ⟨by decide +kernel, by unfold Plain; decide +kernel⟩

/-! ### Witnesses: draws -/

/-- One triangle over the pixels of the tile. -/
def oneTri : Tri :=
  { idx := 0, v := [0, 1, 2], provoking := 0, xs := [0, 4096, 0], ys := [0, 0, 4096], area := 16777216, zs := [0, 0, 0]
    qs := [0x3F800000, 0x3F800000, 0x3F800000] }

/-- A draw of 16 by 16 pixels whose first object has a cluster that is set up; four fragments of four pixels run in the wave.
v8 holds at the rate of vertices, every other register at that of samples. -/
def scene : DrawUnit :=
  { ctx := 0, ord := 0, pc := 0, recAddr := 0x42000, frame := 9, seq := 1, objlist := 0x46000, nobj := 2, width := 16, height := 16, spp := 0
    obj := { bootObj with
      isDraw := true, entry := none :: List.replicate 7 (some 0), homes := (List.range 256).map (fun r => if r = 8 then 4 else 6)
      hold := [{ reg := 8, rate := 4, vis := true, scope := 0, slot := 0 }] }
    coarse := 0, cull := 0, posreg := 8, cfmt := 0, blend := 0, depth := 1, delta := 0, cbase := 0x48000, dbase := 0x4C000, compl := {}
    objs := [{ idx := 0, phase := 2, ncls := 1, clusters := [{ idx := 0, phase := 4, vcount := 3, tcount := 1, tris := [oneTri] }] }]
    frags := (List.range 4).map (fun l => { draw := 5, seq := 1, obj := 0, cls := 0, tri := 0, px := l, py := 0, smp := 0, z := 0, lane := l, turn := 1
                                            started := true }) }

def vertexRec (draw : Nat) (ray : Bool) : HeldRec :=
  { ctx := 0, draw, seq := 1, rate := 4, el := {}, lantern := 0, isRay := ray, lines := 1, frame := 9, regs := [8], vals := [(8, 77)] }

/-- The wave runs that draw's elements at a rate; records of a vertex, of a ray's vertex, and of a draw that is gone. -/
def painted (rate : Nat) : State :=
  let s := modW mapped (fun w => { w with
    kind := .draw, draw := 5, rate
    threads := w.threads.mapIdx (fun l t => { t with el := { px := l } }) })
  { s with draws := [(5, scene)], recs := [(7, vertexRec 5 false), (8, vertexRec 5 true), (9, vertexRec 99 false)], nextKey := 20 }

def rated (n : BitVec 3) (o : OpA) : OpA := { o with h := ⟨0, n, false⟩ }

/-- Handles of the live ray record and of none. -/
theorem witness_HeldRecords :
    [(0x8001000000000000 : Word), 0].all (fun h =>
      issues (setAll (painted 6) 2 h) (.hread (rated 6 (opA .i64 0 (sb := .reg 8)))) (fun s r => r.ex != 0 &&
        (lanesOf r.ex).all (fun l => match s.handleRec r.w (operand s r (.hread (rated 6 (opA .i64 0 (sb := .reg 8)))) l 0) with
          | some (k, c) => h != 0 && k == 8 && (c.poisonOf 8).isNone && c.regs.contains 8 && !c.spoiled && c.spilled.isNone &&
              s.hreadVal r.w l 8 (operand s r (.hread (rated 6 (opA .i64 0 (sb := .reg 8)))) l 0) == 77
          | none => h == 0)) &&
      issues (setAll (painted 6) 2 h) (.hrel (rated 6 (opA .i64 0 (d := 0) (sb := .reg 0)))) (fun _ r => r.ex != 0)) &&
    decide ((painted 6).recs.map Prod.fst).Nodup && (aget? (painted 6).recs 9).any (fun r => (painted 6).recFree r) = true := by
  decide +kernel

def oInterp : OpA := rated 6 (opA .f32x2 0 (sa := .reg 8) (sb := .reg 0))

theorem witness_ElementsAndTextures :
    issues (painted 6) (.interp oInterp) (fun s r => works s r && (s.interpPoison r 8).isEmpty && (lanesOf r.ex).all (fun l => (s.triOf r.w l).isSome)) &&
    issues (painted 3) (.ecull (rated 3 (opA .i64 0 (d := 0) (sa := .reg 0) (sb := .reg 0)))) (fun _ r => r.ex != 0) &&
    issues mapped (.boxt (opA .f32x2 0 (sa := .reg 4) (sb := .reg 2))) (fun s r =>
      let a := s.addrs (.boxt (opA .f32x2 0 (sa := .reg 4) (sb := .reg 2))) r (fun v => v.getD 0 0)
      let p := s.resolveAll r.w accLoad [0, 1, 2, 4] 4 4 (a.flatMap (fun x => (List.range 24).map (fun k => (x.1, addrAdd x.2 (BitVec.ofNat 64 (4 * k))))))
      r.ex != 0 && (s.resolveAll r.w accLoad [0, 1, 2, 4] 96 128 a).1.isEmpty && p.1.isEmpty && p.2.length == 96 && p.2.all (fun x => !s.badLoc x.2 4)) &&
    [(0 : Word), 0x8000000000000000].all (fun w1 => issues mapped (.trit (opX w1 (d := 10) (sa := .reg 4) (sb := .reg 2) (ty := .f32x2))) (fun s r =>
      let a := s.addrs (.trit (opX w1 (d := 10) (sa := .reg 4) (sb := .reg 2) (ty := .f32x2))) r (fun v => v.getD 0 0)
      let p := s.resolveAll r.w accLoad [0, 1, 2, 4] 4 4 (a.flatMap (fun x => (List.range 9).map (fun k => (x.1, addrAdd x.2 (BitVec.ofNat 64 (4 * k))))))
      r.ex != 0 && (s.resolveAll r.w accLoad [0, 1, 2, 4] 36 16 a).1.isEmpty && p.1.isEmpty && p.2.length == 36 && p.2.all (fun x => !s.badLoc x.2 4))) = true := by
  decide +kernel

/-- TEX with a descriptor of one texel, by each filter, and with one whose fields are not legal. -/
theorem witness_ElementsAndTextures_tex :
    [(fields mapped 0x20000 [(0, 8, 0x20040), (8, 2, 1), (10, 2, 1), (12, 1, 1)], [(0 : Word), 0x8000000000000000]), (mapped, [0])].all (fun x =>
      x.2.all (fun w1 => let o := opX w1 (d := 10) (sa := .reg 2) (sb := .reg 3) (sc := .reg 4) (ty := .f32x2)
        issues x.1 (.tex o) (fun s r =>
          let i := Instr.tex o
          let a := s.addrs i r (fun v => v.getD 2 0)
          let d := s.resolveAll r.w accLoad [0, 1, 2, 4] 32 32 a
          let s1 := s.touch r.w.ctx (a.map Prod.snd)
          let bytes := fun (u : State) (l : Nat) (ea : Word) (loc : Loc) (n : Nat) => u.pieceBytes i r { lane := l, ea, loc, size := n }
          let lanes := d.2.map (fun l => texLane o (s.srcVals r.w i l.1) l.1 (bytes s1 l.1 ((aget? a l.1).getD 0) l.2 32))
          let loads := lanes.flatMap TexLane.loads
          let p := s1.resolveAll r.w accLoad [0, 4] 4 4 (loads.map (fun x => (x.1, x.2.1)))
          works s r && d.1.isEmpty && d.2.length == 4 && p.1.isEmpty && p.2.isEmpty == (x.2 == [0])))) = true := by
  decide +kernel

def oSp : OpA := rated 6 (opA .i64 0 (sb := .reg 0))

/-- RSPAWN at the first ray and at the last that a draw has; rays that have not started. -/
theorem witness_Rays :
    [0, 2 ^ 31 - 4].all (fun n => issues ((painted 6).modDraw 5 (fun d => { d with rayCount := n })) (.rspawn oSp) (fun s r => r.ex != 0 &&
      ((s.deviceRelease r).wave? r.c.wid).isSome && (s.draw? r.w.draw).any (fun d => (d.obj.entry.getD 7 none).isSome &&
        decide (d.rayCount + (lanesOf r.ex).length ≤ 2 ^ 31)))) &&
    (let s := (painted 6).modDraw 5 (fun d => { d with rays := (List.range 33).map (fun k => { lantern := 1, num := k, eptr := 0 }) })
     (s.runningDraw? 5).any (fun d =>
       let l := (d.rays.filter (fun x => x.lantern == 1)).take 32
       !d.gone && l.length == 32 && (s.startGroup 5 d 1 7 (l.map (fun x => ({ el := { ray := x.num }, elem := x.num, eptr := x.eptr } : Started)))).isSome)) =
      true := by
  decide +kernel

def oPx (sa : Src := .reg 0) : OpA := rated 6 (opA .i64 0 (d := 0) (sa := sa) (sb := .reg 0))

/-- The fragments of the scene, changed. -/
def frags (f : Frag → Frag) : State := (painted 6).modDraw 5 (fun d => { d with frags := d.frags.map f })

/-- A fragment whose turn has come, and one behind another fragment of its pixel. -/
theorem witness_Pixels_turns :
    [(frags (fun f => { f with turn := 0 }), true),
     (frags (fun f => if f.lane = 0 then f else { f with turn := 0, px := 0, smp := 1 }), false)].all (fun x =>
      (x.1.wave? 0).any (fun w => (x.1.draw? w.draw).any (fun d => (x.1.fragOf w 0 3).any (fun f =>
        f.turn == 0 && x.1.turnCame w.draw d f == x.2)))) = true := by
  decide +kernel

/-- PIXLK, where one thread still waits for its turn; PIXUL of every thread's lock. -/
theorem witness_Pixels_locks :
    issues (frags (fun f => if f.lane = 3 then { f with turn := 0 } else f)) (.pixlk (oPx)) (fun s r => r.ex != 0 &&
      (lanesOf r.ex).all (fun l => (s.fragOf r.w r.c.wid l).any (fun f => !f.lock && f.turn != 2))) &&
    issues (frags (fun f => { f with lock := true })) (.pixul (oPx)) (fun s r => r.ex != 0 && (((s.drainWave r.c.wid).releaseAs r.w 3).wave? r.c.wid).isSome &&
      (lanesOf r.ex).all (fun l => (s.fragOf r.w r.c.wid l).any (fun f => f.lock))) = true := by
  decide +kernel

/-- PXOUT with a depth test and without one, and its send. -/
def pixels (depth : Nat) : State := (painted 6).modDraw 5 (fun d => { d with depth })

theorem witness_Pixels_out :
    [0, 1].all (fun depth => issues (pixels depth) (.pxout (oPx (.reg 4))) (fun s r =>
      let q := r.without (s.turnless r)
      let fs := (lanesOf q.ex).filterMap (fun l => (s.fragOf r.w r.c.wid l).map (fun f => (l, f)))
      q.ex != 0 && (lanesOf r.ex).all (fun l => (s.fragOf r.w r.c.wid l).any (fun f => f.turn != 2)) &&
      (s.draw? r.w.draw).any (fun d =>
        let n := colourBytes d.cfmt
        (s.resolveAll r.w accStore [0, 4] n n (fs.map (fun x => (x.1, d.colourAt x.2)))).1.isEmpty &&
          (s.resolveAll r.w accStore [0, 4] 4 4 (if d.depth = 0 then [] else fs.map (fun x => (x.1, d.depthAt x.2)))).1.isEmpty))) = true := by
  decide +kernel

theorem witness_Pixels_sent :
    [0, 1].all (fun depth =>
      let s := go (pixels depth) (.pxout (oPx (.reg 4)))
      (s.wave? 0).any (fun w => !w.frozen && (s.draw? w.draw).isSome && (w.mitten.find? Entry.inFifo).any (fun e =>
        e.ins == .pxout (oPx (.reg 4)) && s.sendable w e && (s.draw? w.draw).any (fun d =>
          ((lanesOf e.exec).foldl (fun (a : Option State) l => a.bind (fun a => match aget? e.loc l with
            | none => some a
            | some x => match a.blendSample w d e l x with
              | .ok b => some (b.push w.core 3)
              | .error _ => none)) (some s)).isSome)))) = true := by
  decide +kernel

/-- Samples without a depth test and with one that passes and that fails. -/
theorem witness_Pixels_blend :
    Plain (painted 6) 0x48000 (colourBytes scene.cfmt) ∧ Plain (painted 6) 0x4C000 4 ∧
    [((0 : BitVec 32), false), (0xBF800000, true)].all (fun x =>
      depthPasses scene.depth (fmtF32.value x.1.toNat) (fmtF32.value (leNat ((painted 6).readPa 0x4C000 4))) == x.2) = true ∧
    ((go (pixels 0) (.pxout (oPx (.reg 4)))).wave? 0).any (fun w => w.mitten.any (fun e =>
      aget? e.loc 0 == some (.mem 0x48000) && aget? e.loc 32 == none)) = true ∧
    ((go (pixels 1) (.pxout (oPx (.reg 4)))).wave? 0).any (fun w => w.mitten.any (fun e => aget? e.loc 32 == some (.mem 0x4C000))) = true := by
  exact ⟨by unfold Plain; decide +kernel, by unfold Plain; decide +kernel, by decide +kernel, by decide +kernel, by decide +kernel⟩

/-- The scene in an open frame, before its frame element (0) or after it (2). -/
def framed (phase : Nat) : State :=
  (painted 6).modCtx 0 (fun c => { c with
    holdquota := 64, frame := some { id := 9, elements := if phase = 0 then [] else [(bootObj.base, phase)] } })

/-- A group of elements may start, as one wave. -/
def starts (s : State) (lan rate : Nat) (l : List Started) : Bool := (s.runningDraw? 5).any (fun d => !d.gone &&
  (s.startGroup 5 d lan rate l).isSome && (d.obj.entry.getD rate none).isSome && (s.groupPlace lan d.obj 1).isSome && s.slotsLeft d.ctx != 0 &&
  (s.freeSlot d.ctx).any (fun n => (s.wave? (widOf d.ctx n)).isNone))

/-- A frame element and an object that may start, on any lantern of the partition. -/
theorem witness_DrawElements_objects :
    (State.partLanterns (framed 0) 0).length = 16 ∧ (State.partLanterns (framed 0) 0).all (fun lan =>
      ((framed 0).runningDraw? 5).any (fun d =>
        let start : List Started := [{ el := {}, elem := 0, eptr := d.recAddr }]
        let p := (framed 0).reserveLines d lan 1 (d.obj.linesOf 1)
        !d.gone && (framed 0).framePhase d == 0 && (framed 0).firstOfFrame d && starts (framed 0) lan 1 start && p.2 && starts p.1 lan 1 start) &&
      ((framed 2).runningDraw? 5).any (fun d =>
        let start : List Started := [{ el := { obj := 1 }, elem := 1, eptr := 0x46020 }]
        let p := (framed 2).reserveLines d lan 2 (d.obj.linesOf 2)
        (framed 2).framePhase d == 2 && d.objs.length == 1 && d.nobj == 2 && d.lanternMade lan && (framed 2).earlierMade 5 d.ctx lan &&
          starts (framed 2) lan 2 start && p.2 && (p.1.startGroup 5 d lan 2 start).any (fun x =>
            match (x.1.newRecs 5 d 2 lan { obj := 1 } 1).readObject d 0x46020 with | .ok _ => true | .error _ => false))) = true :=
  ⟨by decide +kernel, by decide +kernel⟩

/-- The scene with a changed object, and with a changed cluster. -/
def objAs (f : DrawObj → DrawObj) : State := (framed 2).modDraw 5 (fun d => { d with objs := d.objs.map f })
def clsAs (f : Cluster → Cluster) : State := objAs (fun o => { o with clusters := o.clusters.map f })

/-- Clusters that may start, and the vertices of the least and the greatest clusters of one wave. -/
theorem witness_DrawElements_clusters :
    (let s := objAs (fun o => { o with ncls := 3, clist := 0x20000 })
     (s.runningDraw? 5).any (fun d => (d.obj? 0).any (fun o =>
       let p := s.addClusters 5 d o 32 o.clusters.length
       o.phase == 2 && !o.culled && decide (o.clusters.length < o.ncls) && (s.groupPlace o.lantern d.obj 1).isSome && p.2.length == 2 &&
         starts p.1 o.lantern 3 (p.2.map (fun c => ({ el := { obj := o.idx, cls := c.idx }, elem := c.idx, eptr := c.addr } : Started)))))) &&
    [1, 32].all (fun n => let s := clsAs (fun c => { c with phase := 2, vcount := n, vptr := 0x20000, vstride := 16 })
      (s.runningDraw? 5).any (fun d => (d.find 0 0).any (fun c => c.phase == 2 && !c.culled && c.vcount == n &&
        starts s c.lantern 4 ((List.range c.vcount).map (fun v =>
          ({ el := { obj := 0, cls := c.idx, vtx := v }, elem := v, eptr := addrAdd c.vptr (BitVec.ofNat 64 (v * c.vstride)) } : Started)))))) = true := by
  decide +kernel

/-- A cluster whose vertices have exited; one that is set up, whose fragments have not started. -/
theorem witness_SetUpAndExhaustion :
    (let s := clsAs (fun c => { c with phase := 3, iptr := 0x20000 })
     (s.runningDraw? 5).any (fun d => !d.gone && (d.find 0 0).any (fun c => c.phase == 3 && c.vtxLeft == 0 &&
       s.allBefore 5 d 0 c.idx (fun _ _ c => c.setUp) && (match s.readIndices d c with | .ok ix => ix == [0, 0, 0] | .error _ => false)))) &&
    (let s := (framed 2).modDraw 5 (fun d => { d with frags := d.frags.map (fun f => { f with started := false }) })
     (s.runningDraw? 5).any (fun d => !d.gone && (d.find 0 0).any (fun c => c.phase == 4 &&
       s.allBefore 5 d 0 c.idx (fun e k c => c.setUp && (e.fragsOf k c.idx).all (·.started)) && (d.nextFrags 0 c).length == 4 &&
       (s.startFrags 5 d 0 c (d.nextFrags 0 c)).isSome))) &&
    (let s := (modW wide (fun w => { w with trapbase := 0x10200 })).modCtx 0 (fun c => { c with holdFault := some (0, 1, 3) })
     (s.ctx? 0).any (fun c => c.holdFault.isSome) && (s.controlWave 0).any (fun e => s.wave? e.1 == some e.2 && !e.2.frozen && !e.2.trap.inHandler && e.2.trapbase != 0)) &&
    (wide.ctx? 0).all (fun c => c.holdFault.isNone) = true := by
  decide +kernel

/-- A word to store and a counter to lower at completion. -/
def both : Completion := { ctr := some 7, cw := some (0x4000000000020008, 9) }

theorem completable {s : State} {ctx : Nat} (h : (match s.agentLoc ctx accStore [0, 3, 4] 8 8 0x4000000000020008 with
    | .ok l => l == .mem 0x20008 | .error _ => false) = true) (hb : s.badPa 0x20008 8 = false) (hc : s.counter 7 ≠ 0) : Completable s ctx both := by
  refine ⟨fun a v e => ?_, fun k e => ?_⟩
  · cases e
    refine ⟨0x20008, ?_, by decide, hb⟩
    split at h
    · simp_all
    · simp at h
  · cases e; exact hc

/-- A launch, a draw and a frame of which everything is done. -/
def finished : State :=
  let l : Launch := { ctx := 0, ord := 1, pc := 0, obj := bootObj, gangs := 1, gsize := 1, wgsize := 1, compl := both, nextGang := 1, cores := [0] }
  let s := objAs (fun o => { o with culled := true })
  let s := { s with launches := s.launches ++ [(6, l)] }
  let s := s.modDraw 5 (fun d => { d with compl := both, nobj := 1, frags := [], cores := [0] })
  (s.putCounter 7 1).modCtx 0 (fun c => { c with closing := [{ id := 4, word := 0x4000000000020008 }, { id := 3 }] })

theorem witness_Completions :
    (∃ l, finished.reap.launch? 6 = some l ∧ finished.reap.launchDone 6 l = true ∧
      Completable ({ finished.reap with launches := adel finished.reap.launches 6 }.releaseCores l.cores) l.ctx l.compl) ∧
    (∃ d, finished.reap.draw? 5 = some d ∧ finished.reap.drawDone 5 d = true ∧
      Completable (((finished.reap.releaseCores d.cores).dropRecs d.ctx (fun _ (r : HeldRec) => r.draw == 5 && r.rate != 1 && !(r.isRay && r.frameScope))).modDraw 5
        (fun d => { d with gone := true, objs := [], frags := [] })) d.ctx d.compl) ∧
    (finished.frameDue 0).any (fun (f : Frame) => f.word != 0 && (match finished.agentLoc 0 accStore [0, 3, 4] 8 8 f.word with
      | .ok l => l == .mem 0x20008 | .error _ => false)) = true ∧ Plain finished 0x20008 8 := by
  refine ⟨?_, ?_, by decide +kernel, by unfold Plain; decide +kernel⟩
  · obtain ⟨l, h, a, b, c⟩ := some_spec (o := finished.reap.launch? 6) (P := fun l => finished.reap.launchDone 6 l = true ∧ l.ctx = 0 ∧ l.compl = both ∧ l.cores = [0])
      (by decide +kernel)
    refine ⟨l, h, a, ?_⟩
    rw [b, c.1, c.2]
    exact completable (by decide +kernel) (by decide +kernel) (by decide +kernel)
  · obtain ⟨d, h, a, b, c⟩ := some_spec (o := finished.reap.draw? 5) (P := fun d => finished.reap.drawDone 5 d = true ∧ d.ctx = 0 ∧ d.compl = both ∧ d.cores = [0])
      (by decide +kernel)
    refine ⟨d, h, a, ?_⟩
    rw [b, c.1, c.2]
    exact completable (by decide +kernel) (by decide +kernel) (by decide +kernel)

/-! ### Witnesses: system registers, translation and priorities -/

/-- An unprivileged wave that is no control wave, and has a trap handler. -/
def plain : State := (modW tenant (fun w => { w with trapbase := 0x10200 })).modLaunch 1 (fun l => { l with control := false })

theorem witness_SystemRegisters_read :
    issues wide (.sysr (opI (d := 1) (imm := 0x058))) (fun s r => r.ex != 0 && s.isPriv r.w) &&
    issues plain (.sysr (opI (d := 1) (imm := 0x058))) (fun s r => catches r && !s.isPriv r.w) &&
    (wide.wave? 0).any (fun w => (wide.ctx? w.ctx).isSome) = true := by
  decide +kernel

/-- Each SYSW, with a value that its register takes, at the ends of its range where it has one; and in a wave that may not
write the register. -/
theorem witness_SystemRegisters_write :
    [(0x019 : BitVec 27), 0x088, 0x089, 0x08B, 0x08C, 0x08D, 0x08E, 0x093, 0x051].all (fun n =>
      issues (setAll wide 2 1) (.sysw (opI (sa := .reg 2) (imm := n))) (fun s r => r.ex != 0 && s.isPriv r.w)) &&
    issues plain (.sysw (opI (sa := .reg 2) (imm := 0x051))) (fun s r => catches r && !s.mayWrite r.w 0x051) &&
    [(0 : Word), 65536].all (fun v => issues (setAll wide 2 v) (.syswHoldquota (opI (sa := .reg 2) (imm := 0x048))) (fun s r => r.ex != 0 && s.isPriv r.w &&
      decide (v.toNat + s.linesReserved r.w.ctx ≤ 2 ^ 16))) &&
    issues (setAll wide 2 0x20000) (.syswSpillbase (opI (sa := .reg 2) (imm := 0x049))) (fun s r => r.ex != 0 && s.isControl r.w && s.spillEnd r.w.ctx == 0) &&
    [(0 : Word), 0xFFFFFFFFC0].all (fun v => issues (setAll wide 2 v) (.syswSpillsize (opI (sa := .reg 2) (imm := 0x04A))) (fun s r => r.ex != 0 &&
      s.isControl r.w && v.toNat < 2 ^ 40 && v.toNat % 64 == 0 && s.spillEnd r.w.ctx ≤ v.toNat)) &&
    issues (setAll wide 2 0x20000) (.syswFqbase (opI (sa := .reg 2) (imm := 0x090))) (fun s r => r.ex != 0 && s.isControl r.w && s.queueEmpty r.w.ctx) &&
    [(0 : Word), 0x800000C].all (fun v => issues (setAll wide 2 v) (.syswFqctl (opI (sa := .reg 2) (imm := 0x091))) (fun s r => r.ex != 0 &&
      s.isControl r.w && s.queueEmpty r.w.ctx && v &&& 0xFFFFFFFF7000FFF0 == 0 && v.toNat % 16 ≤ 12)) &&
    issues (setAll wide 2 0x10200) (.syswTrapbase (opI (sa := .reg 2) (imm := 0x040))) (fun s r => r.ex != 0 && s.isPriv r.w) &&
    [(0 : Word), 0xFFFFFFFFFF000].all (fun v => issues (setAll wide 2 v) (.syswPtroot (opI (sa := .reg 2) (imm := 0x058))) (fun s r => r.ex != 0 &&
      s.isPriv r.w && v.toNat % 4096 == 0 && v.toNat < 2 ^ 52)) &&
    issues (setAll wide 2 0x3F3F) (.syswFflags (opI (sa := .reg 2) (imm := 0x018))) (fun _ r => r.ex != 0) = true := by
  decide +kernel

theorem witness_SystemRegisters_refused :
    [(0x048 : BitVec 27), 0x049, 0x04A, 0x090, 0x091, 0x040, 0x058].all (fun n =>
      let i := match n.toNat with
        | 0x048 => Instr.syswHoldquota (opI (sa := .reg 2) (imm := n))
        | 0x049 => .syswSpillbase (opI (sa := .reg 2) (imm := n))
        | 0x04A => .syswSpillsize (opI (sa := .reg 2) (imm := n))
        | 0x090 => .syswFqbase (opI (sa := .reg 2) (imm := n))
        | 0x091 => .syswFqctl (opI (sa := .reg 2) (imm := n))
        | 0x040 => .syswTrapbase (opI (sa := .reg 2) (imm := n))
        | _ => .syswPtroot (opI (sa := .reg 2) (imm := n))
      issues plain i (fun s r => catches r && !s.mayWrite r.w n.toNat)) = true := by
  decide +kernel

/-- Address v2 = 0x20000 is translated; v3 names context 0, v7 context 1, v8 a level. -/
def translated : State :=
  let s := setAll (setAll (setAll mapped 3 0) 7 1) 8 23
  let c : Ctx := { part := 0, priv := false, level := 5, grant := [], nodes := [], parea := 0, ptroot := 0x1000, walkroot := 0x1000, control := none }
  { s with
    tlb := [{ asid := 0, va := 0x20000, size := 4096, pa := 0x20000, r := true, w := true, x := true },
            { asid := 0, va := 0x30000, size := 4096, pa := 0x30000, r := true, w := true, x := true }]
    ctxs := s.ctxs ++ [(1, c), (2, c)] }

theorem witness_TranslationAndPriorities_tlbi :
    [Instr.tlbiVa (opA .i64 0 (d := 0)), .tlbiAsid (opA .i64 1 (d := 0) (sa := .reg 0)), .tlbiAll (opA .i64 2 (d := 0) (sa := .reg 0) (sb := .reg 0))].all (fun i =>
      issues translated i (fun s r => r.ex != 0 && !s.asidOutside r.w 0 &&
        (let s := s.deviceRelease r
         ((s.waves.filter (fun e => e.1 == r.c.wid || (e.2.ctx == 0 && !e.2.frozen))).foldl (fun s e => s.drainWave e.1) s).wave? r.c.wid).isSome &&
        (match i with
         | .tlbiVa _ => (operand s r i r.low 1).toNat == 0 && spaceOf (operand s r i r.low 0) == 0
         | .tlbiAsid _ => (operand s r i r.low 0).toNat == 0
         | _ => (let cs := s.tlbiCtxs r none
             let s := s.deviceRelease r
             ((s.waves.filter (fun e => e.1 == r.c.wid || (cs.contains e.2.ctx && !e.2.frozen))).foldl
               (fun s e => s.drainWave e.1) s).wave? r.c.wid).isSome))) = true := by
  decide +kernel

/-- Levels of contexts 1 and 2 change; context 0 and a context that does not exist have none to change. -/
theorem witness_TranslationAndPriorities_prio :
    [((7 : BitVec 8), (7 : BitVec 8), 0), (7, 3, 2), (2, 7, 2), (8, 7, 1)].all (fun x =>
      issues translated (.prioXchg (opA .i64 0 (sa := .reg x.1) (sb := .reg x.2.1))) (fun s r => r.ex != 0 &&
        s.prioStatus r.w [(operand s r (.prioXchg (opA .i64 0 (sa := .reg x.1) (sb := .reg x.2.1))) r.low 0).toNat % 64,
          (operand s r (.prioXchg (opA .i64 0 (sa := .reg x.1) (sb := .reg x.2.1))) r.low 1).toNat % 64] == x.2.2)) &&
    [((7 : BitVec 8), (8 : BitVec 8), 0), (7, 7, 0), (3, 8, 2)].all (fun x =>
      issues translated (.prioSet (opA .i64 1 (sa := .reg x.1) (sb := .reg x.2.1))) (fun s r => r.ex != 0 &&
        s.prioStatus r.w [(operand s r (.prioSet (opA .i64 1 (sa := .reg x.1) (sb := .reg x.2.1))) r.low 0).toNat % 64] == x.2.2)) = true := by
  decide +kernel

/-! ### Witnesses: work and freezes -/

/-- A queued launch of two gangs, and time enough for it to age and to be blocking. -/
def queuedUp (clk : Nat) : State :=
  let a : Allot := { n := 32, g := 1 }
  let l : Launch := { ctx := 0, ord := 1, pc := 0, obj := { bootObj with prologue := a, full := a }, gangs := 2, gsize := 2, wgsize := 40 }
  { wide with launches := wide.launches ++ [(6, l)], dev := { wide.dev with clk }, nextKey := 20 }

theorem witness_WorkAdmission_launch :
    [(queuedUp 480000, true), (queuedUp 59999, false)].all (fun x =>
      (x.1.launch? 6).any (fun l => x.1.agingDue l == x.2 && x.1.blockingDue l == x.2) &&
      (let t := modW x.1 (fun w => { w with readySince := [(0, 59936)] })
       (t.wave? 0).any (fun w => t.overdueDue w 0 == x.2))) &&
    (let s := queuedUp 0
     (s.candidates 0).head?.any (fun e => e.1 == 6 && s.launch? 6 == some e.2 && e.2.returned.isEmpty && s.detMay 6 e.2 e.2.nextGang &&
       decide (e.2.newWaves ≤ s.slotsLeft e.2.ctx) && ((s.openLanterns 0).findSome? (fun lan => s.placeOn lan (newMembers e.2))).isSome) &&
       s.gangs.all (fun e => decide (e.1 < s.nextKey)) && s.wgs.all (fun e => decide (e.1 < s.nextKey))) = true := by
  decide +kernel

/-- A gang whose threads have exited, and one that has a thread. -/
theorem witness_WorkAdmission_retire :
    [(modW wide (fun w => { w with threads := w.threads.map (fun t => { t with exited := true }) }), true), (wide, false)].all (fun x =>
      (x.1.gang? 2).any (fun a => x.1.retireDue a == x.2) && x.1.freezes.isEmpty) = true := by
  decide +kernel

/-- Two gangs on core 0 have asked for more than the core has for both. -/
def contended : State :=
  let s := small false
  { s with
    gangs := (s.gangs.map (fun e => (e.1, { e.2 with acqAt := some 0 }))) ++ [(30, { ctx := 0, launch := 1, idx := 1, core := 0, members := [31], acqAt := some 1 })]
    wgs := s.wgs ++ [(31, { ctx := 0, gang := 30, member := 0, core := 0, size := 32, nwave := 1 })]
    waves := s.waves ++ (s.wave? 0).toList.map (fun w => (1, { w with slot := 1, wg := 31 })) }

theorem witness_WorkAdmission_machine :
    ((contended.acqVictim 0).any (fun v => v.1 == 30 && (contended.ctx? v.2.ctx).isSome && (contended.freezeOf v.2.ctx (some v.1)).isNone)) &&
    (wide.lanterns[0]?).isSome && (wide.gangsOn 5).isEmpty && wide.activeCore 5 &&
    (let s := (wide.modLantern 0 (fun l => { l with failing := [6], spares := [] })
      )
     (s.lanterns[6 / 24]?).any (fun l => l.failing.contains (6 % 24)) && (s.gangsOn 6).isEmpty && !s.activeCore 6) &&
    (wide.parts[0]?).isSome = true := by
  decide +kernel

/-- The firmware wave names context 1 with v2, and an area with v3. -/
def freezing (a b : Word) : State :=
  let s := setAll (setAll wide 2 a) 3 b
  let c : Ctx := { part := 0, priv := false, level := 5, grant := [], nodes := [], parea := 0, ptroot := 0x1000, walkroot := 0x1000 }
  { s with ctxs := s.ctxs ++ [(1, c)], nextKey := 20 }

/-- FRZ and THAW: a unit that exists, one that does not, the firmware's, and an area that does not lie on a page. -/
theorem witness_Freezes_issue :
    [((1 : Word), (0x50000 : Word), 0x100, 2), (2, 0x50000, 2, 2), (0, 0x50000, 3, 3), (1, 0x50008, 5, 5), (0x40, 0x50000, 2, 2)].all (fun x =>
      let s := freezing x.1 x.2.1
      issues s (.frz (opA .i64 0)) (fun s r => r.ex != 0 && (s.frzStatus r.w x.1 x.2.1 0).1 == x.2.2.1 &&
        (x.2.2.1 != 0x100 || (s.ctx? 1).isSome && (s.freezeOf 1 none).isNone)) &&
      issues s (.thaw (opA .i64 0)) (fun s r =>
        let p := s.thawUnit (unitCtx x.1) (unitGang x.1) x.2.1.toNat (s.unitOutside r.w (unitCtx x.1)) (s.areaBad r.w x.2.1)
        r.ex != 0 && (unitReserved x.1 || p.2 == x.2.2.2 && (p.1.wave? r.c.wid).isSome))) &&
    (let s := freezing 1 0x50000
     (s.wave? 0).any (fun w => (s.frzStatus { w with ctx := 1 } 1 0x50000 0).1 == 4)) = true := by
  decide +kernel

/-- A freeze of context 0 in each phase: asked for, with a gang that runs and without one; stopped; restored. -/
def frozen (f : Freeze) (g : GState) (c : CState := .running) : State :=
  { wide with
    freezes := [(9, f)], gangs := wide.gangs.map (fun e => (e.1, { e.2 with st := g })), ctxs := wide.ctxs.map (fun e => (e.1, { e.2 with st := c })) }

def frzOf (phase : Nat) (gang : Option Nat) (gangs : List Nat) : Freeze := { ctx := 0, gang, area := 0x50000, deadline := 0, phase, gangs }

theorem witness_Freezes_events :
    [(GState.admitted, [2]), (.frozen, [])].all (fun x =>
      let s := frozen (frzOf 0 none []) x.1
      (aget? s.freezes 9).any (fun f => f.phase == 0 && (s.unitRunning f).map Prod.fst == x.2 && (s.unitRunning f).all (fun e => s.turnEnded e.1 e.2)) &&
      (aget? s.freezes 9).any (fun f => decide (f.phase ≤ 1) && decide (f.deadline ≤ s.dev.ptp) && (s.ctx? f.ctx).isSome)) &&
    (let s := frozen (frzOf 1 none [2]) .frozen
     (aget? s.freezes 9).any (fun f => f.phase == 1 && s.saveReady f && !f.requeue && f.gangs.all (fun g => (s.gang? g).isSome) && (s.ctx? f.ctx).isSome)) &&
    (let s := frozen (frzOf 3 none []) .frozen
     (aget? s.freezes 9).any (fun f => f.phase == 3 && f.gang.isNone && s.gangs.all (fun e => e.2.st != .saved) && (s.ctx? f.ctx).isSome)) &&
    (let s := frozen (frzOf 3 (some 2) [2]) .saved
     (aget? s.freezes 9).any (fun f => f.phase == 3 && f.gang == some 2 && f.gangs == [2] && (s.ctx? f.ctx).all (fun c => c.st == .running) &&
       (s.gang? 2).any (fun a => a.st == .saved && !s.isTaskGang a) && (s.placeSaved 2).isSome && decide (s.gangs.map Prod.fst).Nodup)) = true := by
  decide +kernel

/-! ### Witnesses: journals and the fabric -/

def jrec (idx seq step : Nat) (acked : Bool := false) : JRec := { idx, seq, step, kind := 1, bytes := List.replicate 64 7, acked, sent := true }

def theJournal (recs : List JRec) (next : Nat := 5) (lost : Bool := false) : Journal :=
  { partner := 200, pbase := 0x1000, log2 := 3, shadow := 0x60000, standby := none, next, lost, recs }

/-- Context 0 journals to node 200; v2 to v4 hold the operands of the instruction. -/
def journaled (j : Option Journal) (a b c : Word) : State :=
  (modW (setAll (setAll (setAll wide 2 a) 3 b) 4 c) (fun w => { w with trapbase := 0x10200 })).modCtx 0 (fun x => { x with journal := j, nodes := [200] })

def noJournal (j : Option Journal) : Bool := match j with | none => true | some j => j.lost

/-- JRNL of the longest payload, and of none; and its two traps. -/
theorem witness_JournalWrites :
    [(0x2801 : Word), 0x0080].all (fun b =>
      issues (journaled (some (theJournal [])) 0x300000007 b 0x20000) (.jrnl (opA .i64 0 (sc := .reg 4))) (fun s r =>
        r.ex != 0 && (s.journal? r.w.ctx).any (fun j => !j.lost && (s.partOfNode j.partner).isNone) && !kindReserved (b.toNat % 256) &&
        b.toNat / 256 % 256 ≤ 40 && (List.range ((b.toNat / 256 % 256 + 7) / 8)).all (fun k =>
          match s.resolve r.w accLoad [0, 1, 2, 4] 8 8 (addrAdd 0x20000 (BitVec.ofNat 64 (8 * k))) (freeAt 300 r.low) with
          | .ok l => !s.badLoc l 8
          | .error _ => false))) &&
    [none, some (theJournal [] 5 true)].all (fun j =>
      issues (journaled j 7 0x2801 0x20000) (.jrnl (opA .i64 0 (sc := .reg 4))) (fun s r => catches r && noJournal (s.journal? r.w.ctx))) = true := by
  decide +kernel

def oE : OpA := opA .i64 0 (d := 0) (sc := .reg 4)

/-- EMIT whose sequence has a record that is not acknowledged; EMIT.irq; an EMIT after the partner is lost. -/
theorem witness_EmitAndPartner_emit :
    [(7, oE, some (theJournal [jrec 4 7 0])), (0xC800000007, { oE with mod := 1 }, some (theJournal [jrec 4 7 0]))].all (fun (x : Word × OpA × Option Journal) =>
      issues (journaled x.2.2 x.1 0x20008 9) (.emit x.2.1) (fun s r => r.ex != 0 && r.w.mitten.isEmpty &&
        s.resolveAll r.w accStore [0, 3, 4] 8 8 [(r.low, 0x20008)] == ([], [(r.low, .mem 0x20008)]) &&
        (!x.2.1.mod.getLsbD 0 || (s.ctx? r.w.ctx).any (fun c => c.nodes.contains (x.1.toNat / 2 ^ 32 % 4096))) &&
        (s.journal? r.w.ctx).any (fun j => !j.lost && !j.allows r.w.core 7 j.next true))) &&
    issues (journaled (some (theJournal [] 5 true)) 7 0x20008 9) (.emit oE) (fun s r =>
      catches r && (s.journal? r.w.ctx).any (fun j => j.lost)) = true := by
  decide +kernel

/-- EMIT that nothing holds. -/
theorem witness_EmitAndPartner_free :
    let s := journaled none 7 0x20008 9
    ∃ r, Issues (at0 s (.emit oE)) (.emit oE) r ∧ r.ex ≠ 0 ∧ operand (at0 s (.emit oE)) r (.emit oE) r.low 1 = 0x20008 ∧
      (∀ n, ((at0 s (.emit oE)).touch r.w.ctx [0x20008]).resolve r.w accStore [0, 3, 4] 8 8 0x20008 n = .ok (.mem 0x20008)) ∧
      (at0 s (.emit oE)).journal? r.w.ctx = none ∧ Plain (at0 s (.emit oE)) 0x20008 8 ∧ r.w.frozen = false ∧ r.w.mitten = [] := by
  obtain ⟨r, hr, h1, h2, h3, h4, h5, h6, h7, h8⟩ := issued (s := journaled none 7 0x20008 9) (i := .emit oE) (fun s r =>
    r.ex ≠ 0 ∧ operand s r (.emit oE) r.low 1 = 0x20008 ∧
    (match (s.touch r.w.ctx [0x20008]).resolve r.w accStore [0, 3, 4] 8 8 0x20008 0 with | .ok l => l == .mem 0x20008 | .error _ => false) = true ∧
    ((s.touch r.w.ctx [0x20008]).tlbHit r.w.ctx (vaOf 0x20008)).all (fun m => match (s.touch r.w.ctx [0x20008]).walk r.w.ctx (vaOf 0x20008) with
      | .ok x => x == m | .error _ => false) = true ∧
    s.journal? r.w.ctx = none ∧ (0x20008 % 65536 + 8 ≤ 65536 ∧ s.badPa 0x20008 8 = false) ∧ r.w.frozen = false ∧ r.w.mitten = []) (by decide +kernel)
  refine ⟨r, hr, h1, h2, fun n => State.resolve_sure 0 n (fun m hm => ?_) ?_, h5, h6, h7, h8⟩
  · rw [hm] at h4
    simp only [Option.all_some] at h4
    split at h4
    · rename_i x hx
      rw [hx, eq_of_beq h4]
    · simp at h4
  · split at h3
    · rename_i l hl
      rw [hl, eq_of_beq h3]
    · simp at h3

/-- JPART: each status, and the new partner with a record to send again. -/
theorem witness_EmitAndPartner_jpart :
    [(journaled none 200 0x1000 0, opA .i64 0, some 1), (journaled (some (theJournal [])) 200 0x1000 0, opA .i64 1 (sa := .reg 0) (sb := .reg 0), some 1),
     (journaled (some (theJournal [])) 201 0x1000 0, opA .i64 0, some 2), (journaled (some (theJournal [])) 200 0x1008 0, opA .i64 0, some 3),
     (journaled (some (theJournal [jrec 4 7 0])) 200 0x2000 0, opA .i64 0, none)].all (fun (x : State × OpA × Option Nat) =>
      issues x.1 (.jpart x.2.1) (fun s r =>
        let st := s.jpartStatus r.w (x.2.1.mod.getLsbD 0) (operand s r (.jpart x.2.1) r.low 0).toNat (operand s r (.jpart x.2.1) r.low 1).toNat
        r.ex != 0 && st.1 == x.2.2 && (x.2.2.isSome || (s.journal? r.w.ctx).any (fun j => j.recs.any (fun y => y.live && decide (y.idx < j.next))) &&
          (s.partOfNode st.2.1).isNone && s.waves.all (fun w => w.1 == r.c.wid) && r.w.mitten.isEmpty && r.w.threads.all (fun t => t.wait == .none)))) = true := by
  decide +kernel

/-- JTRUNC with room and without, and its two traps. -/
theorem witness_TruncRecords :
    issues (journaled (some (theJournal [jrec 4 7 2])) 0x300000007 0 0) (.jtrunc (opA .i64 0 (sb := .reg 0))) (fun s r =>
      r.ex != 0 && (s.journal? r.w.ctx).any (fun j => !j.lost && (s.partOfNode j.partner).isNone)) &&
    [none, some (theJournal [] 5 true)].all (fun j => issues (journaled j 7 0 0) (.jtrunc (opA .i64 0 (sb := .reg 0))) (fun s r =>
      catches r && noJournal (s.journal? r.w.ctx))) &&
    runs (journaled (some (theJournal ((List.range 8).map (fun k => jrec k 7 0)) 8)) 7 0 0) (.jtrunc (opA .i64 0 (sb := .reg 0))) (fun s r =>
      r.ex ≠ 0 ∧ s.decodeCheck r.c r.w (.jtrunc (opA .i64 0 (sb := .reg 0))) = none ∧ journalWait s r = true) = true := by
  decide +kernel

/-- Two windows for node 200 at fabric address 0x8000: of a journal, with a record of INDEX 4 in its slot 1, and of context 0. -/
def windowed : State :=
  let v : Win := { part := 0, ctx := none, nbase := 0x8000, len := 512, vbase := 0x8000, nodes := [200], reads := false, writes := false, atomics := false,
                   rkey := none, doorbell := none, high := [(1, 5)] }
  { wide with windows := [v, { v with ctx := some 0, nbase := 0x20000, len := 4096, vbase := 0x20000, reads := true, writes := true, atomics := true,
                                      rkey := some 77, doorbell := some 0x20800 }] }

def arrival (naddr : Nat) (idx : Byte) : JournalFlit := { endpoint := 16, source := 200, naddr, record := idx :: List.replicate 63 0 }

theorem witness_FabricEvents_records :
    [(arrival 0x8040 3, some 0), (arrival 0x8040 4, some 0), (arrival 0x8040 9, some 0), (arrival 0x8200 0, none), (arrival 0x8008 0, none)].all (fun x =>
      let q := x.1
      windowed.partOfNode q.endpoint == some 0 && q.record.length == 64 && (windowed.served q.naddr).isSome &&
      windowed.windows.findIdx? (fun v => v.ctx.isNone && v.part == 0 && v.nodes.contains q.source && decide (v.nbase ≤ q.naddr) &&
        decide (q.naddr + 64 ≤ v.nbase + v.len) && (q.naddr - v.nbase) % 64 == 0) == x.2) &&
    (let c : Ctx := { part := 0, priv := false, level := 5, grant := [], nodes := [200], parea := 0, ptroot := 0, walkroot := 0 }
     let s := { wide with ctxs := wide.ctxs ++ [(1, { c with journal := some (theJournal [jrec 4 7 0, jrec 5 7 1]) })] }
     (s.journal? 1).any (fun j => !j.lost && j.partner == 200 && j.recs.any (fun x => x.idx == 4 && x.sent) && !s.silent j) &&
     s.waves.all (fun e => e.2.ctx != 1) &&
     (let t := { s with dev := { s.dev with clk := 10000000 } }
      (t.journal? 1).any (fun j => t.silent j))) = true := by
  decide +kernel

def access (naddr : Nat) (kind : FabricKind) (size : Nat) (data : List Byte) : FabricReq := { endpoint := 16, source := 200, naddr, kind, size, data }

/-- No port retrains, so the port of no node is busy. -/
theorem witness_FabricEvents_ports (eth : Bool) (node : Nat) : windowed.portBusy eth node = false := by
  have h : (windowed.dev.ethernet ++ windowed.dev.fabric).all (fun p => !p.retraining) = true := by decide +kernel
  have g : ∀ (l : List Port) (k : Nat), (∀ p ∈ l, p.retraining = false) → l[k]?.any (·.retraining) = false := by
    intro l k hl
    cases hk : l[k]? with
    | none => rfl
    | some p => exact hl p (List.mem_of_getElem? hk)
  have q : ∀ p ∈ windowed.dev.ethernet ++ windowed.dev.fabric, p.retraining = false := fun p hp => by
    simpa using List.all_eq_true.mp h p hp
  unfold State.portBusy
  split
  · rw [g _ _ (fun p hp => q p (List.mem_append_left _ hp)), Bool.and_false]
  · rw [g _ _ (fun p hp => q p (List.mem_append_right _ hp)), Bool.and_false]

/-- Accesses of each kind through the window, at its ends, and one outside it. -/
theorem witness_FabricEvents_accesses :
    [access 0x20000 .read 8 [], access 0x20FFC .write 4 [1, 2, 3, 4], access 0x20008 (.atomic 0) 8 [1, 0, 0, 0, 0, 0, 0, 0],
     access 0x20008 (.compareSwap 0) 4 [1, 0, 0, 0]].all (fun q =>
      let s := windowed.hear q.source
      windowed.partOfNode q.endpoint == some 0 && (s.inbound 0 q.source q.naddr q.size (kindNeeds q.kind).1 (kindNeeds q.kind).2).any (fun pa =>
        pa == q.naddr && accessSize q.size q.naddr && kindFits q.kind q.size q.data.length && !s.badPa pa q.size && !s.inSaveArea pa &&
          !s.inboundSpill 0 q.source q.naddr q.size (kindNeeds q.kind).1 (kindNeeds q.kind).2 &&
          pa % 65536 + q.size ≤ 65536)) &&
    ((windowed.hear 200).inbound 0 200 0x21000 8 true false).isNone = true := by
  decide +kernel

/-- Posted writes and RDMA writes that a window serves, and that none serves. -/
theorem witness_FabricEvents_writes :
    ((windowed.hear 200).windowFor 0 200 0x20FFE 2 false true).any (fun v => v.ctx == some 0 &&
      ((windowed.hear 200).inboundWrite 0 (v.vbase + (0x20FFE - v.nbase)) [1, 2]).isSome) &&
    ((windowed.hear 200).windowFor 0 200 0x20FFE 3 false true).isNone &&
    (windowed.rkeyWindow ⟨200, 77, 4094, [1, 2]⟩).any (fun x => x.2 == 0 && x.1.doorbell.any (fun d =>
      (windowed.inboundWrite 0 (x.1.vbase + 4094) [1, 2]).any (fun t => (t.inboundWrite 0 (vaOf d) (toBytes 8 5)).isSome))) &&
    (windowed.rkeyWindow ⟨200, 78, 0, [1]⟩).isNone && (windowed.rkeyWindow ⟨200, 77, 4095, [1, 2]⟩).isNone = true := by
  decide +kernel

/-! ### Witnesses: management -/

/-- A part that has booted, with context 1 of partition 0, without a control workgroup, and a code object at 0x40000. -/
def managed : State :=
  let s := computeObj wide
  let c : Ctx := { part := 0, priv := false, level := 5, grant := [], nodes := [], parea := 0, ptroot := 0x1000, walkroot := 0x1000 }
  { s with ctxs := s.ctxs ++ [(1, c)], dev := { s.dev with booted := true, lcstate := 2 }, nextKey := 20 }

/-- A request of the partition's management node, on the fabric and on the sideband. -/
def asked (sideband : Bool := false) : MgmtReq := { endpoint := 16, source := 100, sideband }

/-- The premises of a served request, and a check of the state that it is served in. -/
def serves (s : State) (q : MgmtReq) (p : State → Bool) : Bool :=
  s.dev.booted && s.partOfNode q.endpoint == some 0 && (s.parts[0]?).map (·.mgmt) == some q.source && p (s.heard q)

theorem serves_spec {s : State} {q : MgmtReq} {p : State → Bool} (h : serves s q p = true) : Served s q 0 ∧ p (s.heard q) = true := by
  simp only [serves, Bool.and_eq_true, beq_iff_eq] at h
  exact ⟨⟨h.1.1.1, h.1.1.2, h.1.2⟩, h.2⟩

def creating (ctx level : Nat) : CreateArgs :=
  { ctx, priv := false, root := 0x1000, level, grant := [(0, 0, 15)], nodes := [0, 4095], parea := 0x50000, code := 0x40000, entry := 0x40100, threads := 64 }

/-- CREATE of a context that exists, with a bad level, and with the least and the greatest level. -/
theorem witness_ContextRequests_create :
    [false, true].all (fun side => serves managed (asked side) (fun b =>
      (b.ctx? 1).isSome && (b.ctx? 2).isNone && b.createBad 0 (creating 2 3) && b.createBad 0 (creating 2 24) && b.createBad 0 (creating 64 4))) &&
    [(2, 4), (63, 23)].all (fun x => serves managed (asked) (fun b =>
      let a := creating x.1 x.2
      let c : Ctx := { part := 0, priv := a.priv, level := a.level, grant := a.grant, nodes := a.nodes, parea := a.parea, ptroot := a.root, walkroot := a.root }
      let b1 := { b with ctxs := aset b.ctxs a.ctx c, pending := adel b.pending a.ctx, ended := b.ended.filter (fun e => e.2 != a.ctx) }
      let p := b1.objStatus a.ctx a.code
      (b.ctx? a.ctx).isNone && !b.createBad 0 a && p.1 == 0 && !p.2.isDraw && spaceOf a.entry == 0 && (a.entry - a.code).toNat - 0x100 < p.2.textsize &&
        fitsEmpty p.2 ((a.threads + 31) / 32))) = true := by
  decide +kernel

/-- START, DESTROY and LEVEL of a context without a control workgroup, of one with one, and of none. -/
theorem witness_ContextRequests_start :
    serves managed (asked) (fun b => b.inPart 0 1 && (b.ctx? 1).any (fun c => c.control.isNone) && (b.startControl 1 0x40000 0x40100 64).isSome &&
      (b.startControl 1 0x40000 0x40104 64).isNone && !b.inPart 0 2 && !b.pendingIn 0 2 && b.freezes.all (fun e => e.2.ctx != 1)) &&
    serves { managed with pending := [(2, { part := 0, root := 0x1000 })] } (asked) (fun b => !b.inPart 0 2 && b.pendingIn 0 2) &&
    serves (managed.modCtx 1 (fun c => { c with control := some 1 })) (asked) (fun b => b.inPart 0 1 && (b.ctx? 1).any (fun c => c.control.isSome)) = true := by
  decide +kernel

def windowArgs (close : Bool) (nbase : Nat) : WindowArgs :=
  { ctx := 1, close, nbase, len := 4096, vbase := 0, nodes := [5], reads := true, writes := true, atomics := true, rkey := some 3, doorbell := some 8 }

/-- A part without the firmware context, whose context 1 has an empty table: what the checks of frames walk. -/
def bare : State := { blank with ctxs := managed.ctxs.drop 1, dev := managed.dev, nextKey := 20 }

/-- JOURNAL where no record is live and where one is; WINDOW opened and closed; REGION of the least and the greatest size. -/
theorem witness_ContextRequests_others :
    serves bare (asked) (fun b => b.inPart 0 1 && (b.journal? 1).isNone && b.waves.all (fun e => e.2.ctx != 1) && b.partHas 0 0x60000 (64 * 2 ^ 3) &&
      b.partHas 0 0x4000000 (64 * 2 ^ 20) && !b.windowBad 0 (windowArgs false 0x7000) && b.windowBad 0 (windowArgs false 0x7008) &&
      b.windows.isEmpty && b.liveRanges.all (fun r => !overlaps r.1 r.2 0x60000 512 && !overlaps r.1 r.2 0x4000000 67108864)) &&
    serves (bare.modCtx 1 (fun c => { c with journal := some (theJournal [jrec 4 7 0]) })) (asked) (fun b =>
      b.inPart 0 1 && (b.journal? 1).any (fun j => j.recs.any (·.live))) &&
    serves { bare with windows := windowed.windows } (asked) (fun b => b.windows.any (fun v => v.part == 0 && v.ctx == some 0 && v.nbase == 0x20000)) = true := by
  decide +kernel

def allocating (ctx va size : Nat) (frames : List Nat := []) : AllocArgs := { ctx, va, size, r := true, w := true, x := false, frames }

/-- Pages for a context that does not exist yet, in frames chosen and named; a frame outside the partition; a range of nothing. -/
theorem witness_FrameRequests_alloc :
    serves bare (asked) (fun b => [[], [9]].all (fun l => (b.allocPages 0 (allocating 3 0x10000 65536 l)).2 == 0) && (b.ctx? 3).isNone &&
      (aget? b.pending 3).isNone && (b.allocPages 0 (allocating 1 0x10000 65536 [2 ^ 40])).2 == 2 && !pagesOk 0 0 &&
      [none, some 9].all (fun n => (takeFrame (b, b.liveRanges, 0) 0 n).1.2.2 == 0)) = true := by
  decide +kernel

/-- The part after that ALLOC: the pages can be freed. -/
theorem witness_FrameRequests_free :
    serves (bare.allocPages 0 (allocating 3 0x10000 65536)).1 (asked) (fun b => b.waitingAccesses.isEmpty && b.waves.all (fun e => e.2.ctx != 3) &&
      (b.rootFor 0 3).any (fun root =>
        let leaves := (pagesOf 0x10000 65536).filterMap (fun page => leafOf b page 5 0 root)
        leaves.length == 1 && leaves.all (fun l => leaves.count l * 65536 == 2 ^ levelShift l.2) &&
          ((pagesOf 0x20000 65536).filterMap (fun page => leafOf b page 5 0 root)).isEmpty) && (b.rootFor 0 4).isNone) = true := by
  decide +kernel

/-- The channel that holds the table, whose frame moves to another stack. -/
theorem witness_FrameRequests_retire :
    serves bare (asked) (fun b => (b.parts[0]?).any (fun x => x.dies.contains 0) && (match channelOf 0 with
      | none => false
      | some ch => !b.channelBusy ch && !b.retired.contains ch && (b.toMove ch).length == 1 && decide (b.toMove ch).Nodup &&
          (List.range 64).any (fun f => b.partHas 0 (65536 * f) 65536 && !b.taken b.liveRanges f &&
            (channelOf (65536 * f)).all (fun c => c / 32 != ch / 32)))) = true := by
  decide +kernel

/-- FREEZE, THAW and SPARE: contexts of the partition, deadlines at both ends, an area outside, a saved context. -/
theorem witness_FrameRequests_others :
    serves managed (asked) (fun b => !b.endedBy (asked) 1 && b.inPart 0 1 && !b.areaOutside 0 0x50000 && b.areaOutside 0 0x50008 &&
      (b.freezeOf 1 none).isNone && (b.ctx? 1).isSome && b.freezes.all (fun e => e.1 != b.nextKey) && !b.inPart 0 2 && (b.partLanterns 0).contains 0 &&
      b.activeCore 3 && !b.activeCore 10000) &&
    serves { managed with ended := [(100, 4)] } (asked) (fun b => b.endedBy (asked) 4) &&
    serves { managed with freezes := [(9, { ctx := 1, gang := none, area := 0x50000, deadline := 0, phase := 2 })] } (asked) (fun b =>
      (b.freezeOf 1 none).any (fun e => e.2.phase == 2)) = true := by
  decide +kernel

/-- A frame moves: its bytes stand where they stood. -/
theorem witness_FrameRequests_redirect :
    Memory.wf wide.mem && ((0x10100 / 65536 == 1) && (wide.served 0x10100).isSome && (wide.served (65536 * 1)).isSome &&
      (wide.served (65536 * 1)).getD 0 / 65536 != 9 && wide.dev.cxlDown.all (fun e => e.2 == 0)) = true := by
  decide +kernel

/-- An image whose signature is the P-384 example for the message "sample" of RFC 6979, A.2.6, and a part with its key's hash in
its fuses. -/
def signedImage : FirmwareImage :=
  { bytes := [0x73, 0x61, 0x6D, 0x70, 0x6C, 0x65]
    key := beBytes 48 0xEC3A4E415B4E19A4568618029F427FA5DA9A8BC4AE92E02E06AAE5286B300C64DEF8F0EA9055866064A254515480BC13 ++
      beBytes 48 0x8015D9B72D7D57244EA8EF9AC0C621896708A59367F9DFB9F54CA84B3F1C9DB1288B231C3AE0D4FE7344FD2533264720
    signature := beBytes 48 0x94EDBB92A5ECB8AAD4736E56C691916B3F88140666CE9FA73D64C4EA95AD133C81A648152E44ACF96E36DD1E80FABE46 ++
      beBytes 48 0x99EF4AEB15F178CEA1FE40DB2603138F130E740A19624526203B6351D0A3A94FA329C145786E679E7B82C71A38628AC8
    entry := 0, threads := 1 }

def fusedPart : State := { managed with dev := { managed.dev with fuses := .hash (sha384 signedImage.key) } }

/-- R362: the signature verifies; it does not over another message, and a part without fuses takes no image. -/
theorem test_signature : fusedPart.imageVerified signedImage = true := by decide +kernel
theorem test_signature_fails : fusedPart.imageVerified { signedImage with bytes := [0x74] } = false ∧
    State.imageVerified { fusedPart with dev := { fusedPart.dev with fuses := .blank } } signedImage = false := by decide +kernel

/-- A part that has not booted; a request of another node; no context but the firmware's. -/
theorem witness_PartRequests :
    !wide.dev.booted && wide.dev.lcstate != 4 && (managed.parts[0]?).any (fun x => x.mgmt != 101) &&
    serves { managed with ctxs := managed.ctxs.take 1 } (asked) (fun b => b.ctxs.all (fun e => e.1 == 0) && b.dev.image.isNone &&
      divisionOk ⟨[2, 2], [16, 17], [100, 101], []⟩ && divisionOk ⟨[1, 1, 1, 1], [1, 2, 3, 4095], [0, 0, 0, 0], []⟩ &&
      !divisionOk ⟨[3, 1], [16, 17], [100, 101], []⟩) &&
    serves managed (asked) (fun b => b.ctxs.any (fun e => e.1 != 0) && b.dev.lcstate != 0 && mayMove b.dev.lcstate 3 && !mayMove b.dev.lcstate 0) = true := by
  decide +kernel

/-- A part in each state that an event tells apart. -/
theorem witness_PartEvents :
    managed.dev.lcstate == 2 && ({ managed.dev with lcstate := 3 } : Device).lcstate != 4 && (managed.dev.ethernet[0]?).isSome && (managed.dev.fabric[0]?).isSome &&
    !managed.detRuns && (managed.modLaunch 1 (fun l => { l with obj := { l.obj with det := true } })).detRuns = true := by
  decide +kernel

/-! ### Single steps

Expected values are worked out by hand from the rule that each test names. -/

/-- Register v1 of the first thread, after the instruction has issued on v2, v3, v4 and v1. -/
def result (i : Instr) (a : Word) (b : Word := 0) (c : Word := 0) (d : Word := 0) : Word :=
  getR (go (setAll (setAll (setAll (setAll wide 2 a) 3 b) 4 c) 1 d) i) 1 0

def op3 (ty : Ty) (mod : BitVec 4 := 0) : OpA := opA ty mod (sc := .reg 4)
def op1 (ty : Ty) (mod : BitVec 4 := 0) : OpA := opA ty mod (sb := .reg 0)

/-- R108, R111: sub-elements wrap without carrying into the next, and clamp with .sat. -/
theorem test_iadd : result (.iadd (opA .i32x2)) 0x7FFFFFFFFFFFFFFF 0x0000000100000001 = 0x8000000000000000 ∧
    result (.iadd (opA .i32x2 2)) 0x7FFFFFFFFFFFFFFF 0x0000000100000001 = 0x7FFFFFFF00000000 := by decide +kernel
theorem test_isub : result (.isub (opA .n8x8 2)) 0x0300 0x0401 = 0 ∧ result (.isub (opA .n8x8)) 0x0300 0x0401 = 0xFFFF := by decide +kernel
theorem test_imul : result (.imul (opA .i16x4)) 0x8000 0xFFFF = 0x8000 ∧ result (.imul (opA .i16x4 2)) 0x8000 0xFFFF = 0x7FFF := by decide +kernel
theorem test_imulh : result (.imulh (opA .n64)) 0xFFFFFFFFFFFFFFFF 0xFFFFFFFFFFFFFFFF = 0xFFFFFFFFFFFFFFFE ∧
    result (.imulh (opA .i64)) 0xFFFFFFFFFFFFFFFF 1 = 0xFFFFFFFFFFFFFFFF := by decide +kernel
theorem test_imad : result (.imad (op3 .i64)) 3 4 5 = 17 ∧ result (.imad (op3 .n8x8 2)) 0x10 0x10 1 = 0xFF := by decide +kernel
theorem test_iaddi : result (.iaddi (opI (d := 1) (sa := .reg 2) (imm := -1))) 0 = 0xFFFFFFFFFFFFFFFF := by decide +kernel
theorem test_li : result (.li (opI (d := 1) (imm := -2))) 0 = 0xFFFFFFFFFFFFFFFE := by decide +kernel
theorem test_iminmax : result (.imin (opA .i8x8)) 0x80 0x01 = 0x80 ∧ result (.imax (opA .n8x8)) 0x80 0x01 = 0x80 := by decide +kernel
theorem test_iabs : result (.iabs (op1 .i8x8)) 0x80FF = 0x8001 ∧ result (.iabs (op1 .i8x8 2)) 0x80FF = 0x7F01 := by decide +kernel
theorem test_ineg : result (.ineg (op1 .n16x4)) 0x0001 = 0xFFFF ∧ result (.ineg (op1 .n16x4 2)) 0x0001 = 0 := by decide +kernel

/-- R113. -/
theorem test_andn : result (.andn (opA .i64)) 0xFF00 0x0FF0 = 0xF000 := by decide +kernel
theorem test_logic : result (.and (opA .i64)) 0xFF00 0x0FF0 = 0x0F00 ∧ result (.or (opA .i64)) 0xFF00 0x0FF0 = 0xFFF0 ∧
    result (.xor (opA .i64)) 0xFF00 0x0FF0 = 0xF0F0 := by decide +kernel
theorem test_shl : result (.shl (opA .n32x2)) 0x0000000180000001 0x0000002000000001 = 2 := by decide +kernel
theorem test_shr : result (.shr (opA .i32x2)) 0x80000000F0000000 0x0000004000000004 = 0xFFFFFFFFFF000000 ∧
    result (.shr (opA .n32x2)) 0x80000000F0000000 0x0000004000000004 = 0x0F000000 := by decide +kernel
theorem test_popc_clz_brev : result (.popc (op1 .i16x4)) 0xFFFF000100030000 = 0x0010000100020000 ∧ result (.clz (op1 .i32x2)) 1 = 0x000000200000001F ∧
    result (.brev (op1 .i64)) 1 = 0x8000000000000000 := by decide +kernel

/-- R112: the sums of products of bytes, signed, with their addends. -/
theorem test_idot4 : result (.idot4 (op3 .i8x8)) 0x01010101FF020304 0x01010101010101FF 0x0000000A00000001 = 0x0000000E00000001 := by decide +kernel

/-- R118: in space 0x1 the sum stays within bits 19:0; R119: the space and the policy are replaced. -/
theorem test_lea : result (.lea (op3 .i64 3)) 0x10000000000FFFF8 1 1 = 0x1000000000000001 := by decide +kernel
theorem test_pspace : result (.pspace (opA .i64 4)) 0xF000000000000123 3 = 0x4600000000000123 := by decide +kernel

/-- R120: thread 3 has base + 3 × stride. -/
theorem test_mkaff : getR (go (setAll (setAll wide 2 100) 3 8) (.mkaff (opA .i64))) 1 3 = 124 := by decide +kernel

/-- R115, R116, R117. -/
theorem test_icmp : ((go (setAll (setAll wide 2 0x0000000100000005) 3 0x0000000100000007) (.icmp (opA .i32x2 2 (d := 2)))).wave? 0).map
    (fun w => (w.thread 0).cond) = some 4 := by decide +kernel

/-- R121: sums, differences, products and a fused multiply-add, each rounded once. -/
theorem test_fadd : result (.fadd (opA .f32x2)) 0x3F8000003F800000 0x4000000033800000 = 0x404000003F800000 := by decide +kernel
theorem test_fmul : result (.fmul (opA .f16x4)) 0x3C003C003C00C000 0x4000400040004000 = 0x400040004000C400 := by decide +kernel
theorem test_ffma : result (.ffma (op3 .f32x2)) 0x4000000040000000 0x4040000040400000 0x3F8000003F800000 = 0x40E0000040E00000 := by decide +kernel
theorem test_fadd_inexact : ((go (setAll (setAll wide 2 0x3F800000) 3 0x33000000) (.fadd (opA .f32x2))).wave? 0).map (fun w =>
    w.flying.map (fun x => x.2)) = some [(0xF, 0x10)] := by decide +kernel
theorem test_fmin_nan : result (.fmin (opA .f32x2)) 0x7FC000003F800000 0x3F80000080000000 = 0x3F80000080000000 := by decide +kernel
theorem test_fdiv : result (.fdiv (opA .f32x2)) 0x3F8000003F800000 0x4040000000000000 = 0x3EAAAAAB7F800000 := by decide +kernel
theorem test_fsqrt : result (.fsqrt (op1 .f32x2)) 0x4080000040000000 = 0x400000003FB504F3 := by decide +kernel

/-- R137, R141: four threads meet at a WRED, and reduce over the mask in v3. -/
theorem test_wred : getR (ev (go (setAll (setAll wide 2 3) 3 0xF) (.wred (opA .i64))) (.exchangeGroupIssue 0 0)) 1 2 = 12 := by decide +kernel

/-- A store of v5 at v4 has left the FIFO. -/
def stored : State := (go (setR (setR here 4 0 0x20000) 5 0 0x11223344) (.st (opM .b32 (d := 5)))).drainOne 0

/-- R48: four bytes stored, least significant first; R194: a load of a byte is zero-extended. -/
theorem test_store : stored.readPa 0x20000 5 = [0x44, 0x33, 0x22, 0x11, 0] := by decide +kernel
theorem test_load : getR (ev (go (stored.writePa 0x20001 [0xF3]) (.ld (opM .b16))) (.loadComplete 0 1 0)) 8 0 = 0xF344 := by decide +kernel

/-- R197: an atomic add returns the old value and leaves the sum. -/
def added : State := ev (go (setR (stored.writePa 0x20000 [0xFF, 0xFF, 0xFF, 0xFF, 7]) 5 0 2) (.atom (opM .b32 (sb := .reg 5)))) (.atomicResultReturn 0 1)
theorem test_atom : getR added 8 0 = 0xFFFFFFFF ∧ added.readPa 0x20000 5 = [1, 0, 0, 0, 7] := by decide +kernel

/-- R302, R303: branches count words from the branch; CALL leaves the next word's address. -/
def pcOf (s : State) : Word := ((s.wave? 0).map (fun w => (w.thread 0).pc)).getD 0
theorem test_bra : pcOf (go wide (.bra (opC (tgt := -2)))) = 0x100F0 := by decide +kernel
theorem test_call : pcOf (go wide (.call (opC (d := 62) (tgt := 4)))) = 0x10120 ∧ getR (go wide (.call (opC (d := 62) (tgt := 4)))) 62 0 = 0x10108 := by
  decide +kernel

/-- R374, R375: a TRAP sets the trap registers, and its threads resume after it; a privileged instruction resumes at itself. -/
def trapOf (s : State) : Option (Word × Word × Word × Word) := (s.wave? 0).map (fun w => (w.trap.tcause, w.trap.tpc, (w.thread 0).tepc, (w.thread 0).pc))
theorem test_trap : trapOf (go (modW wide (fun w => { w with trapbase := 0x10800 })) (.trap (opI (imm := 5)))) =
    some (0x11, 0x10100, 0x10108, 0x10800) := by decide +kernel
theorem test_privilege : trapOf (go plain (.prioSet (opA .i64 1))) = some (0x02, 0x10100, 0x10100, 0x10200) := by decide +kernel

/-- R376: TRET returns to sys.tepc, with the conditions of sys.tcond. -/
def inHandler1 : State := modW wide (fun w => { w with
  trapbase := 0x10800, trap := { w.trap with inHandler := true }, threads := w.threads.map (fun t => { t with tepc := 0x10300, tcond := 5 }) })
theorem test_tret : ((go inHandler1 (.tret (opA .i64 0 (d := 0) (sa := .reg 0) (sb := .reg 0)))).wave? 0).map (fun w =>
    (w.trap.inHandler, (w.thread 1).pc, (w.thread 1).cond)) = some (false, 0x10300, 5) := by decide +kernel

/-- R321, R322: TDEP gives the value before, TDEC the value after. -/
theorem test_tdep : getR (ev (go (tasking.putCounter 7 9) (.tdep (opA .i64 0 (sa := .reg 3) (sb := .const 3)))) (.atomicResultReturn 0 0)) 1 0 = 9 := by decide +kernel
theorem test_tdec : getR (ev (go (tasking.putCounter 7 9) (.tdec (opA .i64 0 (sa := .reg 3) (sb := .reg 0)))) (.atomicResultReturn 0 0)) 1 0 = 8 := by decide +kernel

/-- R363, R364: sys.lane; the level of a context. -/
theorem test_sysr : getR (go wide (.sysr (opI (d := 1) (imm := 0)))) 1 3 = 3 := by decide +kernel
theorem test_prio : ((go translated (.prioSet (opA .i64 1 (sa := .reg 7) (sb := .reg 8)))).ctx? 1).map (·.level) = some 23 := by decide +kernel

end Sys2Proof.Tests
end

section
/-!
PROOFS. What the machine holds after a reset (spec/01 R5, spec/18 R356, spec/25 R435).
-/

namespace Sys2Proof.Machine

/-- The lanterns after a reset: sixteen alike (R5). -/
theorem State.reset_lanterns : State.reset.lanterns = List.replicate 16 resetLantern := rfl

/-- Each of the sixteen lanterns stands at its place after a reset. -/
theorem State.reset_lantern? {l : Nat} (h : l < 16) : State.reset.lanterns[l]? = some resetLantern := by
  rw [State.reset_lanterns, List.getElem?_replicate_of_lt h]

/-- Every dependency counter is 0 after a reset (R287, R356). -/
theorem State.reset_counter (k : Nat) : State.reset.counter k = 0 := by
  have hl : k / 4096 % 16 < 16 := Nat.mod_lt _ (by decide)
  simp only [State.counter, State.reset_lantern? hl]
  rfl

/-- A ring position of a lantern after a reset has its core. -/
theorem resetLantern_ring {p : Nat} (h : p < 24) : resetLantern.ring.any (fun e => e.1 == p) = true :=
  List.any_eq_true.mpr ⟨(p, p + 1), List.mem_map.mpr ⟨p, List.mem_range.mpr h, rfl⟩, beq_self_eq_true p⟩

/-- All 384 cores are active after a reset (R5). -/
theorem State.reset_activeCore {c : Nat} (h : c < 384) : State.reset.activeCore c = true := by
  have hl : c / 24 < 16 := by omega
  have hp : c % 24 < 24 := Nat.mod_lt _ (by decide)
  simp only [State.activeCore, State.reset_lantern? hl, Option.map_some, resetLantern_ring hp, Bool.true_and]
  rfl

/-- Settles O4: every field is read off the state after reset; the counters and the cores through its sixteen lanterns. -/
theorem resetState : Obligations.ResetState := by
  rintro s rfl
  have alike : ∀ l ∈ State.reset.lanterns, l.ring.length = 24 ∧ l.spares = [24, 25] ∧ l.tasks = [] := by
    intro l hl
    obtain rfl := List.eq_of_mem_replicate hl
    exact ⟨rfl, rfl, rfl⟩
  exact ⟨Memory.wf_reset, rfl, rfl, rfl, rfl, rfl, rfl, rfl, rfl, State.reset_counter, rfl, rfl, alike,
    fun _ => State.reset_activeCore, rfl, rfl, rfl, rfl, rfl⟩

end Sys2Proof.Machine
end

section
/-!
PROOFS. What starting the waves of admitted work leaves unchanged (spec/11 R17, R18, R234): everything but the waves,
workgroups, gangs and launches.
-/

namespace Sys2Proof.Machine

/-- Of two states, the second differs in its waves, workgroups, gangs and launches at most. -/
def OnlyWork (s t : State) : Prop :=
  t = { s with waves := t.waves, wgs := t.wgs, gangs := t.gangs, launches := t.launches }

namespace OnlyWork

theorem refl (s : State) : OnlyWork s s := rfl

theorem trans {s t u : State} (h : OnlyWork s t) (k : OnlyWork t u) : OnlyWork s u := by
  unfold OnlyWork at h k
  rw [h] at k
  exact k

theorem foldl {α : Type} (f : State → α → State) (hf : ∀ s a, OnlyWork s (f s a)) (l : List α) (s : State) :
    OnlyWork s (l.foldl f s) := by
  induction l generalizing s with
  | nil => exact .refl s
  | cons a l ih => exact (hf s a).trans (ih (f s a))

theorem modWave (s : State) (k : Nat) (f : Wave → Wave) : OnlyWork s (s.modWave k f) := rfl
theorem modWg (s : State) (k : Nat) (f : Workgroup → Workgroup) : OnlyWork s (s.modWg k f) := rfl
theorem modGang (s : State) (k : Nat) (f : Gang → Gang) : OnlyWork s (s.modGang k f) := rfl
theorem modLaunch (s : State) (k : Nat) (f : Launch → Launch) : OnlyWork s (s.modLaunch k f) := rfl

theorem addWave (s : State) (w : Wave) : OnlyWork s (s.addWave w) := by
  unfold State.addWave
  split <;> rfl

/-- The waves of a workgroup with their access waves (R294). -/
theorem startWaves (s : State) (k : Nat) : OnlyWork s (s.startWaves k) := by
  unfold State.startWaves
  split
  · exact .refl s
  · split
    · exact .refl s
    · refine (modWg s k _).trans (foldl _ (fun s i => ?_) _ _)
      extract_lets base wave s1
      have h1 : OnlyWork s s1 := addWave s wave
      split
      · exact h1.trans ((addWave _ _).trans (modWave _ _ _))
      · exact h1

/-- The wave of a coarse element (R18). -/
theorem startCoarse (s : State) (k rate elem : Nat) : OnlyWork s (s.startCoarse k rate elem) := by
  unfold State.startCoarse
  split
  · exact .refl s
  · split
    · exact .refl s
    · split
      · exact .refl s
      · exact addWave _ _

theorem startWg (s : State) (k : Nat) : OnlyWork s (s.startWg k) := by
  unfold State.startWg
  split
  · exact .refl s
  · split
    · exact .refl s
    · split
      · exact .refl s
      · split
        · exact (startCoarse _ _ _ _).trans (modWg _ _ _)
        · split
          · exact startWaves _ _
          · exact .refl s

theorem startGang (s : State) (key : Nat) : OnlyWork s (s.startGang key) := by
  unfold State.startGang
  split
  · exact .refl s
  · split
    · exact .refl s
    · dsimp only
      split
      · split
        · exact (startCoarse _ _ _ _).trans (modLaunch _ _ _)
        · exact .refl s
      · split
        · split
          · exact (startCoarse _ _ _ _).trans (modGang _ _ _)
          · exact .refl s
        · exact foldl _ startWg _ _

end OnlyWork

/-- Showing a core what nodes have written changes only which writes are hidden from it (R172, R181). -/
theorem State.acquire_eq (s : State) (core scope : Nat) : s.acquire core scope = { s with hidden := (s.acquire core scope).hidden } := by
  unfold State.acquire
  split <;> rfl

/-- Deterministic work sets the clock's frequency and nothing else (R7). -/
theorem State.fixClock_eq (s : State) : s.fixClock = { s with dev := { s.dev with clockMHz := s.fixClock.dev.clockMHz } } := by
  unfold State.fixClock
  split <;> rfl

end Sys2Proof.Machine
end

section
/-!
PROOFS. The events of the part itself: what they report, the ports, the clock and the time (spec/01 R7, spec/21 R411, R412,
R414, spec/25 R438, R439, R442).
-/

namespace Sys2Proof.Machine

/-! ### Reports (R441) -/

/-- A state holds the report of an event: counted once more, and sent with an interrupt message to every management node. -/
def Reports (s : State) (code : Nat) (t : State) : Prop :=
  t.dev.telemetry = tset 0 s.dev.telemetry code (tget 0 s.dev.telemetry code + 1) ∧
    Out.event code ∈ t.out ∧ ∀ x ∈ s.parts, ∃ v, Out.irq x.mgmt v ∈ t.out

/-- State.report does so for every state with the same counts and partitions. -/
theorem State.report_reports {s b : State} (code : Nat) (hd : b.dev.telemetry = s.dev.telemetry) (hp : b.parts = s.parts) :
    Reports s code (b.report code) := by
  refine ⟨?_, by simp [State.report], fun x hx => ?_⟩
  · rw [← hd]; rfl
  · exact ⟨_, List.mem_append_right _ (List.mem_cons_of_mem _ (List.mem_map.mpr ⟨x, hp ▸ hx, rfl⟩))⟩

/-! ### Clock stop and over-temperature (R414, R442) -/

theorem execClockStop_ignored {s : State} (h : s.dev.lcstate = 2 ∨ s.dev.lcstate = 4) :
    ∃ t, execClockStop s = .next t ∧ Reports s evStopIgnored t ∧
      t = { s with out := t.out, dev := { s.dev with telemetry := t.dev.telemetry } } :=
  ⟨_, if_pos h, State.report_reports (s := s) _ rfl rfl, rfl⟩

theorem execClockStop_stops {s : State} (h2 : s.dev.lcstate ≠ 2) (h4 : s.dev.lcstate ≠ 4) :
    execClockStop s = .next { s with dev := { s.dev with selfRefresh := true, stopped := true } } :=
  if_neg (not_or.mpr ⟨h2, h4⟩)

theorem execOvertemperatureStop_absent {s : State} {die : Nat} (h : 4 ≤ die) : execOvertemperatureStop die s = .next s := if_pos h

theorem execOvertemperatureStop_stops {s : State} {die : Nat} (h : die < 4) :
    ∃ t, execOvertemperatureStop die s = .next t ∧ Reports s evOvertemperature t ∧
      t = { s with out := t.out, dev := { s.dev with telemetry := t.dev.telemetry, stopped := true, overheated := true } } :=
  ⟨_, if_neg (Nat.not_le.mpr h), State.report_reports (s := s) (b := s) _ rfl rfl, rfl⟩

/-! ### Ports (R411) -/

/-- The ports of a kind: Ethernet or fabric. -/
def State.ports (s : State) (eth : Bool) : List Port := if eth then s.dev.ethernet else s.dev.fabric

theorem State.port?_eq (s : State) (eth : Bool) (port : Nat) : s.port? eth port = (s.ports eth)[port]? := by
  cases eth <;> rfl

@[simp] theorem State.ports_modPort (s : State) (eth : Bool) (port : Nat) (f : Port → Port) :
    (s.modPort eth port f).ports eth = lmod (s.ports eth) port f := by
  cases eth <;> rfl

theorem State.modPort_eq (s : State) (eth : Bool) (port : Nat) (f : Port → Port) :
    s.modPort eth port f = { s with dev := { s.dev with
      ethernet := (s.modPort eth port f).dev.ethernet, fabric := (s.modPort eth port f).dev.fabric } } := by
  cases eth <;> rfl

/-- A changed port, and the other ports of its kind. -/
theorem State.ports_modPort_same {s : State} {eth : Bool} {port : Nat} {x : Port} (f : Port → Port)
    (hx : (s.ports eth)[port]? = some x) : ((s.modPort eth port f).ports eth)[port]? = some (f x) := by
  simp [getElem?_lmod, hx]

theorem State.ports_modPort_other (s : State) (eth : Bool) {port k : Nat} (f : Port → Port) (h : k ≠ port) :
    ((s.modPort eth port f).ports eth)[k]? = (s.ports eth)[k]? := by
  simp [getElem?_lmod, h]

/-- A change of a port that is reported: the report, the port, and nothing else. -/
theorem State.modPort_report {s : State} {eth : Bool} {port : Nat} {x : Port} (f : Port → Port) (code : Nat)
    (hx : (s.ports eth)[port]? = some x) :
    let t := (s.modPort eth port f).report code
    Reports s code t ∧ (t.ports eth)[port]? = some (f x) ∧ (∀ k, k ≠ port → (t.ports eth)[k]? = (s.ports eth)[k]?) ∧
      t = { s with out := t.out, dev := { s.dev with
        telemetry := t.dev.telemetry, ethernet := t.dev.ethernet, fabric := t.dev.fabric } } := by
  have he := s.modPort_eq eth port f
  refine ⟨report_reports _ (by rw [he]) (by rw [he]), ports_modPort_same f hx, fun k hk => ports_modPort_other s eth f hk, ?_⟩
  cases eth <;> rfl

/-- What a port becomes when a lane of it fails: the spare takes the first one's place, a second one halves the port. -/
def Port.failed (x : Port) (lane : Nat) : Port :=
  if x.badLanes = [] then { x with badLanes := [lane], retraining := true } else { x with badLanes := x.badLanes ++ [lane], half := true }

theorem execLaneFailure_void {s : State} {eth : Bool} {port lane : Nat} {x : Port} (hx : (s.ports eth)[port]? = some x)
    (h : (if eth then 9 else 5) ≤ lane ∨ lane ∈ x.badLanes) : execLaneFailure eth port lane s = .next s := by
  simp only [execLaneFailure, State.port?_eq, hx]
  exact if_pos (by simpa using h)

theorem execLaneFailure_fails {s : State} {eth : Bool} {port lane : Nat} {x : Port} (hx : (s.ports eth)[port]? = some x)
    (hw : lane < if eth then 9 else 5) (hl : lane ∉ x.badLanes) :
    ∃ t, execLaneFailure eth port lane s = .next t ∧ Reports s (if x.badLanes = [] then evLaneSpared else evHalfWidth) t ∧
      (t.ports eth)[port]? = some (x.failed lane) ∧ (∀ k, k ≠ port → (t.ports eth)[k]? = (s.ports eth)[k]?) ∧
      t = { s with out := t.out, dev := { s.dev with
        telemetry := t.dev.telemetry, ethernet := t.dev.ethernet, fabric := t.dev.fabric } } := by
  have hv : ¬(decide ((if eth then 9 else 5) ≤ lane) || x.badLanes.contains lane) = true := by simp [hw, hl]
  simp only [execLaneFailure, State.port?_eq, hx, Port.failed]
  rw [if_neg hv]
  by_cases hb : x.badLanes = []
  · simp only [if_pos hb]
    exact ⟨_, rfl, by simpa [hb] using State.modPort_report (fun p => { p with badLanes := p.badLanes ++ [lane], retraining := true }) _ hx⟩
  · simp only [if_neg hb]
    exact ⟨_, rfl, State.modPort_report _ _ hx⟩

theorem execLaneRetrainComplete_trained {s : State} {eth : Bool} {port : Nat} {x : Port} (hx : (s.ports eth)[port]? = some x) :
    ∃ t, execLaneRetrainComplete eth port s = .next t ∧ (t.ports eth)[port]? = some { x with retraining := false } ∧
      t = { s with dev := { s.dev with ethernet := t.dev.ethernet, fabric := t.dev.fabric } } :=
  ⟨_, rfl, State.ports_modPort_same _ hx, s.modPort_eq eth port _⟩

/-! ### The CXL tier (R439) -/

/-- An address in a range that has lost its link is not served. -/
theorem State.served_of_down {s : State} {pa : Nat} {r : Nat × Nat} (hr : r ∈ s.dev.cxlDown) (hl : r.1 ≤ pa) (hh : pa < r.1 + r.2) :
    s.served pa = none := by
  have hd : s.dev.cxlDown.any (fun r => decide (r.1 ≤ pa) && decide (pa < r.1 + r.2)) = true :=
    List.any_eq_true.mpr ⟨r, hr, by simp [hl, hh]⟩
  simp only [State.served, hd, if_true, ite_self]

theorem execCxlLinkFailure_down {s : State} {port : Nat} (h : port < 4) :
    ∃ t, execCxlLinkFailure port s = .next t ∧ Reports s evCxlDown t ∧
      let r := Config.cxlRange port
      t = { s with out := t.out, dev := { s.dev with telemetry := t.dev.telemetry, cxlDown := t.dev.cxlDown } } ∧
      (∀ x ∈ s.dev.cxlDown, x ∈ t.dev.cxlDown) ∧
      ∀ pa, Config.cxlBase + r.1 % Config.cxlBytes ≤ pa → pa < Config.cxlBase + r.1 % Config.cxlBytes + r.2 →
        pa < Config.cxlBase + Config.cxlBytes → t.served pa = none := by
  refine ⟨_, if_neg (Nat.not_le.mpr h), State.report_reports (s := s) _ rfl rfl, rfl, fun x hx => ?_, fun pa hl hr ht => ?_⟩
  · by_cases hx' : x = (Config.cxlBase + (Config.cxlRange port).1 % Config.cxlBytes, min (Config.cxlRange port).2
      (Config.cxlBase + Config.cxlBytes - (Config.cxlBase + (Config.cxlRange port).1 % Config.cxlBytes)))
    · exact List.mem_append_right _ (List.mem_singleton.mpr hx')
    · exact List.mem_append_left _ (List.mem_filter.mpr ⟨hx, bne_iff_ne.mpr hx'⟩)
  · exact State.served_of_down (List.mem_append_right _ (List.mem_singleton_self _)) hl (by omega)

/-! ### Power (R7, R247) -/

/-- The highest of a list is in it, or 0, and none of the list is above it. -/
theorem foldl_max_spec (l : List Nat) : l.foldl max 0 ∈ 0 :: l ∧ ∀ b ∈ 0 :: l, b ≤ l.foldl max 0 :=
  List.max?_eq_some_iff.mp List.max?_cons'

/-- A commitment of a partition whose window is open at a tick. -/
def State.Held (s : State) (clk : Nat) (f : Nat × Nat) : Prop :=
  (∃ x ∈ s.parts, f ∈ x.floors) ∧ f.1 ≤ clk ∧ clk < f.1 + Config.ticks1us

/-- The commitments that the floor of a tick is taken from. -/
theorem State.mem_floors {s : State} {clk n : Nat} :
    n ∈ s.parts.flatMap (fun p => (p.floors.filter (fun f => decide (f.1 ≤ clk) && decide (clk < f.1 + Config.ticks1us))).map Prod.snd) ↔
      ∃ f, s.Held clk f ∧ f.2 = n := by
  simp only [List.mem_flatMap, List.mem_map, List.mem_filter, Bool.and_eq_true, decide_eq_true_eq, State.Held]
  constructor
  · rintro ⟨x, hx, f, ⟨hf, hc⟩, rfl⟩
    exact ⟨f, ⟨⟨x, hx, hf⟩, hc⟩, rfl⟩
  · rintro ⟨f, ⟨⟨x, hx, hf⟩, hc⟩, rfl⟩
    exact ⟨x, hx, f, ⟨hf, hc⟩, rfl⟩

theorem State.le_floorAt {s : State} {clk : Nat} {f : Nat × Nat} (h : s.Held clk f) : f.2 ≤ s.floorAt clk :=
  (foldl_max_spec _).2 _ (List.mem_cons_of_mem _ (State.mem_floors.mpr ⟨f, h, rfl⟩))

theorem State.floorAt_held (s : State) (clk : Nat) : s.floorAt clk = 0 ∨ ∃ f, s.Held clk f ∧ f.2 = s.floorAt clk :=
  (List.mem_cons.mp (foldl_max_spec _).1).imp_right State.mem_floors.mp

theorem execPowerLimitExceeded_det {s : State} (h : s.detRuns = true) :
    ∃ t, execPowerLimitExceeded s = .next t ∧ Reports s evThermal t ∧
      t = { s with out := t.out, dev := { s.dev with telemetry := t.dev.telemetry, throttled := true, clockMHz := 1200 } } :=
  ⟨_, if_pos h, State.report_reports (s := s) _ rfl rfl, rfl⟩

/-- The clock that power control lowers to: a free one from 600 MHz on, but no higher than the clock was. -/
def State.lowered (s : State) : Nat := min s.dev.clockMHz (600 + (s.free (freeAt 352 1)).toNat % 601)

theorem execPowerLimitExceeded_lowers {s : State} (h : s.detRuns = false) :
    execPowerLimitExceeded s =
      .next ({ s with dev := { s.dev with clockMHz := max s.lowered (s.floorAt s.dev.clk) } }.useFree) := by
  simp [execPowerLimitExceeded, State.clockAt, State.lowered, h]

theorem execPowerLimitExceeded_bounds {s : State} (h : s.detRuns = false) :
    ∃ t, execPowerLimitExceeded s = .next t ∧ min 600 s.dev.clockMHz ≤ t.dev.clockMHz ∧
      (∀ f, s.Held s.dev.clk f → f.2 ≤ t.dev.clockMHz) ∧
      (t.dev.clockMHz ≤ s.dev.clockMHz ∨ ∃ f, s.Held s.dev.clk f ∧ f.2 = t.dev.clockMHz) ∧
      t = { s with dev := { s.dev with clockMHz := t.dev.clockMHz }, freeCtr := t.freeCtr } := by
  have hlo : min 600 s.dev.clockMHz ≤ s.lowered := by unfold State.lowered; omega
  have hhi : s.lowered ≤ s.dev.clockMHz := Nat.min_le_left _ _
  refine ⟨_, execPowerLimitExceeded_lowers h, Nat.le_trans hlo (Nat.le_max_left _ _),
    fun f hf => Nat.le_trans (State.le_floorAt hf) (Nat.le_max_right _ _), ?_, rfl⟩
  change max s.lowered (s.floorAt s.dev.clk) ≤ _ ∨ ∃ f, s.Held s.dev.clk f ∧ f.2 = max s.lowered (s.floorAt s.dev.clk)
  rcases Nat.le_total (s.floorAt s.dev.clk) s.lowered with hm | hm
  · exact .inl (by rwa [Nat.max_eq_left hm])
  · rw [Nat.max_eq_right hm]
    rcases s.floorAt_held s.dev.clk with h0 | hf
    · exact .inl (by omega)
    · exact .inr hf

/-! ### Row repair and time (R412, R438) -/

theorem execHbmRowRepair_counts {s : State} {stack channel row : Nat} (hs : stack < 12) (hc : channel < 32) :
    execHbmRowRepair stack channel row s = .next (s.count evRowRepaired) :=
  if_neg (by omega)

theorem execPtpOffsetCorrection_steps {s : State} {n : Int} (h : 1000000 < n) :
    execPtpOffsetCorrection n s = .next { s with dev := { s.dev with ptp := s.dev.ptp + n.toNat, slew := 0, ptpLocked := true } } :=
  if_pos h

theorem execPtpOffsetCorrection_slews {s : State} {n : Int} (h : n ≤ 1000000) :
    execPtpOffsetCorrection n s = .next { s with dev := { s.dev with slew := n, ptpLocked := true } } :=
  if_neg (Int.not_lt.mpr h)

end Sys2Proof.Machine
end

section
/-!
PROOFS. A reset and the boot that follows it (spec/18 R355, R356, R362), and the statement about the part's own events.
-/

namespace Sys2Proof.Machine

/-! ### What a reset leaves (R355, R356) -/

/-- The keys after a reset are newer than every key before it (R355). -/
theorem State.keygen_reset {s : State} {x y : Partition} (hx : x ∈ s.afterReset.rekey.parts) (hy : y ∈ s.parts) :
    y.keygen < x.keygen := by
  have hx' : x.keygen = (s.parts.map (·.keygen)).foldl max 0 + 1 := by
    obtain rfl := List.mem_singleton.mp hx
    rfl
  have hle := (foldl_max_spec (s.parts.map (·.keygen))).2 y.keygen (List.mem_cons_of_mem _ (List.mem_map_of_mem hy))
  omega

/-! ### What a boot changes (R362) -/

theorem State.foldl_acquire_eq (cores : List Nat) (scope : Nat) (s : State) :
    cores.foldl (fun s c => s.acquire c scope) s = { s with hidden := (cores.foldl (fun s c => s.acquire c scope) s).hidden } := by
  induction cores generalizing s with
  | nil => rfl
  | cons c cores ih =>
    have h := ih (s.acquire c scope)
    rw [s.acquire_eq c scope] at h
    rw [List.foldl_cons, s.acquire_eq c scope]
    exact h

/-- The admission of a gang makes its units and waves, and may fix the clock's frequency (R7, R234). -/
theorem State.admitNew_eq (s : State) (u : Nat) (l : Launch) (cores : List Nat) :
    s.admitNew u l cores = { s with
      hidden := (s.admitNew u l cores).hidden, waves := (s.admitNew u l cores).waves, wgs := (s.admitNew u l cores).wgs
      gangs := (s.admitNew u l cores).gangs, launches := (s.admitNew u l cores).launches
      nextKey := (s.admitNew u l cores).nextKey
      dev := { s.dev with clockMHz := (s.admitNew u l cores).dev.clockMHz } } := by
  unfold State.admitNew
  extract_lets gk keys gang group s1 s2
  have h2 : s2 = { s1 with hidden := s2.hidden } := by
    unfold s2
    split
    · exact State.foldl_acquire_eq cores 5 s1
    · rfl
  have h3 := (OnlyWork.modLaunch s2 u (fun l => { l with nextGang := l.nextGang + 1 })).trans (.startGang _ gk)
  generalize (s2.modLaunch u _).startGang gk = s3 at h3
  unfold OnlyWork at h3
  rw [s3.fixClock_eq, h3, h2]

/-- What a boot may change of a state: memory, the units of context 0, and a report; of the device what it has measured,
whether it has booted, the clock's frequency and the counts. -/
def Boots (s t : State) : Prop :=
  t = { s with
    mem := t.mem, bad := t.bad, keyed := t.keyed, hidden := t.hidden, waves := t.waves, wgs := t.wgs, gangs := t.gangs
    launches := t.launches, ctxs := t.ctxs, nextKey := t.nextKey, out := t.out
    dev := { s.dev with booted := t.dev.booted, m0 := t.dev.m0, clockMHz := t.dev.clockMHz, telemetry := t.dev.telemetry } }

namespace Boots

theorem trans {s t u : State} (h : Boots s t) (k : Boots t u) : Boots s u := by
  unfold Boots at h k
  rw [h] at k
  exact k

theorem writePa (s : State) (pa : Nat) (bs : List Byte) : Boots s (s.writePa pa bs) := rfl

theorem loadImage (s : State) (f : FirmwareImage) : Boots s (s.loadImage f) :=
  (writePa _ _ _).trans ((writePa _ _ _).trans ((writePa _ _ _).trans (writePa _ _ _)))

theorem admitNew (s : State) (u : Nat) (l : Launch) (cores : List Nat) : Boots s (s.admitNew u l cores) := by
  have h := s.admitNew_eq u l cores
  generalize s.admitNew u l cores = t at h
  unfold Boots
  rw [h]

end Boots

/-- The state in which the firmware's gang is admitted: context 0 and its control launch stand. -/
def State.firmwareReady (s : State) (f : FirmwareImage) (c : Ctx) (l : Launch) : State :=
  { s with
    ctxs := aset s.ctxs 0 c, launches := s.launches ++ [(s.nextKey, l)]
    dev := { s.dev with booted := true, m0 := measure (sha384 f.bytes) }, nextKey := s.nextKey + 1 }

theorem Boots.firmwareReady (s : State) (f : FirmwareImage) (c : Ctx) (l : Launch) : Boots s (s.firmwareReady f c l) := rfl

/-- The start of the firmware loads the image, makes context 0, which is privileged (R36), and admits its gang (R362). -/
theorem State.startFirmware_eq (s : State) (f : FirmwareImage) : ∃ c l, c.priv = true ∧
    s.startFirmware f = ((s.loadImage f).firmwareReady f c l).admitNew (s.loadImage f).nextKey l [0] :=
  ⟨_, _, rfl, rfl⟩

@[simp] theorem State.writePa_ctxs (s : State) (pa : Nat) (bs : List Byte) : (s.writePa pa bs).ctxs = s.ctxs := rfl

@[simp] theorem State.loadImage_ctxs (s : State) (f : FirmwareImage) : (s.loadImage f).ctxs = s.ctxs := by
  simp only [State.loadImage, State.writePa_ctxs]

@[simp] theorem State.firmwareReady_ctxs (s : State) (f : FirmwareImage) (c : Ctx) (l : Launch) :
    (s.firmwareReady f c l).ctxs = aset s.ctxs 0 c := rfl

@[simp] theorem State.admitNew_ctxs (s : State) (u : Nat) (l : Launch) (cores : List Nat) :
    (s.admitNew u l cores).ctxs = s.ctxs := by
  rw [State.admitNew_eq]

@[simp] theorem State.admitNew_booted (s : State) (u : Nat) (l : Launch) (cores : List Nat) :
    (s.admitNew u l cores).dev.booted = s.dev.booted := by
  rw [State.admitNew_eq]

@[simp] theorem State.admitNew_m0 (s : State) (u : Nat) (l : Launch) (cores : List Nat) :
    (s.admitNew u l cores).dev.m0 = s.dev.m0 := by
  rw [State.admitNew_eq]

/-- After the start of the firmware the part has booted, M0 measures the image, and context 0 is privileged. -/
theorem State.startFirmware_spec (s : State) (f : FirmwareImage) :
    Boots s (s.startFirmware f) ∧ (s.startFirmware f).dev.booted = true ∧
      (s.startFirmware f).dev.m0 = measure (sha384 f.bytes) ∧
      ∃ c, c.priv = true ∧ (s.startFirmware f).ctxs = aset s.ctxs 0 c := by
  obtain ⟨c, l, hc, h⟩ := s.startFirmware_eq f
  rw [h]
  refine ⟨(Boots.loadImage s f).trans ((Boots.firmwareReady _ f c l).trans (.admitNew _ _ l [0])), ?_, ?_, c, hc, ?_⟩
  · rw [State.admitNew_booted]; rfl
  · rw [State.admitNew_m0]; rfl
  · simp only [State.admitNew_ctxs, State.firmwareReady_ctxs, State.loadImage_ctxs]

/-- The life-cycle states in which nothing boots, and an image that is missing or not verified. -/
def State.NoBoot (s : State) : Prop :=
  s.dev.lcstate = 0 ∨ s.dev.lcstate = 4 ∨ s.dev.image = none ∨ ∃ f, s.dev.image = some f ∧ s.imageVerified f = false

theorem State.boot_of_noBoot {s : State} (h : s.NoBoot) : s.boot = s ∨ s.boot = s.report evBootFailed := by
  unfold State.boot
  split
  · exact .inl rfl
  · rename_i hlc
    obtain h0 | h4 | himg | ⟨f, himg, hf⟩ := h
    · exact absurd (.inl h0) hlc
    · exact absurd (.inr h4) hlc
    · right; rw [himg]
    · right; simp [himg, hf]

theorem State.boot_of_verified {s : State} {f : FirmwareImage} (h0 : s.dev.lcstate ≠ 0) (h4 : s.dev.lcstate ≠ 4)
    (hi : s.dev.image = some f) (hf : s.imageVerified f = true) : s.boot = s.startFirmware f := by
  simp [State.boot, h0, h4, hi, hf]

/-- A boot ends in one of the two ways, and changes no more than a boot may. -/
theorem Boots.boot (s : State) : Boots s s.boot := by
  by_cases h : s.NoBoot
  · rcases State.boot_of_noBoot h with hb | hb <;> rw [hb] <;> rfl
  · simp only [State.NoBoot, not_or, not_exists, not_and, Bool.not_eq_false] at h
    obtain ⟨h0, h4, hi, hv⟩ := h
    obtain ⟨f, hf⟩ := Option.ne_none_iff_exists'.mp hi
    rw [State.boot_of_verified h0 h4 hf (hv f hf)]
    exact (s.startFirmware_spec f).1

/-! ### The reset -/

/-- Everything that a reset wipes or keeps, whether or not an image boots. -/
theorem execReset_wipes (s : State) :
    let t := s.afterReset.rekey.boot
    t.dev.lcstate = s.dev.lcstate ∧ t.dev.clk = 0 ∧ t.dev.stopped = false ∧ t.windows = [] ∧
      t.redirect = s.redirect ∧ t.retired = s.retired ∧ t.recs = [] ∧ t.draws = [] ∧ t.tlb = [] ∧
      ∀ x ∈ t.parts, ∀ y ∈ s.parts, y.keygen < x.keygen := by
  have h := Boots.boot s.afterReset.rekey
  unfold Boots at h
  rw [h]
  exact ⟨rfl, rfl, rfl, rfl, rfl, rfl, rfl, rfl, rfl, fun _ hx _ hy => State.keygen_reset hx hy⟩

theorem execReset_noBoot {s : State} (h : s.NoBoot) :
    let t := s.afterReset.rekey.boot
    t.ctxs = [] ∧ t.waves = [] ∧ t.dev.booted = false := by
  have h' : s.afterReset.rekey.NoBoot := h
  rcases State.boot_of_noBoot h' with hb | hb <;> rw [hb] <;> exact ⟨rfl, rfl, rfl⟩

theorem execReset_boots {s : State} {f : FirmwareImage} (h0 : s.dev.lcstate ≠ 0) (h4 : s.dev.lcstate ≠ 4)
    (hi : s.dev.image = some f) (hf : s.imageVerified f = true) :
    let t := s.afterReset.rekey.boot
    t.dev.booted = true ∧ t.dev.m0 = measure (sha384 f.bytes) ∧ (∀ k, k ≠ 0 → t.ctx? k = none) ∧
      ∃ c, t.ctx? 0 = some c ∧ c.priv = true := by
  have hb : s.afterReset.rekey.boot = s.afterReset.rekey.startFirmware f := State.boot_of_verified h0 h4 hi hf
  obtain ⟨-, hboot, hm0, c, hc, hctx⟩ := s.afterReset.rekey.startFirmware_spec f
  rw [hb]
  refine ⟨hboot, hm0, fun k hk => ?_, c, ?_, hc⟩
  · rw [State.ctx?, hctx, aget?_aset_other _ _ _ _ hk]
    rfl
  · rw [State.ctx?, hctx, aget?_aset_same]

/-- Settles O60: each event by the lemmas about it; the reset by what a boot may change of what the wiped chip holds. -/
theorem partEvents : Obligations.PartEvents := by
  intro s
  refine ⟨⟨execClockStop_ignored, execClockStop_stops, fun die => ⟨execOvertemperatureStop_absent, execOvertemperatureStop_stops⟩,
      fun eth port lane x hx => ⟨execLaneFailure_void hx, fun hw hl => execLaneFailure_fails hx hw hl,
        execLaneRetrainComplete_trained hx⟩,
      fun port h => execCxlLinkFailure_down h, execPowerLimitExceeded_det⟩,
    execPowerLimitExceeded_bounds, fun _ _ row hs hc => execHbmRowRepair_counts (row := row) hs hc,
    fun n => ⟨execPtpOffsetCorrection_steps, execPtpOffsetCorrection_slews⟩, s.afterReset.rekey.boot, rfl, ?_⟩
  obtain ⟨hlc, hclk, hstop, hwin, hred, hret, hrec, hdraw, htlb, hkey⟩ := execReset_wipes s
  exact ⟨hlc, hclk, hstop, hwin, hred, hret, hrec, hdraw, htlb, hkey, execReset_noBoot,
    fun f h0 h4 hi hf => execReset_boots h0 h4 hi hf⟩

end Sys2Proof.Machine
end

section
/-!
PROOFS. What one access of the memory side leaves in device memory (spec/09 R197, R198).
-/

namespace Sys2Proof.Machine

/-! ### Bytes written where they are served -/

theorem Memory.read_writeCells_other (place : Nat → Nat) (m : List Host.Cell) (pa : Nat) (bs : List Byte) (a : Nat)
    (h : ∀ k, k < bs.length → a ≠ place (pa + k)) : Memory.read (writeCells place m pa bs) a = Memory.read m a := by
  induction bs generalizing m pa with
  | nil => rfl
  | cons b bs ih =>
    have h0 : a ≠ place pa := h 0 (Nat.succ_pos _)
    rw [writeCells, ih _ _ (fun k hk => ?_), Memory.read_write_other _ _ _ _ h0]
    rw [show pa + 1 + k = pa + (k + 1) by omega]
    exact h (k + 1) (Nat.succ_lt_succ hk)

/-- Where no two bytes are served at one place, each byte reads as written. -/
theorem Memory.read_writeCells_same (place : Nat → Nat) (m : List Host.Cell) (pa : Nat) (bs : List Byte) (k : Nat)
    (hk : k < bs.length) (h : ∀ i j, i < j → j < bs.length → place (pa + i) ≠ place (pa + j)) :
    Memory.read (writeCells place m pa bs) (place (pa + k)) = bs[k] := by
  induction bs generalizing m pa k with
  | nil => exact absurd hk (Nat.not_lt_zero k)
  | cons b bs ih =>
    have next : ∀ i, pa + 1 + i = pa + (i + 1) := fun i => by omega
    cases k with
    | zero =>
      rw [writeCells, Memory.read_writeCells_other _ _ _ _ _ (fun j hj => ?_)]
      · exact Memory.read_write_same _ _ _
      · rw [next]
        exact h 0 (j + 1) (Nat.succ_pos _) (Nat.succ_lt_succ hj)
    | succ k =>
      rw [writeCells, ← next k]
      refine ih _ _ k (Nat.lt_of_succ_lt_succ hk) (fun i j hij hj => ?_)
      rw [next, next]
      exact h (i + 1) (j + 1) (Nat.succ_lt_succ hij) (Nat.succ_lt_succ hj)

/-- An address is served at its own offset in some frame (R413). -/
theorem State.place?_mod (s : State) (pa : Nat) : s.place? pa % 65536 = pa % 65536 := by
  simp only [State.place?, State.served]
  split
  · rfl
  · split
    · rfl
    · simp only [Option.getD_some]
      split
      · rfl
      · omega

/-- Two bytes of one frame are served at two places. -/
theorem State.place?_ne {s : State} {pa n i j : Nat} (hp : pa % 65536 + n ≤ 65536) (hij : i < j) (hj : j < n) :
    s.place? (pa + i) ≠ s.place? (pa + j) := by
  intro h
  have hmod := congrArg (· % 65536) h
  simp only [State.place?_mod] at hmod
  omega

/-- Bytes written within one frame read back, and every other byte is as before. -/
theorem State.writePa_memoryTo (s : State) (pa : Nat) (bs : List Byte) (hp : pa % 65536 + bs.length ≤ 65536) :
    MemoryTo s (s.writePa pa bs) pa bs where
  bytes := by
    refine List.ext_getElem (by simp [State.readPa]) (fun k _ hk => ?_)
    simp only [State.readPa, List.getElem_map, List.getElem_range]
    exact Memory.read_writeCells_same _ _ _ _ k hk (fun i j hij hj => State.place?_ne hp hij hj)
  other := fun a ha => Memory.read_writeCells_other _ _ _ _ a ha

/-! ### One access of the memory side -/

/-- What a core has not seen of another's writes is kept apart from memory (R171). -/
theorem State.hideFrom_eq (s : State) (core pa n : Nat) :
    s.hideFrom core pa n = { s with hidden := (s.hideFrom core pa n).hidden } := by
  unfold State.hideFrom
  extract_lets s1
  split <;> rfl

/-- Curing blocks leaves no block uncorrectable that was not (R412). -/
theorem State.badPa_cure {s : State} {pa n : Nat} (l : List (Nat × Nat)) (h : s.badPa pa n = false) :
    (s.cure l).badPa pa n = false := by
  simp only [State.badPa, List.any_eq_false] at h ⊢
  exact fun b hb => h b (List.mem_filter.mp hb).1

/-- The write of one lane to plain device memory. -/
theorem State.storeLane_plain {s : State} {pa : Nat} {bs : List Byte} (ctx : Nat) (core : Option Nat)
    (h : Plain s pa bs.length) :
    ∃ t, s.storeLane ctx core (.mem pa) bs = .ok t ∧ MemoryTo s t pa bs ∧ MemorySideOnly s t ∧
      (core = none → t.hidden = s.hidden) := by
  obtain ⟨hp, hb⟩ := h
  have hb' : (s.cure [(pa, bs.length)]).badLoc (.mem pa) bs.length = false := State.badPa_cure _ hb
  unfold State.storeLane
  simp only [Loc.pa?, Option.map_some, Option.toList_some, hb', Bool.false_eq_true, if_false, State.writeLoc]
  cases core with
  | none =>
    have hm := (s.cure [(pa, bs.length)]).writePa_memoryTo pa bs hp
    exact ⟨_, rfl, ⟨hm.bytes, hm.other⟩, rfl, fun _ => rfl⟩
  | some c =>
    simp only
    rw [State.hideFrom_eq]
    generalize ((s.cure [(pa, bs.length)]).hideFrom c pa bs.length).hidden = hid
    have hm := State.writePa_memoryTo { s.cure [(pa, bs.length)] with hidden := hid } pa bs hp
    exact ⟨_, rfl, ⟨hm.bytes, hm.other⟩, rfl, nofun⟩

/-- Where no write is hidden either, only memory, its uncorrectable blocks and its keyed blocks have changed. -/
theorem MemorySideOnly.of_hidden {s t : State} (h : MemorySideOnly s t) (hh : t.hidden = s.hidden) :
    t = { s with mem := t.mem, bad := t.bad, keyed := t.keyed } := by
  unfold MemorySideOnly at h
  rw [hh] at h
  exact h

/-- A read-modify-write of plain device memory answers the old value and leaves the new one (R197). -/
theorem State.rmw_plain {s : State} {pa n : Nat} (ctx : Nat) (core : Option Nat) (op : Nat) (data : List Byte) (f : Nat → Nat)
    (free : Nat) (h : Plain s pa n) :
    ∃ t, s.rmw ctx core (.mem pa) n op data f free = .ok (t, leNat (s.readPa pa n)) ∧
      MemoryTo s t pa (toBytes n (f (leNat (s.readPa pa n)))) ∧ MemorySideOnly s t ∧ (core = none → t.hidden = s.hidden) := by
  obtain ⟨t, ht, hmem, honly, hhid⟩ := State.storeLane_plain (s := s) (bs := toBytes n (f (leNat (s.readPa pa n)))) ctx core
    (by rwa [length_toBytes])
  refine ⟨t, ?_, hmem, honly, hhid⟩
  have hb : s.badLoc (.mem pa) n = false := h.2
  simp only [State.rmw, hb, Bool.false_eq_true, if_false, State.readLoc, Option.getD_some, ht]

/-- The memory side performs an access of a launch that it has just told of it. -/
theorem State.rmw_modLaunch {s : State} {u pa n : Nat} {l : Launch} (g : Launch → Launch) (ctx op : Nat) (f : Nat → Nat)
    (hl : s.launch? u = some l) (hp : Plain s pa n) :
    ∃ t, (s.modLaunch u g).rmw ctx none (.mem pa) n op [] f 0 = .ok (t, leNat (s.readPa pa n)) ∧
      MemoryTo s t pa (toBytes n (f (leNat (s.readPa pa n)))) ∧
      t.launch? u = some (g l) ∧ (∀ k, k ≠ u → t.launch? k = s.launch? k) ∧
      t = { s with mem := t.mem, bad := t.bad, keyed := t.keyed, launches := t.launches } := by
  obtain ⟨t, hrmw, hmem, honly, hhid⟩ := State.rmw_plain (s := s.modLaunch u g) ctx none op [] f 0 hp
  have hframe := honly.of_hidden (hhid rfl)
  have hlaunches : t.launches = (s.modLaunch u g).launches := by rw [hframe]
  refine ⟨t, hrmw, ⟨hmem.bytes, hmem.other⟩, ?_, fun k hk => ?_, ?_⟩
  · rw [State.launch?, hlaunches]
    exact (State.launch?_modLaunch_same s u g).trans (congrArg _ hl)
  · rw [State.launch?, hlaunches]
    exact State.launch?_modLaunch_other s u k g hk
  · rw [hlaunches]
    exact hframe

end Sys2Proof.Machine
end

section
/-!
PROOFS. How the checks of an access, the wait at an instruction and the release from it leave a wave (spec/09 R191, spec/11
R239).
-/

namespace Sys2Proof.Machine

/-- An issue whose lanes all reach their locations passes its address checks (R367). -/
theorem State.checked_reaches {s : State} {i : Instr} {r : Run} {acc : Acc} {spaces : List Nat} {size align : Nat}
    {ptr : List Word → Word} {locs : List (Nat × Loc)} (body : State → List (Nat × Loc) → State)
    (h : Reaches s i r acc spaces size align ptr locs) :
    s.checked r acc spaces size align (s.addrs i r ptr) body =
      body (s.touch r.w.ctx ((s.addrs i r ptr).map Prod.snd)) locs := by
  unfold Reaches at h
  simp only [State.checked, h]
  rfl

/-- A machine whose waves but one are those of another ends an issue as that one does. -/
theorem Finished.of_waves {b c : State} {i : Instr} {r : Run} {w0 : Wave} {t : State} {w' : Wave} {next : Nat → Word}
    (h : Finished c i r w0 t w' next) (hc : c = { b with waves := c.waves }) (ho : OtherWaves b c r.c.wid) :
    Finished b i r w0 t w' next := by
  obtain ⟨⟨hm, hg, hp⟩, hw, hoth, hrest, hq, hth, hret⟩ := h
  generalize c.waves = ws at hc
  subst hc
  exact ⟨⟨hm, hg, hp⟩, hw, fun k hk => (hoth k hk).trans (ho k hk), hrest, hq, hth, hret⟩

/-- Ending an issue with a wait stops its executing threads at the instruction. -/
theorem State.finishWait_stopsEach {b : State} {i : Instr} {r : Run} {w1 : Wave} (wait : Nat → Wait)
    (hw : b.wave? r.c.wid = some w1) : StopsEach b i r w1 wait (b.finishWait i r wait) := by
  obtain ⟨f1, f2, -⟩ := Wave.foldl_modThread (lanesOf r.ex) (nodup_lanesOf _) (fun t th => { th with wait := wait t }) w1
  obtain ⟨w', h⟩ := State.finishTo_finished
    (b.modWave r.c.wid (fun w => (lanesOf r.ex).foldl (fun w t => w.modThread t (fun th => { th with wait := wait t })) w)) i r _
    (fun t => if r.ex.getLsbD t then (r.c.pc, (r.w.thread t).source) else (nextPc i r, none))
    (by rw [State.wave?_modWave_same, hw]; rfl)
  have hn : (fun l => ((if r.ex.getLsbD l then (r.c.pc, (r.w.thread l).source) else (nextPc i r, none) :
      Word × Option Word)).1) = targets i r (fun _ => r.c.pc) := by
    funext l
    unfold targets
    split <;> rfl
  rw [hn] at h
  refine ⟨_, w', h.of_waves rfl (fun k hk => State.wave?_modWave_other _ _ _ _ hk), f2, fun l hl => ?_⟩
  rw [f1 l]
  by_cases hx : r.ex.getLsbD l = true
  · simp [hx, hl]
  · simp [hx]

/-- A thread that waits, and whose wait is no earlier one of its handler's, goes on past its instruction (R256). -/
theorem Thread.released_waits {th : Thread} {p : Wait → Bool} (hw : p th.wait = true) (hs : p th.stood = false) :
    th.released p = { th with wait := .none, pc := th.pc + 8 } := by
  simp [Thread.released, hw, hs]

/-- A release lets the waiting threads of its lanes go on, and changes nothing but its wave's threads. -/
theorem State.release_spec {s : State} {wid : Nat} {w : Wave} (lanes : Lanes) (p : Wait → Bool)
    (hw : s.wave? wid = some w) :
    ∃ w', (s.release wid lanes p).wave? wid = some w' ∧ w' = { w with threads := w'.threads } ∧ Released w w' lanes p := by
  obtain ⟨f1, f2, -⟩ := Wave.foldl_modThread (lanesOf lanes) (nodup_lanesOf _)
    (fun _ th => if th.exited then th else th.released p) w
  refine ⟨_, ?_, f2, fun l hl hlt he hp hs => ?_⟩
  · unfold State.release
    rw [State.wave?_modWave_same, hw]
    rfl
  · rw [f1 l, if_pos ⟨(mem_lanesOf _ _).mpr hl, hlt⟩, he]
    exact Thread.released_waits hp hs

/-- An entry that an issue adds stands in its wave. -/
theorem State.wave?_addEntry {b : State} {r : Run} {w : Wave} (e : Entry) (hw : b.wave? r.c.wid = some w) :
    (b.addEntry r e).wave? r.c.wid = some (w.withEntry (b.entryIn r w e)) := by
  unfold State.addEntry
  rw [State.wave?_modWave_same, hw]
  rfl

/-- The place and the number that an entry takes are those of its wave, whatever its threads are. -/
theorem OfIssue.of_threads {e : Entry} {i : Instr} {r : Run} {v w : Wave} (h : OfIssue e i r v)
    (hv : v = { w with threads := v.threads }) : OfIssue e i r w := by
  generalize v.threads = T at hv
  subst hv
  exact ⟨h.ins, h.pc, h.w0, h.w1, h.exec, h.slot, h.seq⟩

@[simp] theorem State.launchOf_touch (s : State) (ctx : Nat) (l : List Word) (w : Wave) :
    (s.touch ctx l).launchOf w = s.launchOf w := by
  rw [State.touch_spec]; rfl

/-- Filling the translation buffers moves no workgroup (R14). -/
@[simp] theorem State.wgIndex_touch (s : State) (ctx : Nat) (l : List Word) (k : Nat) :
    ((s.touch ctx l).wg? k).map (s.touch ctx l).wgIndex = (s.wg? k).map s.wgIndex := by
  rw [State.touch_spec]; rfl

end Sys2Proof.Machine
end

section
/-!
PROOFS. FADDO: the order of its keys, its issue and its turns (spec/05 R99, spec/09 R199).
-/

namespace Sys2Proof.Machine

/-! ### The order of the keys (R99) -/

theorem Contribution.before_iff (a b : Contribution) : a.before b = true ↔
    a.wg < b.wg ∨ a.wg = b.wg ∧ (a.tid < b.tid ∨ a.tid = b.tid ∧ a.seq < b.seq) := by
  simp [Contribution.before, lexLt]

theorem Contribution.before_self (a : Contribution) : a.before a = false := by
  rw [← Bool.not_eq_true, Contribution.before_iff]
  omega

/-- The order of the keys is total: what is not before a key is not before what that key is not before. -/
theorem Contribution.not_before_trans {a b c : Contribution} (h1 : a.before b = false) (h2 : b.before c = false) :
    a.before c = false := by
  rw [← Bool.not_eq_true, Contribution.before_iff] at *
  omega

/-- Of a contribution and of what was found before it, if anything, the one with the lower key. -/
def Contribution.lower (a : Contribution) : Option Contribution → Contribution
  | none => a
  | some d => if a.before d then a else d

theorem Contribution.lower_mem (a : Contribution) (b : Option Contribution) : a.lower b = a ∨ b = some (a.lower b) := by
  cases b with
  | none => exact .inl rfl
  | some d =>
    simp only [Contribution.lower]
    split
    · exact .inl rfl
    · exact .inr rfl

theorem Contribution.not_before_lower (a : Contribution) (b : Option Contribution) :
    a.before (a.lower b) = false ∧ ∀ d ∈ b, d.before (a.lower b) = false := by
  cases b with
  | none => exact ⟨a.before_self, fun d hd => absurd hd (Option.not_mem_none d)⟩
  | some d =>
    simp only [Contribution.lower, Option.mem_some_iff, forall_eq']
    split
    · rename_i had
      refine ⟨a.before_self, ?_⟩
      rw [Contribution.before_iff] at had
      rw [← Bool.not_eq_true, Contribution.before_iff]
      omega
    · rename_i had
      exact ⟨Bool.eq_false_iff.mpr had, d.before_self⟩

/-- The lowest of a list and of what was found before it is one of them, and none of them is before it. -/
theorem Contribution.foldl_lower {L : List Contribution} {b : Option Contribution} {c : Contribution}
    (h : L.foldl (fun b a => some (a.lower b)) b = some c) :
    (c ∈ L ∨ b = some c) ∧ (∀ d ∈ L, d.before c = false) ∧ ∀ d ∈ b, d.before c = false := by
  induction L generalizing b with
  | nil =>
    rw [List.foldl_nil] at h
    subst h
    simp [c.before_self]
  | cons a L ih =>
    obtain ⟨hmem, hL, hlow⟩ := ih h
    have hc : (a.lower b).before c = false := hlow _ rfl
    obtain ⟨ha, hb⟩ := a.not_before_lower b
    refine ⟨?_, List.forall_mem_cons.mpr ⟨Contribution.not_before_trans ha hc, hL⟩,
      fun d hd => Contribution.not_before_trans (hb d hd) hc⟩
    rcases hmem with hm | hm
    · exact .inl (List.mem_cons_of_mem _ hm)
    · rw [← Option.some.inj hm]
      exact (a.lower_mem b).imp_left (fun e => by rw [e]; exact List.mem_cons_self)

/-- The next contribution to an address is the lowest of those that wait there (R99). -/
theorem Launch.nextFaddo_spec {l : Launch} {pa : Nat} {c : Contribution} (h : l.nextFaddo pa = some c) :
    c ∈ l.faddo ∧ c.loc = .mem pa ∧ ∀ d ∈ l.faddo, d.loc = .mem pa → d.before c = false := by
  have hstep : l.nextFaddo pa =
      (l.faddo.filter (fun c => c.loc == .mem pa)).foldl (fun b a => some (a.lower b)) none := by
    unfold Launch.nextFaddo
    congr 1
    funext b a
    cases b with
    | none => rfl
    | some d => exact (apply_ite some _ a d).symm
  obtain ⟨hmem, hlow, -⟩ := Contribution.foldl_lower (hstep.symm.trans h)
  obtain ⟨hc, hloc⟩ := List.mem_filter.mp (hmem.resolve_right (Option.some_ne_none c).symm)
  exact ⟨hc, beq_iff_eq.mp hloc, fun d hd hdl => hlow d (List.mem_filter.mpr ⟨hd, beq_iff_eq.mpr hdl⟩)⟩

/-! ### The issue (R199) -/

/-- The Mitten entry of an issue of FADDO none of whose contributions failed. -/
def State.faddoEntry (s : State) (o : OpM) (r : Run) (ea : List (Nat × Word)) (locs : List (Nat × Loc)) : Entry :=
  { r.entry (.faddo o) .t 2 with
    addr := (ea.head?.map Prod.snd).getD 0, ea, loc := locs
    vals := (lanesOf r.ex).map (fun t => (t, [s.regVal r.w t o.d.toNat])), st := .sent }

/-- The contributions of an issue of FADDO, under their keys (R99). -/
def State.contributions (s : State) (o : OpM) (r : Run) (e : Entry) (locs : List (Nat × Loc)) : List Contribution :=
  locs.map (fun x =>
    { loc := x.2, wg := ((s.wg? r.w.wg).map s.wgIndex).getD 0, tid := 32 * r.w.idx + x.1, seq := (r.w.thread x.1).faddoSeq
      wide := o.size.bytes == 8, value := s.regVal r.w x.1 o.d.toNat, wid := r.c.wid, lane := x.1
      coarse := r.w.kind == .coarse, entry := e })

/-- Threads of a wave have executed one more FADDO. -/
def Wave.countFaddo (w : Wave) (ex : Lanes) : Wave :=
  (lanesOf ex).foldl (fun w t => w.modThread t (fun th => { th with faddoSeq := th.faddoSeq + 1 })) w

theorem Wave.countFaddo_spec (w : Wave) (ex : Lanes) :
    w.countFaddo ex = { w with threads := (w.countFaddo ex).threads } ∧
    ∀ k, k < w.threads.length → (w.countFaddo ex).thread k = { w.thread k with
      faddoSeq := (w.thread k).faddoSeq + if ex.getLsbD k then 1 else 0 } := by
  obtain ⟨hth, hrest, -⟩ := Wave.foldl_modThread (lanesOf ex) (nodup_lanesOf _)
    (fun _ th => { th with faddoSeq := th.faddoSeq + 1 }) w
  refine ⟨hrest, fun k hk => (hth k).trans ?_⟩
  by_cases hx : ex.getLsbD k = true
  · simp [hx, hk]
  · simp [hx]

@[simp] theorem State.wave?_noteTag (s : State) (w : Wave) (i : Instr) (seq : Nat) (l : List Loc) (k : Nat) :
    (s.noteTag w i seq l).wave? k = s.wave? k := rfl
@[simp] theorem State.launch?_noteTag (s : State) (w : Wave) (i : Instr) (seq : Nat) (l : List Loc) (k : Nat) :
    (s.noteTag w i seq l).launch? k = s.launch? k := rfl

/-- The contributions of an issue wait in their launch, and its threads have counted them. -/
def State.contribute (s : State) (i : Instr) (r : Run) (locs : List (Nat × Loc)) (l : List Contribution) : State :=
  ((s.modLaunch (((s.launchOf r.w).map Prod.fst).getD 0) (fun u => { u with faddo := u.faddo ++ l })).modWave r.c.wid
    (fun w => w.countFaddo r.ex)).noteTag r.w i r.w.seqNext (locs.map Prod.snd)

/-- An issue of FADDO none of whose contributions meets an uncorrectable block. -/
theorem execFaddo_contributes {o : OpM} {s : State} {r : Run} {locs : List (Nat × Loc)} {s1 : State} {ea : List (Nat × Word)}
    (hi : Issues s (.faddo o) r) (hx : r.ex ≠ 0)
    (hr : Reaches s (.faddo o) r accAtomic [0, 4] o.size.bytes o.size.bytes (fun v => v.getD 0 0) locs)
    (hs : s1 = s.afterStores (.faddo o) r (fun v => v.getD 0 0)) (ha : ea = s.addrs (.faddo o) r (fun v => v.getD 0 0))
    (hb : ∀ x ∈ locs, s1.badLoc x.2 o.size.bytes = false) :
    exec (.faddo o) s = .next ((s1.contribute (.faddo o) r locs (s1.contributions o r
      { s1.faddoEntry o r ea locs with slot := r.w.freeEntry, seq := r.w.seqNext } locs)).finishEntry (.faddo o) r
        (s1.faddoEntry o r ea locs)) := by
  change execFaddo o s = _
  rw [execFaddo, State.issue_next hi hi.waits]
  dsimp only
  rw [State.checked_reaches _ hr]
  have hbad : locs.filter (fun x => s1.badLoc x.2 o.size.bytes) = [] :=
    List.filter_eq_nil_iff.mpr (fun x hx => by rw [hb x hx]; exact Bool.false_ne_true)
  rw [State.afterStores] at hs
  have hall : locs.filter (fun x => !(0 : Lanes).getLsbD x.1) = locs := by simp
  rw [← hs, ← ha, hbad, if_neg hx]
  simp only [List.map_nil, maskOf, if_true, hall]
  rfl

theorem State.contribute_spec {s : State} (i : Instr) {r : Run} {w1 : Wave} {u : Nat} (locs : List (Nat × Loc))
    (l : List Contribution) (hw : s.wave? r.c.wid = some w1) (hu : u = ((s.launchOf r.w).map Prod.fst).getD 0) :
    (s.contribute i r locs l).wave? r.c.wid = some (w1.countFaddo r.ex) ∧ OtherWaves s (s.contribute i r locs l) r.c.wid ∧
      (s.contribute i r locs l).launch? u = (s.launch? u).map (fun x => { x with faddo := x.faddo ++ l }) ∧
      ∀ k, k ≠ u → (s.contribute i r locs l).launch? k = s.launch? k := by
  subst hu
  unfold State.contribute
  simp only [State.wave?_noteTag, State.launch?_noteTag, State.launch?_modWave, State.wave?_modWave_same, State.wave?_modLaunch,
    State.launch?_modLaunch_same, hw, Option.map_some, true_and]
  refine ⟨fun k hk => ?_, fun k hk => State.launch?_modLaunch_other s _ _ _ hk⟩
  rw [State.wave?_noteTag, State.wave?_modWave_other _ _ _ _ hk, State.wave?_modLaunch]

/-- FADDO sends its contributions, which wait under their keys (R99, R199). -/
theorem execFaddo_spec {o : OpM} {s : State} {r : Run} {locs : List (Nat × Loc)} {s1 : State} {w1 : Wave}
    {u : Nat} (hi : Issues s (.faddo o) r) (hx : r.ex ≠ 0)
    (hr : Reaches s (.faddo o) r accAtomic [0, 4] o.size.bytes o.size.bytes (fun v => v.getD 0 0) locs)
    (hs : s1 = s.afterStores (.faddo o) r (fun v => v.getD 0 0)) (hw : s1.wave? r.c.wid = some w1)
    (hu : u = ((s1.launchOf r.w).map Prod.fst).getD 0) (hb : ∀ x ∈ locs, s1.badLoc x.2 o.size.bytes = false) :
    ∃ b t, ∃ (w0 w' : Wave) (e : Entry), exec (.faddo o) s = .next t ∧ GoesOn b (.faddo o) r (w0.withEntry e) t w' ∧
      OfIssue e (.faddo o) r w1 ∧ e.st = .sent ∧ w0 = { w1 with threads := w0.threads } ∧
      (∀ l, l < w1.threads.length → w0.thread l = { w1.thread l with
        faddoSeq := (w1.thread l).faddoSeq + if r.ex.getLsbD l then 1 else 0 }) ∧
      b = { s1 with waves := b.waves, launches := b.launches, tagrecs := b.tagrecs } ∧ OtherWaves s1 b r.c.wid ∧
      (∀ k, k ≠ u → b.launch? k = s1.launch? k) ∧
      ∃ e0, OfIssue e0 (.faddo o) r r.w ∧ b.launch? u = (s1.launch? u).map (fun x =>
        { x with faddo := x.faddo ++ s1.contributions o r e0 locs }) := by
  have hexec := execFaddo_contributes hi hx hr hs rfl hb
  obtain ⟨hrest, hth⟩ := w1.countFaddo_spec r.ex
  obtain ⟨hwb, hob, hub, hkb⟩ := State.contribute_spec (.faddo o) locs _ hw hu
  obtain ⟨c, w', hgo, hc, hco, hof⟩ := State.finishEntry_spec _ (.faddo o) r
    (s1.faddoEntry o r (s.addrs (.faddo o) r (fun v => v.getD 0 0)) locs) _ hwb hx rfl rfl rfl rfl rfl
  exact ⟨_, _, w1.countFaddo r.ex, w', _, hexec, hgo.of_waves hc hco, hof.of_threads hrest, rfl, hrest, hth, rfl, hob, hkb, _,
    ⟨rfl, rfl, rfl, rfl, rfl, rfl, rfl⟩, hub⟩

/-! ### The turns (R99) -/

/-- A contribution whose turn has not come stays (R99). -/
theorem execFaddoApply_early {s : State} {u pa : Nat} {l : Launch} {c : Contribution} (hl : s.launch? u = some l)
    (hc : l.nextFaddo pa = some c) (ht : s.faddoTurn u c = false) : exec (.faddoApply u pa) s = .next s := by
  change execFaddoApply u pa s = _
  rw [execFaddoApply, hl, Option.bind_some, hc]
  simp only [Option.map_some, ht, Bool.not_false, if_true]

/-- The lowest contribution to an address is added once its turn has come (R99). -/
theorem execFaddoApply_turn {s : State} {u pa n : Nat} {l : Launch} {c : Contribution} (hl : s.launch? u = some l)
    (hc : l.nextFaddo pa = some c) (ht : s.faddoTurn u c = true) (hn : n = if c.wide then 8 else 4) (hp : Plain s pa n) :
    ∃ t, exec (.faddoApply u pa) s = .next t ∧
      MemoryTo s t pa (toBytes n (atomFn 9 n (leNat (s.readPa pa n)) (c.value.toNat % 2 ^ (8 * n)))) ∧
      t.launch? u = some { l with faddo := l.faddo.erase c } ∧ (∀ k, k ≠ u → t.launch? k = s.launch? k) ∧
      t = { s with mem := t.mem, bad := t.bad, keyed := t.keyed, launches := t.launches } := by
  obtain ⟨-, hloc, -⟩ := Launch.nextFaddo_spec hc
  obtain ⟨t, hrmw, hmem, hu, hk, hframe⟩ := State.rmw_modLaunch (fun l => { l with faddo := l.faddo.erase c }) l.ctx 9
    (fun old => atomFn 9 n old (c.value.toNat % 2 ^ (8 * n))) hl hp
  refine ⟨t, ?_, hmem, hu, hk, hframe⟩
  change execFaddoApply u pa s = _
  rw [execFaddoApply, hl, Option.bind_some, hc]
  simp only [Option.map_some, ht, Bool.not_true, Bool.false_eq_true, if_false, hloc, ← hn, hrmw]

end Sys2Proof.Machine
end

section
/-!
PROOFS. CHAIN and its tickets (spec/09 R200), and the statement about ordered sums.
-/

namespace Sys2Proof.Machine

/-! ### The issue (R200) -/

/-- The ticket that an issue of CHAIN takes. -/
def State.ticket (s : State) (o : OpM) (r : Run) (wg : Nat) : Ticket :=
  { wg, wid := r.c.wid, entry := r.w.seqNext, lanes := r.ex
    vals := (lanesOf r.ex).map (fun t => (t, (s.srcVals r.w (.chain o) t).getD 1 0)) }

/-- The Mitten entry of an issue of CHAIN that takes a ticket. -/
def Run.chainEntry (r : Run) (o : OpM) (k : Ticket) (a : Word) (ea : List (Nat × Word)) (locs : List (Nat × Loc)) : Entry :=
  { r.entry (.chain o) .t 2 with
    addr := a, ea, loc := locs, vals := k.vals.map (fun x => (x.1, [x.2])), dest := [o.d.toNat] }

/-- A ticket stands in its chain, and its workgroup knows that it has one on the address. -/
def State.takeTicket (s : State) (u : Nat) (loc : Loc) (wide : Bool) (k : Ticket) (wg : Nat) (a : Word) : State :=
  (s.modWg wg (fun g => { g with tickets := g.tickets ++ [a] })).modLaunch u (fun l =>
    l.modChain loc wide (fun c => { c with tickets := c.tickets ++ [k] }))

theorem State.launch?_takeTicket (s : State) (u : Nat) (loc : Loc) (wide : Bool) (k : Ticket) (wg : Nat) (a : Word) :
    (s.takeTicket u loc wide k wg a).launch? u = (s.launch? u).map (fun l =>
      l.modChain loc wide (fun c => { c with tickets := c.tickets ++ [k] })) := by
  rw [State.takeTicket, State.launch?_modLaunch_same, State.launch?_modWg]

theorem State.addrs_ne_nil {s : State} {i : Instr} {r : Run} {f : List Word → Word} (hx : r.ex ≠ 0) : s.addrs i r f ≠ [] := by
  intro h
  rw [← maskOf_lanesOf r.ex, List.map_eq_nil_iff.mp h] at hx
  exact hx rfl

/-- An issue of CHAIN on one address, whose chain stands and has no ticket of the workgroup yet. -/
theorem execChain_takes {o : OpM} {s : State} {r : Run} {locs : List (Nat × Loc)} {s1 : State} {u x g : Nat} {l : Launch}
    {a : Word} {loc : Loc} (hi : Issues s (.chain o) r) (hx : r.ex ≠ 0)
    (ha : ∀ y ∈ s.addrs (.chain o) r (fun v => v.getD 0 0), y.2 = a)
    (hr : Reaches s (.chain o) r accAtomic [0, 4] o.size.bytes o.size.bytes (fun v => v.getD 0 0) locs)
    (hs : s1 = s.afterStores (.chain o) r (fun v => v.getD 0 0)) (hloc : locs.head? = some (x, loc))
    (hl : s.launchOf r.w = some (u, l)) (hg : g = ((s.wg? r.w.wg).map s.wgIndex).getD 0)
    (hbr : l.chainBroken loc = false) (hh : ((l.chain? loc).map (fun c => c.holds g)).getD false = false) :
    exec (.chain o) s = .next (((s1.takeTicket u loc (o.size.bytes == 8) (s1.ticket o r g) r.w.wg a).addEntry r
      (r.chainEntry o (s1.ticket o r g) a (s.addrs (.chain o) r (fun v => v.getD 0 0)) locs)).finishWait
        (.chain o) r (fun _ => .chain)) := by
  have hother : (s.addrs (.chain o) r (fun v => v.getD 0 0)).filter (fun y => y.2 != a) = [] :=
    List.filter_eq_nil_iff.mpr (fun y hy => by simp [ha y hy])
  have hhead : ((s.addrs (.chain o) r (fun v => v.getD 0 0)).head?.map Prod.snd).getD 0 = a := by
    rw [List.head?_eq_some_head (State.addrs_ne_nil hx)]
    exact ha _ (List.head_mem _)
  change execChain o s = _
  rw [execChain, State.issue_next hi hi.waits]
  dsimp only
  rw [if_neg hx, hhead, hother, if_neg (by decide), State.checked_reaches _ hr, State.launchOf_touch, hl, hloc]
  dsimp only
  rw [State.wgIndex_touch, ← hg, hbr, hh, if_neg (by decide)]
  rw [State.afterStores] at hs
  rw [← hs]
  rfl

/-- CHAIN takes its workgroup's ticket, and its group waits there for the ticket's turn (R200). -/
theorem execChain_spec {o : OpM} {s : State} {r : Run} {locs : List (Nat × Loc)} {s1 : State} {w1 : Wave} {u x g : Nat}
    {l : Launch} {a : Word} {loc : Loc} (hi : Issues s (.chain o) r) (hx : r.ex ≠ 0)
    (ha : ∀ y ∈ s.addrs (.chain o) r (fun v => v.getD 0 0), y.2 = a)
    (hr : Reaches s (.chain o) r accAtomic [0, 4] o.size.bytes o.size.bytes (fun v => v.getD 0 0) locs)
    (hs : s1 = s.afterStores (.chain o) r (fun v => v.getD 0 0)) (hloc : locs.head? = some (x, loc))
    (hl : s.launchOf r.w = some (u, l)) (hg : g = ((s.wg? r.w.wg).map s.wgIndex).getD 0)
    (hbr : l.chainBroken loc = false) (hh : ((l.chain? loc).map (fun c => c.holds g)).getD false = false)
    (hw : s1.wave? r.c.wid = some w1) :
    ∃ b t, ∃ (w0 w' : Wave) (e : Entry), exec (.chain o) s = .next t ∧
      Finished b (.chain o) r w0 t w' (fun l => if r.ex.getLsbD l then r.c.pc else nextPc (.chain o) r) ∧
      w0 = { w1.withEntry e with threads := w0.threads } ∧ OfIssue e (.chain o) r w1 ∧ e.st = .issued ∧ e.dest = [o.d.toNat] ∧
      (∀ l, l < w1.threads.length → w0.thread l = { w1.thread l with
        wait := if r.ex.getLsbD l then .chain else (w1.thread l).wait }) ∧
      b = { s1 with waves := b.waves, launches := b.launches, wgs := b.wgs } ∧ OtherWaves s1 b r.c.wid ∧
      b.launch? u = (s1.launch? u).map (fun l => l.modChain loc (o.size.bytes == 8) (fun c => { c with
        tickets := c.tickets ++ [s1.ticket o r g] })) := by
  have hexec := execChain_takes hi hx ha hr hs hloc hl hg hbr hh
  have hwb : (s1.takeTicket u loc (o.size.bytes == 8) (s1.ticket o r g) r.w.wg a).wave? r.c.wid = some w1 := hw
  obtain ⟨w0, w', hfin, hrest, hth⟩ := State.finishWait_stopsEach (i := .chain o) (fun _ => .chain)
    (State.wave?_addEntry (r.chainEntry o (s1.ticket o r g) a (s.addrs (.chain o) r (fun v => v.getD 0 0)) locs) hwb)
  exact ⟨_, _, w0, w', _, hexec, hfin, hrest, ⟨rfl, rfl, rfl, rfl, rfl, rfl, rfl⟩, rfl, rfl, hth, rfl,
    fun k hk => State.wave?_modWave_other _ _ _ _ hk, s1.launch?_takeTicket u loc _ _ r.w.wg a⟩

/-! ### The turns (R200) -/

/-- A launch one of whose chains has performed a ticket. -/
def Launch.perform (l : Launch) (loc : Loc) (wide : Bool) (wg : Nat) : Launch :=
  l.modChain loc wide (fun c => { c with performed := c.performed ++ [wg] })

/-- A launch one of whose chains has let a ticket go. -/
def Launch.dropTicket (l : Launch) (loc : Loc) (wide : Bool) (wg : Nat) : Launch :=
  l.modChain loc wide (fun c => { c with tickets := c.tickets.filter (fun x => x.wg != wg) })

/-- The lanes of a ticket get the sums before theirs, and go on (R200). -/
def State.answerTicket (s : State) (k : Ticket) (res : List (Nat × List Word)) : State :=
  (s.modWave k.wid (fun w => w.modEntry k.entry (fun e => { e with st := .sent, res }))).release k.wid k.lanes (· == .chain)

theorem State.answerTicket_spec {s : State} {k : Ticket} {w : Wave} (res : List (Nat × List Word))
    (hw : s.wave? k.wid = some w) :
    ∃ w', (s.answerTicket k res).wave? k.wid = some w' ∧ Released w w' k.lanes (· == .chain) ∧
      OtherWaves s (s.answerTicket k res) k.wid ∧ w' = { w with threads := w'.threads, mitten := w'.mitten } ∧
      w'.mitten = w.mitten.map (fun e => if e.seq == k.entry then { e with st := .sent, res } else e) := by
  have hw1 : (s.modWave k.wid (fun w => w.modEntry k.entry (fun e => { e with st := .sent, res }))).wave? k.wid =
      some (w.modEntry k.entry (fun e => { e with st := .sent, res })) := by
    rw [State.wave?_modWave_same, hw]; rfl
  obtain ⟨w', hw', hrest, hrel⟩ := State.release_spec k.lanes (· == .chain) hw1
  refine ⟨w', hw', hrel, fun j hj => ?_, ?_, ?_⟩
  · rw [State.answerTicket, State.release, State.wave?_modWave_other _ _ _ _ hj, State.wave?_modWave_other _ _ _ _ hj]
  · rw [hrest]; rfl
  · rw [hrest]; rfl

/-- The ticket whose turn has come is performed, and its group goes on with the sums before its lanes (R200). -/
theorem execChainTicketPerformed_turn {s : State} {u pa n : Nat} {l : Launch} {c : Chain} {k : Ticket} {w : Wave}
    (hl : s.launch? u = some l) (hc : l.chain? (.mem pa) = some c) (hbr : l.chainBroken (.mem pa) = false)
    (hk : s.chainTurn u c = some k) (hterm : l.terminated.any (fun x => x.1 == k.wg) = false) (hw : s.wave? k.wid = some w)
    (hn : n = if c.wide then 8 else 4) (hp : Plain s pa n) :
    let p := chainPrefixes (2 ^ (8 * n)) (leNat (s.readPa pa n)) k.vals
    ∃ t w', exec (.chainTicketPerformed u pa) s = .next t ∧ MemoryTo s t pa (toBytes n p.2) ∧ t.wave? k.wid = some w' ∧
      Released w w' k.lanes (· == .chain) ∧ OtherWaves s t k.wid ∧ w' = { w with threads := w'.threads, mitten := w'.mitten } ∧
      w'.mitten = w.mitten.map (fun e => if e.seq == k.entry then { e with st := .sent, res := p.1 } else e) ∧
      t = { s with mem := t.mem, bad := t.bad, keyed := t.keyed, waves := t.waves, launches := t.launches } := by
  intro p
  obtain ⟨m, hrmw, hmem, -, -, hframe⟩ := State.rmw_modLaunch (fun l => l.dropTicket (.mem pa) c.wide k.wg) l.ctx 0
    (fun old => (chainPrefixes (2 ^ (8 * n)) old k.vals).2) hl hp
  have hwaves : m.waves = s.waves := by rw [hframe]
  have hwm : (m.modLaunch u (fun l => l.perform (.mem pa) c.wide k.wg)).wave? k.wid = some w :=
    (congrArg (aget? · k.wid) hwaves).trans hw
  obtain ⟨w', hw', hrel, hoth, hrest, hmit⟩ := State.answerTicket_spec p.1 hwm
  refine ⟨(m.modLaunch u (fun l => l.perform (.mem pa) c.wide k.wg)).answerTicket k p.1, w', ?_, ⟨hmem.bytes, hmem.other⟩,
    hw', hrel, fun j hj => (hoth j hj).trans (congrArg (aget? · j) hwaves), hrest, hmit, ?_⟩
  · change execChainTicketPerformed u pa s = _
    rw [execChainTicketPerformed, hl, Option.bind_some, hc]
    unfold Launch.dropTicket at hrmw
    simp only [Option.map_some, hbr, hk, Option.filter_some, Bool.not_false, Bool.true_or, if_true, ← hn, hrmw, hterm,
      Bool.false_eq_true, if_false]
    rfl
  · rw [hframe]
    rfl

/-! ### The statement -/

/-- Settles O26: both issues end as theirs do; the events by the order of the keys and by one access of the memory side. -/
theorem orderedAddsAndChains : Obligations.OrderedAddsAndChains := by
  refine ⟨fun o s r locs => ⟨?_, fun u pa l c hl hc => ?_⟩, fun o s r locs => ⟨?_, ?_⟩⟩
  · intro i n ptr s1 u g w1 l1 hi hx hr hw hl hb
    obtain ⟨b, t, w0, w', e, hexec, hgo, he, hst, hrest, hth, hframe, hoth, hk, e0, he0, hu⟩ :=
      execFaddo_spec hi hx hr rfl hw rfl hb
    exact ⟨b, t, w0, w', e, hexec, hgo, he, hst, hrest, hth, hframe, hoth, hk, e0, he0, hu.trans (congrArg _ hl)⟩
  · obtain ⟨hmem, hloc, hlow⟩ := Launch.nextFaddo_spec hc
    exact ⟨hmem, hloc, hlow, execFaddoApply_early hl hc, fun ht hp => execFaddoApply_turn hl hc ht rfl hp⟩
  · intro i n ptr s1 w1 u l l1 a loc x hi hx ha hr hloc hl hbr hh hw hl1
    obtain ⟨b, t, w0, w', e, hexec, hfin, hrest, he, hst, hdest, hth, hframe, hoth, hu⟩ :=
      execChain_spec hi hx ha hr rfl hloc hl rfl hbr hh hw
    exact ⟨b, t, w0, w', e, hexec, hfin, hrest, he, hst, hdest, hth, hframe, hoth, hu.trans (congrArg _ hl1)⟩
  · intro u pa l c k w hl hc hbr hk hterm hw n p hp
    exact execChainTicketPerformed_turn hl hc hbr hk hterm hw rfl hp

end Sys2Proof.Machine
end

section
/-!
PROOFS. The arithmetic of the memory side (spec/09 R197), and the statement about it.
-/

namespace Sys2Proof.Machine

/-- A number of w bits is what its integer value wraps to (R106). -/
theorem wrapInt_intVal {w a : Nat} (signed : Bool) (ha : a < 2 ^ w) : wrapInt w (intVal signed w a) = a := by
  have hmod : (a : Int) % 2 ^ w = a := Int.emod_eq_of_lt (Int.natCast_nonneg a) (by exact_mod_cast ha)
  have hval : intVal signed w a % 2 ^ w = a := by
    simp only [intVal, Nat.mod_eq_of_lt ha]
    split
    · rw [Int.sub_emod_right, hmod]
    · exact hmod
  rw [wrapInt, hval, Int.toNat_natCast]

/-- The lower of two integers wraps to the operand that has it (R197). -/
theorem wrapInt_min {w a b : Nat} (ha : a < 2 ^ w) (hb : b < 2 ^ w) :
    wrapInt w (min (intVal true w a) (intVal true w b)) = if intVal true w a ≤ intVal true w b then a else b := by
  rw [Int.min_def, apply_ite (wrapInt w), wrapInt_intVal _ ha, wrapInt_intVal _ hb]

theorem wrapInt_max {w a b : Nat} (ha : a < 2 ^ w) (hb : b < 2 ^ w) :
    wrapInt w (max (intVal true w a) (intVal true w b)) = if intVal true w a ≤ intVal true w b then b else a := by
  rw [Int.max_def, apply_ite (wrapInt w), wrapInt_intVal _ ha, wrapInt_intVal _ hb]

/-- Settles O24: the signed operations by what an integer wraps to, the access by the read-modify-write of plain memory. -/
theorem memorySide : Obligations.MemorySide := by
  refine ⟨fun n a b _ ha hb => ?_, fun s ctx pa n op free core data f hp hb => ?_⟩
  · exact ⟨rfl, rfl, rfl, rfl, wrapInt_min ha hb, wrapInt_max ha hb, rfl, rfl, rfl⟩
  · obtain ⟨t, hrmw, hmem, honly, -⟩ := State.rmw_plain ctx core op data f free ⟨hp, hb⟩
    have hbytes := hmem.bytes
    have hother := hmem.other
    rw [length_toBytes] at hbytes hother
    exact ⟨t, hrmw, hbytes, hother, honly⟩

end Sys2Proof.Machine
end

section
/-!
PROOFS. The parts that the issues of loads, stores and atomics share: what held translations do not change, the locations of
the lanes, and what a load takes (spec/08 R171, spec/09 R191, R193).
-/

namespace Sys2Proof.Machine

/-! ### Lists by lane -/

theorem aget?_of_mem {α : Type} {l : List (Nat × α)} {k : Nat} {v : α} (hl : (l.map Prod.fst).Nodup) (h : (k, v) ∈ l) :
    aget? l k = some v := by
  induction l with
  | nil => exact absurd h List.not_mem_nil
  | cons x l ih =>
    obtain ⟨hx, hn⟩ := List.nodup_cons.mp hl
    rcases List.mem_cons.mp h with rfl | h
    · simp [aget?]
    · have hne : ¬x.1 = k := fun he => hx (he ▸ List.mem_map_of_mem (f := Prod.fst) h)
      simpa [aget?, hne] using ih hn h

/-- What each lane of a mask has. -/
theorem aget?_lanesOf {α : Type} {m : Lanes} {t : Nat} (f : Nat → α) (ht : m.getLsbD t = true) :
    aget? ((lanesOf m).map (fun t => (t, f t))) t = some (f t) :=
  aget?_of_mem (by simpa [Function.comp_def] using nodup_lanesOf m) (List.mem_map.mpr ⟨t, (mem_lanesOf _ _).mpr ht, rfl⟩)

/-! ### The locations of the lanes -/

/-- Accesses none of which fails have a location each, in their order. -/
theorem State.resolveAll_lanes {s : State} {w : Wave} {acc : Acc} {spaces : List Nat} {size align : Nat}
    {l : List (Nat × Word)} {locs : List (Nat × Loc)} (h : s.resolveAll w acc spaces size align l = ([], locs)) :
    locs.map Prod.fst = l.map Prod.fst := by
  induction l generalizing locs with
  | nil =>
    obtain rfl : [] = locs := congrArg Prod.snd h
    rfl
  | cons x l ih =>
    rw [State.resolveAll, List.foldr_cons] at h
    split at h
    · exact absurd (congrArg Prod.fst h) (List.cons_ne_nil _ _)
    · obtain ⟨hf, rfl⟩ := Prod.mk.inj h
      exact congrArg (x.1 :: ·) (ih (Prod.ext hf rfl))

/-- An issue whose checks pass has a location for each executing lane (R191). -/
theorem Reaches.lanes {s : State} {i : Instr} {r : Run} {acc : Acc} {spaces : List Nat} {size align : Nat}
    {ptr : List Word → Word} {locs : List (Nat × Loc)} (h : Reaches s i r acc spaces size align ptr locs) :
    locs.map Prod.fst = lanesOf r.ex := by
  rw [State.resolveAll_lanes h, State.addrs, List.map_map]
  exact List.map_id _

/-- What the lanes' locations give, by the lane. -/
theorem Reaches.aget? {s : State} {i : Instr} {r : Run} {acc : Acc} {spaces : List Nat} {size align : Nat}
    {ptr : List Word → Word} {locs : List (Nat × Loc)} {α : Type} (f : Nat × Loc → α)
    (h : Reaches s i r acc spaces size align ptr locs) {x : Nat × Loc} (hx : x ∈ locs) :
    aget? (locs.map (fun x => (x.1, f x))) x.1 = some (f x) := by
  refine aget?_of_mem ?_ (List.mem_map.mpr ⟨x, hx, rfl⟩)
  rw [List.map_map]
  exact h.lanes ▸ nodup_lanesOf r.ex

/-! ### What held translations do not change (R349) -/

theorem walkFrom_touch (s : State) (c : Nat) (l : List Word) (ctx va fuel lvl table : Nat) (rights : Bool × Bool × Bool) :
    walkFrom (s.touch c l) ctx va fuel lvl table rights = walkFrom s ctx va fuel lvl table rights := by
  rw [State.touch_spec]
  generalize (s.touch c l).tlb = tlb
  induction fuel generalizing lvl table rights with
  | zero => rfl
  | succ fuel ih =>
    simp only [walkFrom, ih]
    rfl

theorem State.walk_touch (s : State) (c : Nat) (l : List Word) (ctx va : Nat) : (s.touch c l).walk ctx va = s.walk ctx va := by
  simp only [State.walk, walkFrom_touch]
  rw [State.touch_spec]
  rfl

/-- What a lane loads depends on no held translation. -/
theorem State.laneLoad_touch (s : State) (c : Nat) (l : List Word) (i : Instr) (r : Run) (ea : List (Nat × Word)) (n : Nat) :
    (s.touch c l).laneLoad i r ea n = s.laneLoad i r ea n := by
  funext x
  have hin : ∀ p src a, (s.touch c l).inbound p src a n true false = s.inbound p src a n true false := fun p src a => by
    simp only [State.inbound, State.walk_touch]
    rw [State.touch_spec]
    rfl
  have hread : ∀ ctx loc free, (s.touch c l).readLoc ctx loc n free = s.readLoc ctx loc n free := fun ctx loc free => by
    cases loc with
    | node k a =>
      simp only [State.readLoc, hin]
      rw [State.touch_spec]
      rfl
    | _ => rw [State.touch_spec]; rfl
  simp only [State.laneLoad, State.loadBytes, hread]
  rw [State.touch_spec]
  rfl

/-! ### What a load takes, and what its core has seen -/

namespace ReadsOnly

theorem refl (s : State) : ReadsOnly s s := rfl

theorem trans {a b c : State} (h : ReadsOnly a b) (k : ReadsOnly b c) : ReadsOnly a c := by
  unfold ReadsOnly at *
  rw [k, h]

theorem of_tlb {s b : State} (h : b = { s with tlb := b.tlb }) : ReadsOnly s b := by
  unfold ReadsOnly
  generalize b.tlb = tlb at h
  subst h
  rfl

theorem of_hidden {s b : State} (h : b = { s with hidden := b.hidden }) : ReadsOnly s b := by
  unfold ReadsOnly
  generalize b.hidden = hidden at h
  subst h
  rfl

theorem touch (s : State) (ctx : Nat) (l : List Word) : ReadsOnly s (s.touch ctx l) := of_tlb (s.touch_spec ctx l)

theorem sees (s : State) (core : Nat) (p : Hidden → Bool) : ReadsOnly s (s.sees core p) := rfl

theorem afterView (s : State) (core : Nat) (dep : Bool) (pa n free : Nat) : ReadsOnly s (s.afterView core dep pa n free) := by
  unfold State.afterView
  extract_lets ks
  generalize List.range ks.length = l
  induction l generalizing s with
  | nil => exact refl s
  | cons i l ih => exact trans (sees s _ _) (ih _)

theorem afterLoad (s : State) (w : Wave) (t : Nat) (loc : Loc) (n : Nat) (view : Option Bool) :
    ReadsOnly s (s.afterLoad w t loc n view) := by
  unfold State.afterLoad
  split
  · exact afterView s _ _ _ _ _
  · exact sees s _ _
  · exact refl s

theorem acquireBy (s : State) (w : Wave) (o : OpM) : ReadsOnly s (s.acquireBy w o) := by
  unfold State.acquireBy
  split
  · exact of_hidden (s.acquire_eq _ _)
  · exact refl s

/-- The reads of a load change nothing but what its core has seen (R171). -/
theorem loaded (s : State) (i : Instr) (r : Run) (o : OpM) (n : Nat) (ea : List (Nat × Word)) (locs : List (Nat × Loc)) :
    ReadsOnly s (s.loaded i r o n ea locs) := by
  unfold State.loaded
  refine trans ?_ (acquireBy _ _ _)
  induction locs generalizing s with
  | nil => exact refl s
  | cons x locs ih => exact trans (afterLoad s _ _ _ _ _) (ih _)

theorem wave? {s b : State} (h : ReadsOnly s b) (k : Nat) : b.wave? k = s.wave? k := by
  unfold ReadsOnly at h
  rw [h]
  rfl

end ReadsOnly

/-- The lanes of a load all of which have data: no node has refused one. -/
theorem State.sample_refused {s : State} {i : Instr} {r : Run} {n : Nat} {ea : List (Nat × Word)} {locs : List (Nat × Loc)}
    (regs : Nat → List Byte → List Word) (h : ∀ x ∈ locs, (s.laneLoad i r ea n x).isSome = true) :
    (s.sample i r n ea locs regs).2.1 = 0 := by
  have hnone : (locs.map (fun x => (x.1, s.laneLoad i r ea n x))).filter (fun d => d.2.isNone) = [] := by
    refine List.filter_eq_nil_iff.mpr (fun d hd => ?_)
    obtain ⟨x, hx, rfl⟩ := List.mem_map.mp hd
    simpa using Option.isSome_iff_ne_none.mp (h x hx)
  change maskOf (((locs.map (fun x => (x.1, s.laneLoad i r ea n x))).filter (fun d => d.2.isNone)).map Prod.fst) = 0
  rw [hnone]
  rfl

/-- Each lane's words are made of what it loads. -/
theorem State.sample_words (s : State) (i : Instr) (r : Run) (n : Nat) (ea : List (Nat × Word)) (locs : List (Nat × Loc))
    (regs : Nat → List Byte → List Word) :
    (s.sample i r n ea locs regs).1 = locs.map (fun x => (x.1, regs x.1 ((s.laneLoad i r ea n x).getD []))) :=
  List.map_map

end Sys2Proof.Machine
end

section
/-!
PROOFS. The issues of LD and ST (spec/09 R189, R193), and the statement about them.
-/

namespace Sys2Proof.Machine

/-! ### The end of an issue that has only read -/

/-- A machine that has read, and whose waves have changed since. -/
theorem ReadsOnly.frame {s b c : State} (hb : ReadsOnly s b) (hc : c = { b with waves := c.waves }) :
    c = { s with waves := c.waves, tlb := c.tlb, hidden := c.hidden } := by
  unfold ReadsOnly at hb
  generalize c.waves = waves at hc
  generalize b.tlb = tlb, b.hidden = hidden at hb
  subst hb hc
  rfl

theorem State.touch_frame {s c : State} {ctx : Nat} {l : List Word} (hc : c = { s.touch ctx l with waves := c.waves }) :
    c = { s with waves := c.waves, tlb := c.tlb } := by
  generalize c.waves = waves at hc
  rw [State.touch_spec] at hc
  subst hc
  rfl

/-- An issue of some thread takes its entry in the wave that it found, after it has read. -/
theorem State.finishEntry_readsOnly {s b : State} {i : Instr} {r : Run} (e : Entry) (hi : Issues s i r) (hb : ReadsOnly s b)
    (hx : r.ex ≠ 0) (he : OfIssue { e with slot := r.w.freeEntry, seq := r.w.seqNext } i r r.w) :
    ∃ c w', GoesOn c i r (r.w.withEntry (b.entryIn r r.w e)) (b.finishEntry i r e) w' ∧
      c = { b with waves := c.waves } ∧ OtherWaves s c r.c.wid ∧ OfIssue (b.entryIn r r.w e) i r r.w := by
  have hw : b.wave? r.c.wid = some r.w := (hb.wave? _).trans (State.run?_eq hi.issue).2.1
  obtain ⟨c, w', hgo, hc, hoth, hof⟩ := State.finishEntry_spec b i r e r.w hw hx he.ins he.pc he.w0 he.w1 he.exec
  exact ⟨c, w', hgo, hc, fun k hk => (hoth k hk).trans (hb.wave? k), hof⟩

/-! ### LD (R189, R193) -/

/-- The words that a lane's bytes give the registers of an LD, with the block tag behind them in space 0x4. -/
def State.ldWords (s : State) (o : OpM) (r : Run) (ea : List (Nat × Word)) (locs : List (Nat × Loc)) (t : Nat) (bs : List Byte) :
    List Word :=
  let ws := wordsOf o.size.regs bs
  if spaceOf ((aget? ea t).getD 0) == 4 then ws ++ [s.tagAt r.w t ((aget? locs t).getD (.mem 0))] else ws

theorem State.take_ldWords (s : State) (o : OpM) (r : Run) (ea : List (Nat × Word)) (locs : List (Nat × Loc)) (t : Nat)
    (bs : List Byte) : (s.ldWords o r ea locs t bs).take o.size.regs = wordsOf o.size.regs bs := by
  have hlen : (wordsOf o.size.regs bs).length = o.size.regs := by simp [wordsOf]
  unfold State.ldWords
  dsimp only
  split
  · exact List.take_left' hlen
  · exact List.take_of_length_le (Nat.le_of_eq hlen)

/-- The Mitten entry of an LD all of whose lanes have data. -/
def State.ldEntry (s : State) (o : OpM) (r : Run) (locs : List (Nat × Loc)) (res : List (Nat × List Word)) (bad : Lanes) : Entry :=
  let ea := s.addrs (.ld o) r (eaOf o)
  { r.entry (.ld o) .i 0 with
    addr := (ea.head?.map Prod.snd).getD 0, ea, loc := locs, res, bad
    dest := groupAt (.reg o.d) o.size.regs ++ s.tagRegs (.ld o) r }

/-- The tag register of an issue is the same after its reads (R189). -/
theorem State.tagRegs_readsOnly {s b : State} (h : ReadsOnly s b) (i : Instr) (r : Run) : b.tagRegs i r = s.tagRegs i r := by
  unfold ReadsOnly at h
  rw [h]
  rfl

/-- An issue of LD reads, and holds what it has read in its entry. -/
theorem execLd_holds {o : OpM} {s : State} {r : Run} {locs : List (Nat × Loc)} (hi : Issues s (.ld o) r)
    (ht : s.tagRegFault (.ld o) r = none) (hr : Reaches s (.ld o) r accLoad ldSpaces o.size.bytes o.size.bytes (eaOf o) locs)
    (hl : ∀ x ∈ locs, (s.laneLoad (.ld o) r (s.addrs (.ld o) r (eaOf o)) o.size.bytes x).isSome = true) :
    ∃ (b : State) (words : Nat × Loc → List Word) (bad : Lanes), ReadsOnly s b ∧
      exec (.ld o) s = .next (b.finishEntry (.ld o) r (s.ldEntry o r locs (locs.map (fun x => (x.1, words x))) bad)) ∧
      ∀ x, (words x).take o.size.regs =
        wordsOf o.size.regs ((s.laneLoad (.ld o) r (s.addrs (.ld o) r (eaOf o)) o.size.bytes x).getD []) := by
  generalize hea : s.addrs (.ld o) r (eaOf o) = ea at hl ⊢
  generalize hb0 : s.touch r.w.ctx (ea.map Prod.snd) = b0
  have hload : b0.laneLoad (.ld o) r ea o.size.bytes = s.laneLoad (.ld o) r ea o.size.bytes := by
    rw [← hb0, State.laneLoad_touch]
  have hb : ReadsOnly s (b0.loaded (.ld o) r o o.size.bytes ea locs) :=
    ReadsOnly.trans (hb0 ▸ ReadsOnly.touch s _ _) (ReadsOnly.loaded b0 _ _ _ _ _ _)
  have hnone := State.sample_refused (b0.ldWords o r ea locs) (hload ▸ hl)
  refine ⟨_, fun x => b0.ldWords o r ea locs x.1 ((s.laneLoad (.ld o) r ea o.size.bytes x).getD []),
    (b0.sample (.ld o) r o.size.bytes ea locs (b0.ldWords o r ea locs)).2.2, hb, ?_, fun x => b0.take_ldWords o r ea locs _ _⟩
  change execLd o s = _
  rw [execLd, State.issue_next hi rfl]
  dsimp only
  rw [ht]
  dsimp only
  rw [State.checked_reaches _ hr, hea, hb0]
  unfold State.ldWords at hnone
  rw [if_pos hnone, State.tagRegs_readsOnly hb, State.sample_words, hload, ← hea]
  rfl

/-! ### ST (R193) -/

/-- The Mitten entry of an ST: every lane's data, in the FIFO. -/
def State.stEntry (s : State) (o : OpM) (r : Run) (locs : List (Nat × Loc)) : Entry :=
  let ea := s.addrs (.st o) r (eaOf o)
  { r.entry (.st o) .s 1 with
    addr := (ea.head?.map Prod.snd).getD 0, ea, loc := locs
    vals := (lanesOf r.ex).map (fun t =>
      (t, s.groupVals r.w (.st o) t (groupAt (.reg o.d) o.size.regs ++ s.tagRegs (.st o) r))) }

/-- An issue of ST puts its entry into the FIFO, and changes nothing but held translations. -/
theorem execSt_holds {o : OpM} {s : State} {r : Run} {locs : List (Nat × Loc)} (hi : Issues s (.st o) r)
    (ht : s.tagRegFault (.st o) r = none) (hr : Reaches s (.st o) r accStore stSpaces o.size.bytes o.size.bytes (eaOf o) locs) :
    exec (.st o) s = .next ((s.touch r.w.ctx ((s.addrs (.st o) r (eaOf o)).map Prod.snd)).finishEntry (.st o) r
      (s.stEntry o r locs)) := by
  change execSt o s = _
  rw [execSt, State.issue_next hi rfl]
  dsimp only
  rw [ht]
  dsimp only
  rw [State.checked_reaches _ hr, State.tagRegs_readsOnly (ReadsOnly.touch s _ _)]
  rw [State.touch_spec]
  rfl

/-! ### The statement -/

/-- Settles O21: each issue ends with an entry in the wave that it found, after reads that change nothing else. -/
theorem loadsAndStoresIssue : Obligations.LoadsAndStoresIssue := by
  intro o s r locs
  constructor
  · intro i n hi ht hx hr load hl
    obtain ⟨b, words, bad, hb, hexec, hwords⟩ := execLd_holds hi ht hr hl
    obtain ⟨c, w', hgo, hc, hoth, hof⟩ := State.finishEntry_readsOnly
      (s.ldEntry o r locs (locs.map (fun x => (x.1, words x))) bad) hi hb hx ⟨rfl, rfl, rfl, rfl, rfl, rfl, rfl⟩
    refine ⟨c, _, w', _, hexec, hgo, hb.frame hc, hoth, hof, rfl, rfl, fun x hxl => ?_⟩
    obtain ⟨bs, hbs⟩ := Option.isSome_iff_exists.mp (hl x hxl)
    exact ⟨bs, words x, hbs, hr.aget? words hxl, (hwords x).trans (congrArg (fun y => wordsOf _ (Option.getD y [])) hbs)⟩
  · intro i n hi ht hx hr
    obtain ⟨c, w', hgo, hc, hoth, hof⟩ := State.finishEntry_readsOnly (s.stEntry o r locs) hi
      (ReadsOnly.touch s r.w.ctx ((s.addrs (.st o) r (eaOf o)).map Prod.snd)) hx ⟨rfl, rfl, rfl, rfl, rfl, rfl, rfl⟩
    exact ⟨c, _, w', _, execSt_holds hi ht hr, hgo, State.touch_frame hc, hoth, hof, rfl, rfl, fun l hl => aget?_lanesOf _ hl⟩

end Sys2Proof.Machine
end

section
/-!
PROOFS. The issues of LDQ and PREF (spec/09 R194, R195), and the statement about them.
-/

namespace Sys2Proof.Machine

/-! ### LDQ (R194) -/

/-- Another wave is as before when a wave has got an entry in a queue, and that one has it. -/
theorem State.wave?_enqueue {b s : State} {k : Nat} {v : Wave} (q : Nat) (x : Option (List Word))
    (hb : ∀ j, b.wave? j = s.wave? j) (hv : s.wave? k = some v) :
    (b.modWave k (fun v => v.enqueue q x)).wave? k = some (v.enqueue q x) ∧
      ∀ j, j ≠ k → (b.modWave k (fun v => v.enqueue q x)).wave? j = s.wave? j := by
  refine ⟨?_, fun j hj => (State.wave?_modWave_other _ _ _ _ hj).trans (hb j)⟩
  rw [State.wave?_modWave_same, hb, hv]
  rfl

/-- The Mitten entry of an LDQ all of whose lanes have data. -/
def State.ldqEntry (s : State) (o : OpM) (r : Run) (locs : List (Nat × Loc)) (bad : Lanes) : Entry :=
  let ea := s.addrs (.ldq o) r (eaOf o)
  { r.entry (.ldq o) .i 0 with
    addr := (ea.head?.map Prod.snd).getD 0, ea, loc := locs
    res := locs.map (fun x => (x.1, wordsOf 1 ((s.laneLoad (.ldq o) r [] o.size.bytes x).getD []))), queue := some (o.d.toNat % 8)
    bad, st := .issued }

/-- An issue of LDQ reads, reserves an entry of its pair's queue, and holds what it has read in its own. -/
theorem execLdq_holds {o : OpM} {s : State} {r : Run} {locs : List (Nat × Loc)} {k : Nat} {v : Wave}
    (hi : Issues s (.ldq o) r) (hp : r.w.pair = some k) (hv : s.wave? k = some v) (hd : (v.queue (o.d.toNat % 8)).depth ≠ 0)
    (hx : r.ex ≠ 0)
    (hr : Reaches s (.ldq o) r accLoad [0, 1, 2, 3, 4, 5] o.size.bytes o.size.bytes (eaOf o) locs)
    (hl : ∀ x ∈ locs, (s.laneLoad (.ldq o) r [] o.size.bytes x).isSome = true) :
    ∃ (b : State) (bad : Lanes), ReadsOnly s b ∧ exec (.ldq o) s = .next
      ((b.modWave k (fun v => v.enqueue (o.d.toNat % 8) none)).finishEntry (.ldq o) r (s.ldqEntry o r locs bad)) := by
  generalize hb0 : s.touch r.w.ctx ((s.addrs (.ldq o) r (eaOf o)).map Prod.snd) = b0
  have hload : b0.laneLoad (.ldq o) r [] o.size.bytes = s.laneLoad (.ldq o) r [] o.size.bytes := by
    rw [← hb0, State.laneLoad_touch]
  have hnone := State.sample_refused (fun _ bs => wordsOf 1 bs) (hload ▸ hl)
  refine ⟨b0.loaded (.ldq o) r o o.size.bytes [] locs,
    (b0.sample (.ldq o) r o.size.bytes [] locs (fun _ bs => wordsOf 1 bs)).2.2,
    ReadsOnly.trans (hb0 ▸ ReadsOnly.touch s _ _) (ReadsOnly.loaded b0 _ _ _ _ _ _), ?_⟩
  change execLdq o s = _
  rw [execLdq, State.issue_next hi (show ldqWait o s r = false from hi.waits)]
  dsimp only
  rw [hp, Option.bind_some, hv]
  dsimp only
  rw [if_neg hd, if_neg hx, State.checked_reaches _ hr, hb0]
  simp only [if_pos hnone]
  rw [State.sample_words, hload]
  rfl

/-- Where no thread executes, an issue of LDQ pushes an entry of zeros. -/
theorem execLdq_pushes {o : OpM} {s : State} {r : Run} {k : Nat} {v : Wave} (hi : Issues s (.ldq o) r)
    (hp : r.w.pair = some k) (hv : s.wave? k = some v) (hd : (v.queue (o.d.toNat % 8)).depth ≠ 0) (hx : r.ex = 0) :
    exec (.ldq o) s = .next
      ((s.modWave k (fun v => v.enqueue (o.d.toNat % 8) (some (List.replicate 32 0)))).finish (.ldq o) r) := by
  change execLdq o s = _
  rw [execLdq, State.issue_next hi (show ldqWait o s r = false from hi.waits)]
  dsimp only
  rw [hp, Option.bind_some, hv]
  dsimp only
  rw [if_neg hd, if_pos hx]
  rfl

/-! ### PREF (R195) -/

/-- The Mitten entry of a PREF. -/
def State.prefEntry (s : State) (o : OpM) (r : Run) : Entry :=
  let ea := s.addrs (.pref o) r (eaOf o)
  { r.entry (.pref o) .i 0 with addr := (ea.head?.map Prod.snd).getD 0, ea }

/-- An issue of PREF changes nothing but held translations, and takes an entry where a thread executes. -/
theorem execPref_holds {o : OpM} {s : State} {r : Run} (hi : Issues s (.pref o) r) :
    exec (.pref o) s = .next ((s.touch r.w.ctx ((s.addrs (.pref o) r (eaOf o)).map Prod.snd)).finishEntry (.pref o) r
      (s.prefEntry o r)) := by
  change execPref o s = _
  rw [execPref, State.issue_next hi rfl]
  rfl

/-! ### The statement -/

/-- Settles O22: LDQ leaves its queue's entry and its own, or an entry of zeros; PREF its own, or nothing. -/
theorem queueLoadsAndPrefetches : Obligations.QueueLoadsAndPrefetches := by
  intro o s r locs
  refine ⟨fun k v hi hp hk hv hd => ⟨fun hx hr hl => ?_, fun hx => ?_⟩, fun hi => ⟨fun hx => ?_, fun hx => ?_⟩⟩
  · obtain ⟨b, bad, hb, hexec⟩ := execLdq_holds hi hp hv hd hx hr hl
    obtain ⟨hbk, hbj⟩ := State.wave?_enqueue (o.d.toNat % 8) none hb.wave? hv
    obtain ⟨c, w', hgo, hc, hoth, hof⟩ := State.finishEntry_spec _ (.ldq o) r (s.ldqEntry o r locs bad) r.w
      ((hbj _ hk.symm).trans (State.run?_eq hi.issue).2.1) hx rfl rfl rfl rfl rfl
    refine ⟨c, _, w', _, hexec, hgo, hb.frame hc, fun j hj hjk => (hoth j hj).trans (hbj j hjk), (hoth k hk).trans hbk, hof, rfl,
      rfl, fun x hxl => ?_⟩
    obtain ⟨bs, hbs⟩ := Option.isSome_iff_exists.mp (hl x hxl)
    exact ⟨bs, hbs, (hr.aget? _ hxl).trans (congrArg (fun y => some (wordsOf 1 (Option.getD y []))) hbs)⟩
  · obtain ⟨hbk, hbj⟩ := State.wave?_enqueue (o.d.toNat % 8) (some (List.replicate 32 0)) (fun _ => rfl) hv
    obtain ⟨w', hgo⟩ := State.finish_goesOn _ (.ldq o) r r.w ((hbj _ hk.symm).trans (State.run?_eq hi.issue).2.1)
    exact ⟨_, _, w', execLdq_pushes hi hp hv hd hx, hgo, rfl, hbj, hbk⟩
  · obtain ⟨c, w', hgo, hc, hoth, hof⟩ := State.finishEntry_readsOnly (s.prefEntry o r) hi
      (ReadsOnly.touch s r.w.ctx ((s.addrs (.pref o) r (eaOf o)).map Prod.snd)) hx ⟨rfl, rfl, rfl, rfl, rfl, rfl, rfl⟩
    exact ⟨c, _, execPref_holds hi, State.touch_frame hc, hoth, w', _, hgo, hof, rfl, rfl⟩
  · have hexec := execPref_holds hi
    generalize (s.addrs (.pref o) r (eaOf o)).map Prod.snd = l at hexec
    obtain ⟨w', hgo⟩ := State.finish_goesOn (s.touch r.w.ctx l) (.pref o) r r.w
      (((ReadsOnly.touch s _ _).wave? _).trans (State.run?_eq hi.issue).2.1)
    rw [State.finishEntry, if_pos hx] at hexec
    exact ⟨_, _, w', hexec, hgo, s.touch_spec _ _⟩

end Sys2Proof.Machine
end

section
/-!
PROOFS. What the return of an entry's results writes (spec/02 R56, R57, spec/09 R193, R198, R301).
-/

namespace Sys2Proof.Machine

/-! ### The writes of an entry -/

theorem map_fst_zip_sublist {α β : Type} (l : List α) (m : List β) : ((l.zip m).map Prod.fst).Sublist l := by
  rw [List.zip_eq_zip_take_min, List.map_fst_zip (by simp)]
  exact List.take_sublist _ _

/-- The registers of lane t that the results of an entry write, with their values: not those that an undersized write keeps. -/
def Entry.laneWrites (e : Entry) (t : Nat) : List (Nat × Word) :=
  (e.dest.zip ((aget? e.res t).getD [])).filter (fun x => !e.keeps.contains (t, x.1))

theorem Entry.mem_laneWrites {e : Entry} {t d : Nat} {v : Word} :
    (d, v) ∈ e.laneWrites t ↔ (d, v) ∈ e.dest.zip ((aget? e.res t).getD []) ∧ (t, d) ∉ e.keeps := by
  simp [Entry.laneWrites]

/-- The writes of an entry: (lane, register, value). -/
def Entry.writes (e : Entry) (lanes : Lanes) : List (Nat × Nat × Word) :=
  (lanesOf lanes).flatMap (fun t => (e.laneWrites t).map (fun x => (t, x.1, x.2)))

theorem Entry.mem_writes {e : Entry} {lanes : Lanes} {t d : Nat} {v : Word} :
    (t, d, v) ∈ e.writes lanes ↔ lanes.getLsbD t = true ∧ (d, v) ∈ e.dest.zip ((aget? e.res t).getD []) ∧ (t, d) ∉ e.keeps := by
  rw [← Entry.mem_laneWrites]
  simp only [Entry.writes, List.mem_flatMap, List.mem_map, mem_lanesOf]
  constructor
  · rintro ⟨u, hu, x, hx, heq⟩
    cases heq
    exact ⟨hu, hx⟩
  · rintro ⟨ht, hx⟩
    exact ⟨t, ht, (d, v), hx, rfl⟩

/-- No two writes of an entry go to one place. -/
theorem Entry.writes_pairwise {e : Entry} (lanes : Lanes) (hd : e.dest.Nodup) :
    (e.writes lanes).Pairwise (fun a b => ¬(a.2.1 = b.2.1 ∧ a.1 = b.1)) := by
  refine List.pairwise_flatMap.mpr ⟨fun t _ => ?_, (nodup_lanesOf lanes).imp (fun {t u} htu x hx y hy hxy => ?_)⟩
  · have hregs : ((e.laneWrites t).map Prod.fst).Nodup :=
      ((List.filter_sublist.map Prod.fst).trans (map_fst_zip_sublist _ _)).nodup hd
    rw [List.pairwise_map]
    exact (List.pairwise_map.mp hregs).imp (fun hne heq => hne heq.1)
  · obtain ⟨a, _, rfl⟩ := List.mem_map.mp hx
    obtain ⟨b, _, rfl⟩ := List.mem_map.mp hy
    exact htu hxy.2

/-- A wave after the writes of an entry. -/
def Entry.written (s : State) (e : Entry) (lanes : Lanes) (w : Wave) : Wave :=
  (e.writes lanes).foldl (fun w x => s.writeLane none e.pc w x.1 x.2.1 x.2.2) w

/-- The writes of an entry change registers alone. -/
theorem Entry.written_eq (s : State) (e : Entry) (lanes : Lanes) (w : Wave) :
    e.written s lanes w = { w with regs := (e.written s lanes w).regs } := by
  unfold Entry.written
  generalize e.writes lanes = L
  induction L generalizing w with
  | nil => rfl
  | cons a L ih => rw [List.foldl_cons, ih]; rfl

/-! ### The marks of a written register -/

/-- A wave with other tags, origins and poison marks. -/
def MarksOnly (w w' : Wave) : Prop := w' = { w with tags := w'.tags, loaded := w'.loaded, poison := w'.poison }

theorem MarksOnly.foldl {α : Type} {f : Wave → α → Wave} (hf : ∀ w a, MarksOnly w (f w a)) (l : List α) (w : Wave) :
    MarksOnly w (l.foldl f w) := by
  induction l generalizing w with
  | nil => rfl
  | cons a l ih =>
    have hl := ih (f w a)
    unfold MarksOnly at *
    rw [List.foldl_cons, hl, hf w a]

/-- What a result's return makes of a register's marks changes nothing else (R25, R373). -/
theorem Entry.marks (e : Entry) (lanes bad : Lanes) (whole : Bool) (w : Wave) (d : Nat) :
    MarksOnly w (if lanes = 0 then w
      else
        let w := w.stamp d (if e.uni && lanes == e.exec then .u (w.reg d ((lowest lanes).getD 0)) else .g) whole
        let w := w.derive d true
        if bad &&& lanes = 0 then w else { w with poison := tset 0 w.poison d (e.pc + 1) }) := by
  split
  · rfl
  · cases whole <;> dsimp only <;> split <;> rfl

/-- The flags that the results of an entry set. -/
def Entry.flagsOf (e : Entry) (lanes : Lanes) : FFlags :=
  e.flags.foldl (fun a x => if lanes.getLsbD x.1 then a ||| x.2 else a) 0

/-- What the write of an entry leaves: its writes, its flags, and marks. -/
theorem Entry.write_marks (s : State) (e : Entry) (lanes bad : Lanes) (w : Wave) :
    MarksOnly ((e.written s lanes w).orFlags (e.flagsOf lanes)) (Entry.write s e lanes bad w) := by
  have hfold : (lanesOf lanes).foldl (fun w t => (e.dest.zip ((aget? e.res t).getD [])).foldl (fun w x =>
      if e.keeps.contains (t, x.1) then w else s.writeLane none e.pc w t x.1 x.2) w) w = e.written s lanes w := by
    rw [Entry.written, Entry.writes, List.foldl_flatMap]
    congr 1
    funext w t
    rw [List.foldl_map, Entry.laneWrites, List.foldl_filter]
    congr 1
    funext w x
    cases e.keeps.contains (t, x.1) <;> rfl
  unfold Entry.write
  rw [hfold]
  exact MarksOnly.foldl (fun w d => e.marks lanes bad _ w d) _ _

/-! ### The return -/

/-- The results of an entry come to its wave, which is free of it. -/
theorem Entry.write_returned (s : State) {e : Entry} (w : Wave) (bad : Lanes) (hd : e.dest.Nodup) :
    Returned w e ((Entry.write s e e.exec bad w).dropEntry e.seq) := by
  obtain ⟨-, hother, hput⟩ := s.writeLanes_spec none e.pc (e.writes e.exec) w
    (fun x hx => BitVec.lt_of_getLsbD (Entry.mem_writes.mp hx).1) (Entry.writes_pairwise _ hd)
  have hmarks := Entry.write_marks s e e.exec bad w
  have hrest := Entry.written_eq s e e.exec w
  change ∀ x l, l < 32 → _ → (e.written s e.exec w).reg x l = w.reg x l at hother
  change ∀ x ∈ e.writes e.exec, (e.written s e.exec w).reg x.2.1 x.1 = x.2.2 ∨
    (w.clash x.2.1 x.1 = true ∧ (e.written s e.exec w).reg x.2.1 x.1 = w.reg x.2.1 x.1) at hput
  generalize Entry.write s e e.exec bad w = u at hmarks
  generalize e.written s e.exec w = v at hmarks hrest hother hput
  have hu : u = { w with
      regs := v.regs, tags := u.tags, loaded := u.loaded, poison := u.poison, fflags := (w.orFlags (e.flagsOf e.exec)).fflags } := by
    rw [hmarks, hrest]
    rfl
  have hreg : ∀ x l, u.reg x l = v.reg x l := fun x l => by rw [hu]; rfl
  have hdrop : ∀ x l, (u.dropEntry e.seq).reg x l = u.reg x l := fun _ _ => rfl
  refine ⟨?_, ?_, ?_, fun x l hl hx => ?_, fun l d hl hk => ?_, fun l d x he hx hk => ?_⟩
  · rw [hu]; rfl
  · rw [hu]; rfl
  · rw [hu]; rfl
  · rw [hdrop, hreg]
    refine hother x l hl (fun y hy hxy => ?_)
    obtain ⟨hlane, hzip, -⟩ := Entry.mem_writes.mp hy
    rw [← hxy.2, hx (hxy.1 ▸ (List.of_mem_zip hzip).1)] at hlane
    exact Bool.false_ne_true hlane
  · rw [hdrop, hreg]
    refine hother d l hl (fun y hy hxy => ?_)
    obtain ⟨-, -, hkeep⟩ := Entry.mem_writes.mp hy
    exact hkeep (hxy.1 ▸ hxy.2 ▸ hk)
  · rw [hdrop, hreg]
    exact hput (l, d, x) (Entry.mem_writes.mpr ⟨he, hx, hk⟩)

/-! ### Flits from other nodes (R406) -/

theorem SameButHeard.refl (s : State) : SameButHeard s s := rfl

theorem SameButHeard.trans {a b c : State} (h : SameButHeard a b) (k : SameButHeard b c) : SameButHeard a c := Eq.trans k h

/-- A flit that has come from a node changes nothing but when journals have heard from their partners. -/
theorem State.hear_spec (s : State) (node : Nat) :
    s.hear node = { s with ctxs := (s.hear node).ctxs } ∧ SameButHeard s (s.hear node) := by
  refine ⟨rfl, ?_⟩
  have hquiet : ∀ j : Journal, ({ (if j.partner == node then { j with heard := s.dev.clk } else j) with heard := 0 } : Journal) =
      { j with heard := 0 } := fun j => by split <;> rfl
  simp only [SameButHeard, State.hear, List.map_map, Function.comp_def, Option.map_map, hquiet]

theorem State.heardFrom_spec (s : State) (w : Wave) (e : Entry) :
    s.heardFrom w e = { s with ctxs := (s.heardFrom w e).ctxs } ∧ SameButHeard s (s.heardFrom w e) := by
  unfold State.heardFrom
  generalize s.farNodes w e = l
  induction l generalizing s with
  | nil => exact ⟨rfl, SameButHeard.refl s⟩
  | cons n l ih =>
    obtain ⟨hrest, hsame⟩ := ih (s.hear n)
    exact ⟨hrest, SameButHeard.trans (s.hear_spec n).2 hsame⟩

/-! ### The event -/

/-- The result of a sent access returns to its wave (R198). -/
theorem execAtomicResultReturn_returns {s : State} {wid seq : Nat} {w : Wave} {e : Entry} (hw : s.wave? wid = some w)
    (he : w.entry? seq = some e) (hseq : e.seq = seq) (hk : resultReturns e.ins = true) (hst : e.st = .sent)
    (hret : s.returns w e = true) (hd : e.dest.Nodup) :
    ∃ t w', exec (.atomicResultReturn wid seq) s = .next t ∧
      t = { s with waves := t.waves, ctxs := t.ctxs, tagrecs := t.tagrecs, freeCtr := t.freeCtr } ∧ SameButHeard s t ∧
      OtherWaves s t wid ∧ t.wave? wid = some w' ∧ Returned w e w' := by
  obtain ⟨hrest, hsame⟩ := s.heardFrom_spec w e
  have hwaves : (s.heardFrom w e).waves = s.waves := by rw [hrest]
  refine ⟨((((s.heardFrom w e).dropTag w seq).modWave wid (fun w => (Entry.write s e e.exec 0 w).dropEntry seq)).useFree),
    (Entry.write s e e.exec 0 w).dropEntry seq, ?_, ?_, hsame, fun k hk => ?_, ?_, hseq ▸ Entry.write_returned s w 0 hd⟩
  · change execAtomicResultReturn wid seq s = _
    rw [execAtomicResultReturn, hw, Option.bind_some, he]
    simp only [Option.map_some, hst, hk, hret, beq_self_eq_true, Bool.and_self, if_true]
  · rw [hrest]
    rfl
  · rw [State.wave?_useFree, State.wave?_modWave_other _ _ _ _ hk]
    exact congrArg (aget? · k) hwaves
  · rw [State.wave?_useFree, State.wave?_modWave_same]
    exact congrArg (Option.map _) ((congrArg (aget? · wid) hwaves).trans hw)

end Sys2Proof.Machine
end

section
/-!
PROOFS. The issues of ATOM, ATOMC and RED (spec/09 R173, R198), and the statement about them.
-/

namespace Sys2Proof.Machine

/-! ### The memory side changes no wave -/

theorem State.spoil_waves (s : State) (ctx va : Nat) : (s.spoil ctx va).waves = s.waves := by
  unfold State.spoil
  split <;> rfl

theorem State.nodeWrite_waves (s : State) (va : Option (Nat × Nat)) (pa : Nat) (bs : List Byte) :
    (s.nodeWrite va pa bs).waves = s.waves := by
  cases va with
  | none => rfl
  | some x => exact State.spoil_waves _ _ _

theorem State.writeLoc_waves {s t : State} {ctx : Nat} {l : Loc} {bs : List Byte} (h : s.writeLoc ctx l bs = some t) :
    t.waves = s.waves := by
  cases l with
  | mem pa => cases h; rfl
  | closed pa va => cases h; exact State.spoil_waves _ _ _
  | spad k off => cases h; rfl
  | comp pa => cases h
  | node k a =>
    simp only [State.writeLoc] at h
    split at h
    · obtain ⟨pa, -, rfl⟩ := Option.map_eq_some_iff.mp h
      exact State.nodeWrite_waves _ _ _ _
    · cases h; rfl

theorem State.storeLane_waves {s t : State} {ctx : Nat} {core : Option Nat} {l : Loc} {bs : List Byte}
    (h : s.storeLane ctx core l bs = .ok t) : t.waves = s.waves := by
  unfold State.storeLane at h
  simp only at h
  split at h
  · cases h
  · split at h
    next u hu =>
      cases h
      rw [State.writeLoc_waves hu]
      split
      · rw [State.hideFrom_eq]; rfl
      · rfl
    next => cases h

theorem State.rmw_waves {s : State} {ctx n op free : Nat} {core : Option Nat} {l : Loc} {data : List Byte} {f : Nat → Nat}
    {x : State × Nat} (h : s.rmw ctx core l n op data f free = .ok x) : x.1.waves = s.waves := by
  unfold State.rmw at h
  split at h
  · split at h
    · cases h; rfl
    · split at h
      · cases h
      · split at h
        · cases h
        · cases h; exact State.nodeWrite_waves _ _ _ _
  · split at h
    · cases h
    · dsimp only at h
      split at h
      next t ht => cases h; exact State.storeLane_waves ht
      next => cases h

theorem State.wave?_rmwAll (s : State) (ctx : Nat) (core : Option Nat) (n op : Nat) (locs : List (Nat × Loc))
    (data : Nat → List Byte) (f : Nat → Nat → Nat) (k : Nat) :
    (s.rmwAll ctx core n op locs data f).1.wave? k = s.wave? k := by
  refine congrArg (aget? · k) (?_ : (s.rmwAll ctx core n op locs data f).1.waves = s.waves)
  unfold State.rmwAll
  refine List.foldlRecOn (motive := fun (p : State × List (Nat × List Word) × Lanes × Nat) => p.1.waves = s.waves) locs _ rfl (fun p hp x _ => ?_)
  split
  next y hy => exact (State.rmw_waves hy).trans hp
  next => exact hp

/-- Only the words of the lanes of an access say what it performs. -/
theorem State.rmwAll_congr (s : State) (ctx : Nat) (core : Option Nat) (n op : Nat) {locs : List (Nat × Loc)}
    (data : List Word → List Byte) (f : List Word → Nat → Nat) {vals vals' : Nat → List Word}
    (h : ∀ x ∈ locs, vals x.1 = vals' x.1) :
    s.rmwAll ctx core n op locs (fun l => data (vals l)) (fun l => f (vals l)) =
      s.rmwAll ctx core n op locs (fun l => data (vals' l)) (fun l => f (vals' l)) := by
  unfold State.rmwAll
  dsimp only
  generalize ((s, [], 0, 0) : State × List (Nat × List Word) × Lanes × Nat) = p
  induction locs generalizing p with
  | nil => rfl
  | cons x locs ih =>
    rw [List.foldl_cons, List.foldl_cons, h x List.mem_cons_self]
    exact ih (fun y hy => h y (List.mem_cons_of_mem _ hy)) _

/-! ### The issue (R173, R198) -/

/-- The Mitten entry of an atomic none of whose lanes failed. -/
def State.atomicEntry (s : State) (i : Instr) (r : Run) (locs : List (Nat × Loc)) (vals res : List (Nat × List Word))
    (dest : List Nat) : Entry :=
  let ea := s.addrs i r (fun v => v.getD 0 0)
  { r.entry i .t 2 with addr := (ea.head?.map Prod.snd).getD 0, ea, loc := locs, vals, res, dest, st := .sent }

/-- What the memory side makes of the lanes of an atomic, after the wave's earlier stores. -/
def State.performed (s : State) (i : Instr) (o : OpM) (r : Run) (op : Nat) (locs : List (Nat × Loc)) (data : Nat → List Word)
    (operand : List Word → Word) (f : List Word → Nat → Nat) : State × List (Nat × List Word) × Lanes × Nat :=
  let m := s.atMemory i o r (fun v => v.getD 0 0) locs
  m.rmwAll r.w.ctx (m.writer r.w) o.size.bytes op locs (fun l => toBytes o.size.bytes (operand (data l)).toNat)
    (fun l => f (data l))

/-- An issue of an atomic that deterministic mode does not close, and none of whose lanes meets a fault. -/
theorem State.atomicOp_performs {s : State} {i : Instr} {o : OpM} {op : Nat} {dest : List Nat}
    {data : State → Run → Nat → List Word} {operand : List Word → Word} {f : List Word → Nat → Nat} {r : Run}
    {locs : List (Nat × Loc)} (hi : Issues s i r) (hx : r.ex ≠ 0)
    (hdet : s.isDet r.w = true → detLanes (s.addrs i r (fun v => v.getD 0 0)) = 0)
    (hr : Reaches s i r accAtomic [0, 1, 2, 3, 4] o.size.bytes o.size.bytes (fun v => v.getD 0 0) locs)
    (hp : (s.performed i o r op locs (data s r) operand f).2.2.1 = 0) :
    s.atomicOp i o op dest data operand f = .next
      (((s.performed i o r op locs (data s r) operand f).1.noteTag r.w i r.w.seqNext (locs.map Prod.snd)).finishEntry i r
        (s.atomicEntry i r locs ((lanesOf r.ex).map (fun t => (t, data s r t)))
          (s.performed i o r op locs (data s r) operand f).2.1 dest)) := by
  have hopen : (s.isDet r.w && detLanes (s.addrs i r (fun v => v.getD 0 0)) != 0) = false := by
    cases hd : s.isDet r.w with
    | false => rfl
    | true => rw [hdet hd]; rfl
  have hvals : ∀ x ∈ locs, (aget? ((lanesOf r.ex).map (fun t => (t, data s r t))) x.1).getD [] = data s r x.1 := fun x hxl => by
    rw [aget?_lanesOf _ ((mem_lanesOf _ _).mp (hr.lanes ▸ List.mem_map_of_mem hxl)), Option.getD_some]
  have hperf := fun m : State => m.rmwAll_congr r.w.ctx (m.writer r.w) o.size.bytes op
    (fun v => toBytes o.size.bytes (operand v).toNat) f
    (vals := fun t => (aget? ((lanesOf r.ex).map (fun t => (t, data s r t))) t).getD []) hvals
  unfold State.performed at hp ⊢
  dsimp only at hp ⊢
  rw [State.atomicOp, State.issue_next hi hi.waits]
  dsimp only
  rw [hopen, if_neg Bool.false_ne_true, State.checked_reaches _ hr]
  unfold State.atMemory State.afterStores at hp ⊢
  rw [hperf, if_neg hx, if_pos hp]
  rfl

/-- An instruction that is such an atomic keeps the old values for its registers (R198). -/
theorem State.atomically {s : State} {i : Instr} {o : OpM} {op : Nat} {dest : List Nat} {data : State → Run → Nat → List Word}
    {operand : List Word → Word} {f : List Word → Nat → Nat} (r : Run) (h : exec i s = s.atomicOp i o op dest data operand f) :
    Atomically s i o r op dest (data s r) operand f := by
  unfold Atomically
  intro n ptr locs w1 hi hx hdet hr m hw p hp
  obtain ⟨c, w', hgo, hc, hoth, hof⟩ := State.finishEntry_spec (p.1.noteTag r.w i r.w.seqNext (locs.map Prod.snd)) i r
    (s.atomicEntry i r locs ((lanesOf r.ex).map (fun t => (t, data s r t))) p.2.1 dest) w1
    ((State.wave?_rmwAll m _ _ _ _ _ _ _ _).trans hw) hx rfl rfl rfl rfl rfl
  refine ⟨c, _, w', _, h.trans (State.atomicOp_performs hi hx hdet hr hp), hgo, ?_, hoth, hof, rfl, rfl, rfl, rfl⟩
  rw [hc]
  rfl

/-! ### The statement -/

/-- Settles O25: the three instructions are atomics of their operations; their results return as all of class T do. -/
theorem atomicsIssue : Obligations.AtomicsIssue := by
  intro o s r
  refine ⟨?_, ?_, ?_, fun w e seq hw he hseq hk hst hret hd => execAtomicResultReturn_returns hw he hseq hk hst hret hd⟩
  · exact State.atomically (data := fun s r t => [(s.srcVals r.w (.atom o) t).getD 1 0]) r rfl
  · exact State.atomically (data := fun s r t => [(s.srcVals r.w (.atomc o) t).getD 1 0, s.regVal r.w t o.d.toNat]) r rfl
  · exact State.atomically (data := fun s r t => [s.regVal r.w t o.d.toNat]) r rfl

end Sys2Proof.Machine
end

section
/-!
PROOFS. JOIN, ARRV and the releases of waiting threads, and the convergence registers (spec/12 R249-R252, R255).
-/

namespace Sys2Proof.Machine

/-! ### The wave in issue -/

/-- A changed wave, where it stands. -/
theorem State.wave?_modWave_some {s : State} {k : Nat} {w : Wave} (f : Wave → Wave) (hw : s.wave? k = some w) :
    (s.modWave k f).wave? k = some (f w) := by
  rw [State.wave?_modWave_same, hw]
  rfl

/-- The wave of an issue stands in the machine. -/
theorem Issues.wave?_eq {s : State} {i : Instr} {r : Run} (hi : Issues s i r) : s.wave? r.c.wid = some r.w :=
  (State.run?_eq hi.issue).2.1

/-! ### Arrivals (R249-R251) -/

/-- An arrival changes the records alone: the lanes stand in the record of the pc, which is there, and no other record
changes. -/
theorem Wave.arriveJoin_spec (w : Wave) (pc : Word) (lanes : Lanes) :
    ∃ js, w.arriveJoin pc lanes = { w with joins := js } ∧
      (∀ j ∈ js, j.pc = pc → ∀ l, lanes.getLsbD l = true → j.arrived.getLsbD l = true) ∧
      (∃ j ∈ js, j.pc = pc) ∧ ∀ j, j.pc ≠ pc → (j ∈ js ↔ j ∈ w.joins) := by
  unfold Wave.arriveJoin
  by_cases hopen : (w.joins.any (fun j => j.pc == pc)) = true
  · rw [if_pos hopen]
    refine ⟨_, rfl, fun j hj hpc l hl => ?_, ?_, fun j hpc => ?_⟩
    · obtain ⟨x, -, rfl⟩ := List.mem_map.mp hj
      by_cases hx : x.pc = pc
      · simp [hx, hl]
      · simp [hx] at hpc
    · obtain ⟨x, hx, hxpc⟩ := List.any_eq_true.mp hopen
      exact ⟨_, List.mem_map_of_mem hx, by simp [beq_iff_eq.mp hxpc]⟩
    · constructor
      · intro hj
        obtain ⟨x, hx, rfl⟩ := List.mem_map.mp hj
        by_cases hxpc : x.pc = pc
        · simp [hxpc] at hpc
        · simpa [hxpc] using hx
      · exact fun hj => List.mem_map.mpr ⟨j, hj, by simp [hpc]⟩
  · rw [if_neg hopen]
    have hnone : ∀ j ∈ w.joins, j.pc ≠ pc := fun j hj hpc => hopen (List.any_eq_true.mpr ⟨j, hj, beq_iff_eq.mpr hpc⟩)
    refine ⟨_, rfl, fun j hj hpc l hl => ?_, ⟨_, List.mem_append_right _ List.mem_cons_self, rfl⟩, fun j hpc => ?_⟩
    · rcases List.mem_append.mp hj with hj | hj
      · exact absurd hpc (hnone j hj)
      · rwa [List.mem_singleton.mp hj]
    · have hnew : j ≠ { pc, arrived := lanes, isOpen := true } := fun h => hpc (congrArg Join.pc h)
      simp [hnew]

/-- An issue of JOIN whose record is open, or can be opened, arrives and stops (R250). -/
theorem execJoin_stops {o : OpC} {s : State} {r : Run} (hi : Issues s (.join o) r) :
    exec (.join o) s = .next ((s.modWave r.c.wid (fun w => w.arriveJoin r.c.pc r.ex)).finishWait (.join o) r
      (fun _ => .join o.d.toNat)) := by
  change execJoin o s = _
  rw [execJoin, State.issue_next (wait := joinWait) hi hi.waits]

/-- An issue of ARRV in some thread, whose target is a JOIN of its own rate, arrives there and goes on (R251). -/
theorem execArrv_arrives {o j : OpC} {s u : State} {r : Run} {w0 w1 : Word} (hi : Issues s (.arrv o) r) (hx : r.ex ≠ 0)
    (hf : s.wordsAt r.w (pcPlus r.c.pc o.tgt) = .ok (w0, w1, u)) (hd : decodeWords w0 w1 = .ok (.join j))
    (hrate : j.h.rate = o.h.rate) :
    exec (.arrv o) s = .next ((s.modWave r.c.wid (fun w => w.arriveJoin (pcPlus r.c.pc o.tgt) r.ex)).finish (.arrv o) r) := by
  change execArrv o s = _
  rw [execArrv, State.issue_next (wait := arrvWait o) hi hi.waits]
  dsimp only
  rw [if_neg hx, hf]
  simp [hd, hrate]

/-! ### Releases (R250, R252) -/

theorem Wave.mem_joinersAt {w : Wave} {pc : Word} {l : Nat} :
    l ∈ w.joinersAt pc ↔ l < 32 ∧ (w.thread l).present = true ∧ (w.thread l).exited = false ∧
      (w.thread l).wait.isJoin = true ∧ (w.thread l).pc = pc := by
  simp [Wave.joinersAt, and_assoc]

/-- A wait at a JOIN that a handler interrupted is no wait of the handler's to release (R256). -/
theorem Thread.released_isJoin {th : Thread} (h : th.wait.isJoin = true) :
    th.released Wait.isJoin = { th with wait := .none, pc := th.pc + 8 } := by
  simp [Thread.released, h]

/-- What a release makes of each thread of its wave. -/
theorem State.release_threads {s : State} {wid : Nat} {w : Wave} (lanes : Lanes) (p : Wait → Bool)
    (hw : s.wave? wid = some w) :
    ∃ w', (s.release wid lanes p).wave? wid = some w' ∧ w' = { w with threads := w'.threads } ∧
      ∀ l, w'.thread l =
        if lanes.getLsbD l = true ∧ l < w.threads.length ∧ (w.thread l).exited = false then (w.thread l).released p
        else w.thread l := by
  obtain ⟨f1, f2, -⟩ := Wave.foldl_modThread (lanesOf lanes) (nodup_lanesOf _)
    (fun _ th => if th.exited then th else th.released p) w
  refine ⟨_, ?_, f2, fun l => (f1 l).trans ?_⟩
  · exact State.wave?_modWave_some _ hw
  · simp only [mem_lanesOf]
    by_cases he : (w.thread l).exited = true <;> simp [he]

/-- The lanes that leave a record when the threads of a list go on: they and their members. -/
def State.leaving (s : State) (w : Wave) (rel : List Nat) : Lanes :=
  rel.foldl (fun m t => m ||| s.joinMembers w t) (maskOf rel)

theorem getLsbD_foldl_orLanes (f : Nat → Lanes) (rel : List Nat) (m : Lanes) (k : Nat) :
    (rel.foldl (fun m t => m ||| f t) m).getLsbD k = true ↔ m.getLsbD k = true ∨ ∃ l ∈ rel, (f l).getLsbD k = true := by
  induction rel generalizing m with
  | nil => simp
  | cons a rel ih => simp [ih, or_assoc]

/-- A record without the lanes that leave it has none of the released threads, and none of their members. -/
theorem State.without_leaving {s : State} {w : Wave} {rel : List Nat} {l : Nat} (arrived : Lanes) (hl : l ∈ rel)
    (hlt : l < 32) :
    (arrived &&& ~~~s.leaving w rel).getLsbD l = false ∧ arrived &&& ~~~s.leaving w rel &&& s.joinMembers w l = 0 := by
  have hself : (s.leaving w rel).getLsbD l = true := by
    refine (getLsbD_foldl_orLanes _ _ _ _).mpr (.inl ?_)
    simp [getLsbD_maskOf, hl, hlt]
  have hmembers : ∀ k, (s.joinMembers w l).getLsbD k = true → (s.leaving w rel).getLsbD k = true := fun k hk =>
    (getLsbD_foldl_orLanes _ _ _ _).mpr (.inr ⟨l, hl, hk⟩)
  refine ⟨by simp [hself], BitVec.eq_of_getLsbD_eq fun k hk => ?_⟩
  cases hm : (s.joinMembers w l).getLsbD k with
  | false => simp [hm]
  | true => simp [hmembers k hm]

/-- The records of a wave after a release at a pc, of which those without arrivals or waiting threads are closed. -/
def Wave.leaveJoin (w : Wave) (pc : Word) (gone : Lanes) : Wave :=
  ({ w with joins := w.joins.map (fun j =>
    if j.pc == pc then { j with arrived := j.arrived &&& ~~~gone } else j) } : Wave).closeJoins

theorem State.releaseJoin_eq (s : State) (wid : Nat) (w : Wave) (pc : Word) (rel : List Nat) :
    s.releaseJoin wid w pc rel =
      (s.release wid (maskOf rel) Wait.isJoin).modWave wid (fun v => v.leaveJoin pc (s.leaving w rel)) := rfl

theorem Wave.leaveJoin_arrived {w : Wave} {pc : Word} {gone : Lanes} {j : Join} (hj : j ∈ (w.leaveJoin pc gone).joins)
    (hpc : j.pc = pc) : ∃ x ∈ w.joins, j.arrived = x.arrived &&& ~~~gone := by
  obtain ⟨x, hx, rfl⟩ := List.mem_map.mp (List.mem_filter.mp hj).1
  by_cases hxpc : x.pc = pc
  · exact ⟨x, hx, by simp [hxpc]⟩
  · simp [hxpc] at hpc

/-- Threads that wait at a pc go on from it, and leave its record with their members. -/
theorem State.releaseJoin_released {s : State} {wid : Nat} {w : Wave} {pc : Word} {rel : List Nat}
    (hw : s.wave? wid = some w) (hrel : ∀ l ∈ rel, l ∈ w.joinersAt pc) :
    JoinReleased s wid w pc rel (s.releaseJoin wid w pc rel) := by
  obtain ⟨v, hv, hrest, hthreads⟩ := State.release_threads (maskOf rel) Wait.isJoin hw
  rw [State.releaseJoin_eq]
  refine ⟨rfl, fun k hk => ?_, v.leaveJoin pc (s.leaving w rel), ?_, ?_, fun l hl => ?_, fun l hl => ?_,
    fun j hj hpc l hl => ?_⟩
  · exact (State.wave?_modWave_other _ _ _ _ hk).trans (State.wave?_modWave_other _ _ _ _ hk)
  · exact State.wave?_modWave_some _ hv
  · rw [hrest]
    rfl
  · obtain ⟨hlt, hpres, hex, hjoin, hlpc⟩ := Wave.mem_joinersAt.mp (hrel l hl)
    have hbit : (maskOf rel).getLsbD l = true := by simp [getLsbD_maskOf, hl, hlt]
    refine (hthreads l).trans ?_
    rw [if_pos ⟨hbit, Wave.lt_of_present hpres, hex⟩, Thread.released_isJoin hjoin, hlpc]
  · have hbit : ¬(maskOf rel).getLsbD l = true := by simp [getLsbD_maskOf, hl]
    exact (hthreads l).trans (if_neg fun h => hbit h.1)
  · obtain ⟨hlt, -⟩ := Wave.mem_joinersAt.mp (hrel l hl)
    obtain ⟨x, -, hx⟩ := Wave.leaveJoin_arrived hj hpc
    rw [hx]
    exact State.without_leaving _ hl hlt

/-- The release of a record some of whose waiting threads can go on (R250). -/
theorem execJoinRelease_released {s : State} {wid : Nat} {pc : Word} {w : Wave} {j : Join} (hw : s.wave? wid = some w)
    (hj : w.joins.find? (fun j => j.pc == pc) = some j) (hf : w.frozen = false) (hne : s.joinable w j ≠ []) :
    ∃ t, exec (.joinRelease wid pc) s = .next t ∧ JoinReleased s wid w pc (s.joinable w j) t := by
  have hpc : j.pc = pc := beq_iff_eq.mp (List.find?_some (p := fun j : Join => j.pc == pc) hj)
  refine ⟨_, ?_, State.releaseJoin_released hw (fun l hl => hpc ▸ (List.mem_filter.mp hl).1)⟩
  change execJoinRelease wid pc s = _
  have hgo : ((s.joinable w j).isEmpty || w.frozen) = false := by
    rw [hf, Bool.or_false]
    exact List.isEmpty_eq_false_iff.mpr hne
  rw [execJoinRelease, hw, Option.bind_some, hj]
  dsimp only [Option.map_some]
  rw [hgo, if_neg Bool.false_ne_true]

/-- The release of a wave all of whose threads are stopped at JOINs that none can leave (R252). -/
theorem execJoinDeadlockRelease_released {s : State} {wid : Nat} {w : Wave} {j : Join} (hw : s.wave? wid = some w)
    (hj : w.lowestJoin = some j) (hdead : s.joinDeadlock wid w = true) :
    ∃ t, exec (.joinDeadlockRelease wid) s = .next t ∧ JoinReleased s wid w j.pc (w.joinersAt j.pc) t := by
  refine ⟨_, ?_, State.releaseJoin_released hw (fun _ hl => hl)⟩
  change execJoinDeadlockRelease wid s = _
  rw [execJoinDeadlockRelease, hw, Option.bind_some, hj]
  dsimp only [Option.map_some]
  rw [if_pos hdead]

/-! ### Convergence registers (R255) -/

/-- A change of a workgroup leaves the others as they are. -/
theorem State.modWg_spec {s : State} {k : Nat} {g : Workgroup} (f : Workgroup → Workgroup) (hg : s.wg? k = some g) :
    (∀ j, j ≠ k → (s.modWg k f).wg? j = s.wg? j) ∧ (s.modWg k f).wg? k = some (f g) :=
  ⟨fun j hj => State.wg?_modWg_other s k j f hj, by rw [State.wg?_modWg_same, hg]; rfl⟩

/-- An issue that ends after a change of its workgroup alone goes on, and leaves the other workgroups as they are. -/
theorem Issues.modWg_goesOn {s : State} {i : Instr} {r : Run} {g : Workgroup} {f : Workgroup → Workgroup} (hi : Issues s i r)
    (hg : s.wg? r.w.wg = some g) (hexec : exec i s = .next ((s.modWg r.w.wg f).finish i r)) :
    ∃ b t w', exec i s = .next t ∧ GoesOn b i r r.w t w' ∧ b = { s with wgs := b.wgs } ∧
      (∀ k, k ≠ r.w.wg → b.wg? k = s.wg? k) ∧ b.wg? r.w.wg = some (f g) := by
  obtain ⟨w', hgo⟩ := State.finish_goesOn (s.modWg r.w.wg f) i r r.w hi.wave?_eq
  obtain ⟨hother, hself⟩ := State.modWg_spec f hg
  exact ⟨_, _, w', hexec, hgo, rfl, hother, hself⟩

/-- An issue of KSET whose register is in no round sets its expected waves. -/
theorem execKset_sets {o : OpC} {s : State} {r : Run} {g : Workgroup} (hg : s.wg? r.w.wg = some g) (hi : Issues s (.kset o) r)
    (hc : (convOf g o.d.toNat).isOpen = false) :
    exec (.kset o) s = .next ((s.modWg r.w.wg (fun g => g.modConv o.d.toNat (fun c =>
      { c with w := (operand s r (.kset o) r.low 0).setWidth 32 }))).finish (.kset o) r) := by
  change execKset o s = _
  rw [execKset, State.issue_next hi rfl]
  simp [hg, hc, operand]

/-- A wave is expected by its own register where no set is given, until another wave opens the round; else by the set. -/
theorem Conv.expects_iff (c : Conv) (wid idx : Nat) :
    c.expects wid idx = true ↔ if c.w = 0 then c.isOpen = false ∨ c.wave = wid else c.w.getLsbD idx = true := by
  unfold Conv.expects
  by_cases h : c.w = 0 <;> simp [h]

/-- An issue of SIGN adds the executing threads to a register that expects their wave. -/
theorem execSign_signs {o : OpC} {s : State} {r : Run} (hi : Issues s (.sign o) r) :
    exec (.sign o) s = .next ((s.modWg r.w.wg (fun g => g.modConv o.d.toNat (fun c =>
      if (if c.w = 0 then c.isOpen = false ∨ c.wave = r.c.wid else c.w.getLsbD r.w.idx = true) then
        { c with sigs := tset 0 c.sigs r.c.wid (tget 0 c.sigs r.c.wid ||| r.ex) } else c))).finish (.sign o) r) := by
  change execSign o s = _
  rw [execSign, State.issue_next hi rfl]
  simp only [Conv.expects_iff]

/-! ### The statement -/

/-- Settles O36: arrivals change their record alone, a release is one of threads that wait at its pc, and KSET and SIGN change
their register alone. -/
theorem joinsAndConvergence : Obligations.JoinsAndConvergence := by
  refine ⟨⟨fun o s r hi => ?_, fun o s r w0 w1 u j hi hx hf hd hrate => ?_, Wave.arriveJoin_spec,
    fun s wid pc w j hw hj hf hne => execJoinRelease_released hw hj hf hne,
    fun s wid w j hw hj hdead => execJoinDeadlockRelease_released hw hj hdead⟩,
    fun o s r g hg => ⟨fun hi hc => ?_, fun hi => ?_⟩⟩
  · exact ⟨_, _, execJoin_stops hi, rfl, fun k hk => State.wave?_modWave_other _ _ _ _ hk,
      State.finishWait_stopsEach _ (State.wave?_modWave_some _ hi.wave?_eq)⟩
  · obtain ⟨w', hgo⟩ := State.finish_goesOn _ (.arrv o) r _
      (State.wave?_modWave_some (fun w => w.arriveJoin (pcPlus r.c.pc o.tgt) r.ex) hi.wave?_eq)
    exact ⟨_, _, w', execArrv_arrives hi hx hf hd hrate, rfl, fun k hk => State.wave?_modWave_other _ _ _ _ hk, hgo⟩
  · exact hi.modWg_goesOn hg (execKset_sets hg hi hc)
  · exact hi.modWg_goesOn hg (execSign_signs hi)

end Sys2Proof.Machine
end

section
/-!
PROOFS. BAR, GBAR and the completion of a barrier (spec/12 R253, R254).
-/

namespace Sys2Proof.Machine

/-! ### The issues -/

/-- An issue of BAR with a count in range arrives at its barrier and stops (R253). -/
theorem execBar_stops {o : OpC} {s : State} {r : Run} (hi : Issues s (.bar o) r)
    (hc : (operand s r (.bar o) r.low 0).toNat ≤ 1024) :
    exec (.bar o) s = .next ((s.modWg r.w.wg (fun g => g.modBar o.d.toNat (fun x => (lanesOf r.ex).foldl (fun x l =>
      x.arrive (operand s r (.bar o) r.low 0).toNat r.c.wid l) x))).finishWait (.bar o) r (fun _ => .bar o.d.toNat)) := by
  change execBar o s = _
  rw [execBar, State.issue_next hi rfl]
  exact congrArg Host.Outcome.next (if_neg (Nat.not_lt.mpr hc))

/-- An issue of GBAR arrives at the barrier of its gang and stops (R254). -/
theorem execGbar_stops {o : OpC} {s : State} {r : Run} {g : Workgroup} (hg : s.wg? r.w.wg = some g) (hi : Issues s (.gbar o) r) :
    exec (.gbar o) s = .next ((s.modGang g.gang (fun a =>
      { a with gbar := tset 0 a.gbar r.c.wid (tget 0 a.gbar r.c.wid ||| r.ex) })).finishWait (.gbar o) r (fun _ => .gbar)) := by
  change execGbar o s = _
  rw [execGbar, State.issue_next hi rfl, hg]
  rfl

/-! ### The completion -/

/-- Releases of a table of arrivals, each wave once, reach every wave of the table and no other. -/
theorem State.foldl_release_allReleased (p : Wait → Bool) (arr : Table Lanes) (hn : (arr.map Prod.fst).Nodup) (s : State) :
    AllReleased s (arr.foldl (fun s e => s.release e.1 e.2 p) s) arr p ∧
    arr.foldl (fun s e => s.release e.1 e.2 p) s = { s with waves := (arr.foldl (fun s e => s.release e.1 e.2 p) s).waves } := by
  induction arr generalizing s with
  | nil => exact ⟨⟨fun k lanes v h => absurd h List.not_mem_nil, fun _ _ => rfl⟩, rfl⟩
  | cons e arr ih =>
    obtain ⟨he, hn⟩ := List.nodup_cons.mp hn
    obtain ⟨⟨hin, hout⟩, hframe⟩ := ih hn (s.release e.1 e.2 p)
    have hother : ∀ k, k ≠ e.1 → (s.release e.1 e.2 p).wave? k = s.wave? k := fun k hk => State.wave?_modWave_other _ _ _ _ hk
    have hfresh : ∀ x ∈ arr, x.1 ≠ e.1 := fun x hx h => he (h ▸ List.mem_map_of_mem hx)
    rw [List.foldl_cons]
    refine ⟨⟨fun k lanes v hmem hv => ?_, fun k hk => ?_⟩, hframe⟩
    · rcases List.mem_cons.mp hmem with rfl | hmem
      · obtain ⟨v', hv', hrest, hrel⟩ := State.release_spec lanes p hv
        exact ⟨v', (hout k hfresh).trans hv', hrel, hrest⟩
      · exact hin k lanes v hmem ((hother k (hfresh _ hmem)).trans hv)
    · exact (hout k (fun x hx => hk x (List.mem_cons_of_mem _ hx))).trans (hother k (hk e List.mem_cons_self).symm)

/-- A complete barrier of a workgroup lets its generation go on, after its waves' earlier accesses. -/
theorem execBarrierComplete_bar {s : State} {k n : Nat} {x : BarGen} (hn : n < 16) (hx : s.barReady k n = some x) :
    exec (.barrierComplete k n) s = .next
      ((s.modWg k (fun g => g.modBar n (fun b => { gens := b.gens.drop 1 }))).releaseAll x.arrivals 2 (· == .bar n)) := by
  change execBarrierComplete k n s = _
  rw [execBarrierComplete, if_pos hn, hx]

/-- So does a complete barrier of a gang. -/
theorem execBarrierComplete_gbar {s : State} {k : Nat} {a : Gang} (ha : s.gang? k = some a) (hr : s.gbarReady k = true) :
    exec (.barrierComplete k 16) s = .next
      ((s.modGang k (fun a => { a with gbar := [] })).releaseAll a.gbar 3 (· == .gbar)) := by
  change execBarrierComplete k 16 s = _
  rw [execBarrierComplete, if_neg (Nat.lt_irrefl 16), ha]
  dsimp only
  rw [if_pos hr]

/-! ### The statement -/

/-- Settles O37: the issues arrive and stop; a completion is a release of each wave of the arrivals. -/
theorem barriers : Obligations.Barriers := by
  refine ⟨fun o s r g hg hi hc => ?_, fun o s r g a hg ha hi => ?_, fun s k n _ x hn _ hx hnodup => ?_,
    fun s k a ha hr hnodup => ?_⟩
  · obtain ⟨hother, hself⟩ := State.modWg_spec _ hg
    exact ⟨_, _, execBar_stops hi hc, rfl, State.finishWait_stopsEach _ hi.wave?_eq, hother, hself⟩
  · refine ⟨_, _, execGbar_stops hg hi, rfl, State.finishWait_stopsEach _ hi.wave?_eq,
      fun k hk => State.gang?_modGang_other _ _ _ _ hk, ?_⟩
    rw [State.gang?_modGang_same, ha]
    rfl
  · obtain ⟨hall, hframe⟩ := State.foldl_release_allReleased (· == .bar n) x.arrivals hnodup _
    exact ⟨_, execBarrierComplete_bar hn hx, hall, hframe⟩
  · obtain ⟨hall, hframe⟩ := State.foldl_release_allReleased (· == .gbar) a.gbar hnodup _
    exact ⟨_, execBarrierComplete_gbar ha hr, hall, hframe⟩

end Sys2Proof.Machine
end
